-- ==== Sys2Proof/Word.lean ====
section
/-!
DEFINITION. The widths the manual gives its registers and words (file 02).
-/
namespace Sys2Proof

/-- A byte of memory (R2). -/
abbrev Byte := BitVec 8
/-- A lane of a vector, an instruction word, a cell of an accumulator bank (R27, R34). -/
abbrev Word := BitVec 32
/-- A scalar, an engine register, a control register (R27). -/
abbrev DWord := BitVec 64
/-- A code address: the PC and the pending target are 48 bits wide (R29). -/
abbrev CodeAddr := BitVec 48
/-- One 1,024-bit predicate (R27). -/
abbrev PredReg := BitVec 1024

end Sys2Proof
end

