-- ==== Sys2Proof/Syntax.lean ====
section
/-!
DEFINITION. The instructions: one constructor of Instr per row of the opcode table. The first 214 are the
words of the eight slots (R49-R55); the other 118 are the steps that no word encodes (file 95): acts of the
engines, of the Regulator and of the world outside the die, with what they carry as plain data.
-/
namespace Sys2Proof

/-- A scalar register s0-s31, or a vector register v0-v31 (R27). -/
abbrev RegNo := Fin 32
/-- A partition of the die, 0-3 (R31). -/
abbrev PartNo := Fin 4
/-- A node-id dimension, 0-13 (R22). -/
abbrev DimNo := Fin 14

/-- The type field of V3 and M words, in code order (R44). -/
inductive ElemType where
  | f32 | bf16 | f16 | i32 | n32 | i16 | i8 | n8
  deriving DecidableEq, Repr

/-- The size field of MS words, in code order (R44). -/
inductive MemSize where
  | i8 | n8 | i16 | n16 | i32 | n32 | i64 | f32
  deriving DecidableEq, Repr

/-- The rounding modes, in code order (R72). -/
inductive RoundMode where
  | rne | rz | ru | rd | sr
  deriving DecidableEq, Repr

/-- The calibres 1-6 (R222). -/
inductive Calibre where
  | c1 | c2 | c3 | c4 | c5 | c6
  deriving DecidableEq, Repr

/-- The scopes, in code order (R46). -/
inductive Scope where
  | lane | slab | die | pack | sub | cube
  deriving DecidableEq, Repr

/-- The accumulation formats, in code order of AF (R225). -/
inductive AccFmt where
  | f32 | bf16 | f16
  deriving DecidableEq, Repr

/-- The hold control of a V3 or C word (R47): no hold; read the register at the position and latch it;
take the operand at the position from the latch. The flag is POS: false is va or sA, true is vb or sB. -/
inductive Hold where
  | off
  | latch (pos : Bool)
  | held (pos : Bool)
  deriving DecidableEq, Repr

/-- The conditions of BRC, in code order (R160). -/
inductive BrCond where
  | eqz | nez | ltz | gez | gtz | lez
  deriving DecidableEq, Repr

/-- The functions of PLOG, in code order (R191). -/
inductive PlogFn where
  | and | or | xor | andn | not
  deriving DecidableEq, Repr

/-- The functions of VBIT, in code order (R193). -/
inductive VbitFn where
  | clz | ctz | popc
  deriving DecidableEq, Repr

/-- The integer types of FCVTIF and FCVTFI, in code order (R156). -/
inductive IntType where
  | i32 | n32 | i64 | n64
  deriving DecidableEq, Repr

/-- The formats that VCVT converts from and to FP32: those of R44, then those of EXT (R194). -/
inductive CvtFmt where
  | f32 | bf16 | f16 | i32 | n32 | i16 | i8 | n8
  | e4m3 | e5m2 | e2m3 | e3m2 | e2m1 | t2 | e8m0
  deriving DecidableEq, Repr

/-! ### Operands of the words of slot 0 (class B) -/

/-- BRC (R160). -/
structure BrcOp where
  cond : BrCond
  ra : RegNo
  disp : BitVec 17
  deriving DecidableEq, Repr

/-- BRV (R161); `onTrue` is `.t`. -/
structure BrvOp where
  onTrue : Bool
  pn : Fin 8
  disp : BitVec 17
  deriving DecidableEq, Repr

/-- LOOP (R164). -/
structure LoopOp where
  idx : Fin 6
  rc : RegNo
  len : BitVec 10
  deriving DecidableEq, Repr

/-- LOOPI (R164). -/
structure LoopiOp where
  idx : Fin 6
  count : BitVec 12
  len : BitVec 10
  deriving DecidableEq, Repr

/-- SYS (R169). -/
structure SysOp where
  rd : RegNo
  imm : BitVec 20
  deriving DecidableEq, Repr

/-- MFC and MTC (R171): the scalar and the register number. -/
structure CtlOp where
  reg : RegNo
  num : BitVec 15
  deriving DecidableEq, Repr

/-- BARR and BSET (R176). -/
structure BarOp where
  b : Fin 64
  n : BitVec 16
  deriving DecidableEq, Repr

/-- BWAIT and BWAIT.keep (R176). -/
structure BwaitOp where
  b : Fin 64
  keep : Bool
  deriving DecidableEq, Repr

/-- WAITID (R143). -/
structure WaitidOp where
  ch : Fin 8
  rk : RegNo
  deriving DecidableEq, Repr

/-! ### Operands of the words of slot 1 (class S) -/

/-- Two sources (R145, R146, R154). -/
structure A3Op where
  rd : RegNo
  ra : RegNo
  rb : RegNo
  deriving DecidableEq, Repr

/-- One source (R147, R154). -/
structure A2Op where
  rd : RegNo
  ra : RegNo
  deriving DecidableEq, Repr

/-- SEL (R148). -/
structure SelOp where
  rd : RegNo
  ra : RegNo
  rb : RegNo
  rc : RegNo
  deriving DecidableEq, Repr

/-- Immediate forms (R149). -/
structure ImmOp where
  rd : RegNo
  ra : RegNo
  imm : BitVec 15
  deriving DecidableEq, Repr

/-- SLLI, SRLI, SRAI (R149). -/
structure ShiOp where
  rd : RegNo
  ra : RegNo
  sh : BitVec 6
  deriving DecidableEq, Repr

/-- SUI (R150). -/
structure SuiOp where
  rd : RegNo
  imm : BitVec 20
  deriving DecidableEq, Repr

/-- ADDPC (R150). -/
structure AddpcOp where
  rd : RegNo
  imm : BitVec 15
  deriving DecidableEq, Repr

/-- LDARG (R151): imm15 is 8 times `slot8`. -/
structure LdargOp where
  rd : RegNo
  ra : RegNo
  slot8 : BitVec 5
  deriving DecidableEq, Repr

/-- RDI (R152). -/
structure RdiOp where
  rd : RegNo
  n : Fin 6
  deriving DecidableEq, Repr

/-- FADD, FSUB, FMUL, FDIV (R154). -/
structure F3Op where
  rd : RegNo
  ra : RegNo
  rb : RegNo
  rm : RoundMode
  deriving DecidableEq, Repr

/-- FSQRT (R154). -/
structure F2Op where
  rd : RegNo
  ra : RegNo
  rm : RoundMode
  deriving DecidableEq, Repr

/-- FMADD, FMSUB, FNMADD (R155). -/
structure F4Op where
  rd : RegNo
  ra : RegNo
  rb : RegNo
  rc : RegNo
  rm : RoundMode
  deriving DecidableEq, Repr

/-- FCVTIF, FCVTFI (R156). -/
structure FcvtOp where
  rd : RegNo
  ra : RegNo
  ity : IntType
  rm : RoundMode
  deriving DecidableEq, Repr

/-! ### Operands of the words of slots 2 and 3 (class V); `pipe1` is true in slot 3 -/

/-- Two vector sources (R185, R189, R197, R202). -/
structure V2Op where
  pipe1 : Bool
  vd : RegNo
  va : RegNo
  vb : RegNo
  pg : Fin 8
  ty : ElemType
  hold : Hold
  m : Bool
  deriving DecidableEq, Repr

/-- One vector source (R185, R188). -/
structure V1Op where
  pipe1 : Bool
  vd : RegNo
  va : RegNo
  pg : Fin 8
  ty : ElemType
  hold : Hold
  sat : Bool
  deriving DecidableEq, Repr

/-- Two vector sources and no type: VAND, VOR, VXOR, VPERM, and VSEL, where `pg` is the condition
(R185, R190, R202). -/
structure VwOp where
  pipe1 : Bool
  vd : RegNo
  va : RegNo
  vb : RegNo
  pg : Fin 8
  hold : Hold
  deriving DecidableEq, Repr

/-- VCVT (R194): `toF32` is DIR. -/
structure VcvtOp where
  pipe1 : Bool
  vd : RegNo
  va : RegNo
  toF32 : Bool
  fmt : CvtFmt
  rm : RoundMode
  pg : Fin 8
  hold : Hold
  sat : Bool
  deriving DecidableEq, Repr

/-- VUNPK (R198). -/
structure VunpkOp where
  pipe1 : Bool
  vd : RegNo
  va : RegNo
  j : Fin 4
  pg : Fin 8
  ty : ElemType
  hold : Hold
  deriving DecidableEq, Repr

/-- VSHS (R203): `nm1` is n − 1. Slot 2 only. -/
structure VshsOp where
  vd : RegNo
  va : RegNo
  nm1 : Fin 64
  pg : Fin 8
  hold : Hold
  deriving DecidableEq, Repr

/-- Reductions and scans (R204). Slot 2 only. `rd` is the scalar of a reduction, the vector of a scan. -/
structure VredOp where
  rd : RegNo
  va : RegNo
  cal : Calibre
  pg : Fin 8
  ty : ElemType
  hold : Hold
  sat : Bool
  deriving DecidableEq, Repr

/-- A vector destination, a scalar source and a type: VMOVS, VRNG (R199, R211). -/
structure VmovsOp where
  pipe1 : Bool
  vd : RegNo
  sa : RegNo
  pg : Fin 8
  ty : ElemType
  hold : Hold
  deriving DecidableEq, Repr

/-- VLANE (R200). -/
structure VlaneOp where
  pipe1 : Bool
  vd : RegNo
  sa : RegNo
  pg : Fin 8
  hold : Hold
  deriving DecidableEq, Repr

/-- VEXT (R201). Slot 2 only. -/
structure VextOp where
  sd : RegNo
  va : RegNo
  sb : RegNo
  ty : ElemType
  hold : Hold
  deriving DecidableEq, Repr

/-- PLOG (R191). -/
structure PlogOp where
  pipe1 : Bool
  pd : Fin 8
  pa : Fin 8
  pb : Fin 8
  fn : PlogFn
  hold : Hold
  deriving DecidableEq, Repr

/-- PCNT (R192). Slot 2 only. -/
structure PcntOp where
  sd : RegNo
  pa : Fin 8
  pg : Fin 8
  hold : Hold
  deriving DecidableEq, Repr

/-- VBIT (R193). -/
structure VbitOp where
  pipe1 : Bool
  vd : RegNo
  va : RegNo
  fn : VbitFn
  pg : Fin 8
  hold : Hold
  deriving DecidableEq, Repr

/-- Compares (R189). -/
structure VcmpOp where
  pipe1 : Bool
  pd : Fin 8
  va : RegNo
  vb : RegNo
  pg : Fin 8
  ty : ElemType
  hold : Hold
  deriving DecidableEq, Repr

/-- VQPOP and VQPUSH (R212): `v` is the vector register. -/
structure VqOp where
  pipe1 : Bool
  v : RegNo
  q : Fin 8
  pg : Fin 8
  hold : Hold
  deriving DecidableEq, Repr

/-! ### Operands of the words of slots 4 and 5 (classes M0 and M1) -/

/-- PLD, PST (R248). -/
structure M0Op where
  vd : RegNo
  sa : RegNo
  pg : Fin 8
  ty : ElemType
  deriving DecidableEq, Repr

/-- PLDS, PSTS, and PGTH, PSCT, where `sb` names the index vector (R248). -/
structure M0sOp where
  vd : RegNo
  sa : RegNo
  sb : RegNo
  pg : Fin 8
  ty : ElemType
  deriving DecidableEq, Repr

/-- PLDB (R248). -/
structure PldbOp where
  vd : RegNo
  sa : RegNo
  pg : Fin 8
  deriving DecidableEq, Repr

/-- PFILL (R248). -/
structure PfillOp where
  sc : RegNo
  sa : RegNo
  sb : RegNo
  deriving DecidableEq, Repr

/-- Format MS (R42, R252, R259). -/
structure MsOp where
  sd : RegNo
  sa : RegNo
  size : MemSize
  imm : BitVec 8
  win : Fin 16
  deriving DecidableEq, Repr

/-- SCASX (R259). -/
structure CasOp where
  sd : RegNo
  sa : RegNo
  size : MemSize
  sn : RegNo
  win : Fin 16
  deriving DecidableEq, Repr

/-- PREF (R253). -/
structure PrefOp where
  sa : RegNo
  imm : BitVec 8
  win : Fin 16
  deriving DecidableEq, Repr

/-- VLDH, VSTH (R254). -/
structure M1Op where
  vd : RegNo
  sa : RegNo
  pg : Fin 8
  ty : ElemType
  win : Fin 16
  deriving DecidableEq, Repr

/-- VLDHS, VSTHS, and the forms whose `sb` names an index vector (R254, R260). -/
structure M1sOp where
  vd : RegNo
  sa : RegNo
  sb : RegNo
  pg : Fin 8
  ty : ElemType
  win : Fin 16
  deriving DecidableEq, Repr

/-- SBIND (R258). -/
structure SbindOp where
  q : Fin 8
  k : Fin 4
  deriving DecidableEq, Repr

/-! ### Operands of the words of slot 6 (class E) -/

/-- MMA, SMMA, TMMA (R225, R227). -/
structure MmaOp where
  sa : RegNo
  sb : RegNo
  tile : Fin 16
  af : AccFmt
  cal : Calibre
  hold : Hold
  bc : Bool
  ip : Bool
  deriving DecidableEq, Repr

/-- MZERO (R231). -/
structure MzeroOp where
  tile : Fin 16
  af : AccFmt
  deriving DecidableEq, Repr

/-- MDECAY (R232). -/
structure MdecayOp where
  sa : RegNo
  tile : Fin 16
  af : AccFmt
  cal : Calibre
  hold : Hold
  bc : Bool
  row : Bool
  deriving DecidableEq, Repr

/-- MDRAIN (R233). -/
structure MdrainOp where
  sa : RegNo
  sb : RegNo
  tile : Fin 16
  af : AccFmt
  cal : Calibre
  hold : Hold
  bar : Bool
  clr : Bool
  deriving DecidableEq, Repr

/-- MGATH (R235). -/
structure MgathOp where
  sa : RegNo
  sb : RegNo
  ab : Fin 2
  hold : Hold
  bc : Bool
  idx : Bool
  deriving DecidableEq, Repr

/-- MSAVE, MREST (R236). -/
structure MsaveOp where
  sa : RegNo
  sb : RegNo
  hold : Hold
  bar : Bool
  deriving DecidableEq, Repr

/-- MSET (R237). -/
structure MsetOp where
  sa : RegNo
  mn : Fin 8
  get : Bool
  hold : Hold
  deriving DecidableEq, Repr

/-- MCALL (R239). -/
structure McallOp where
  sa : RegNo
  sb : RegNo
  cal : Calibre
  hold : Hold
  deriving DecidableEq, Repr

/-- Two scalar sources and a hold: MUPD, XCINS (R240, R306). -/
structure C2Op where
  sa : RegNo
  sb : RegNo
  hold : Hold
  deriving DecidableEq, Repr

/-- EWR and ERD (R238): the scalar and the engine register. -/
structure EregOp where
  sa : RegNo
  n : Fin 64
  hold : Hold
  deriving DecidableEq, Repr

/-! ### Operands of the words of slot 7 (class X) -/

/-- COPY, COPYA, COPYD, COPYDA (R137). -/
structure CopyOp where
  sa : RegNo
  sb : RegNo
  ch : Fin 8
  bar : Bool
  flag : Bool
  hold : Hold
  deriving DecidableEq, Repr

/-- COPYH (R137); `inward` is DIR. -/
structure CopyhOp where
  sa : RegNo
  sb : RegNo
  ch : Fin 8
  bar : Bool
  flag : Bool
  inward : Bool
  hold : Hold
  deriving DecidableEq, Repr

/-- CQPUSH (R140). -/
structure CqpushOp where
  sa : RegNo
  ch : Fin 8
  hold : Hold
  deriving DecidableEq, Repr

/-- CSTAT (R141). -/
structure CstatOp where
  sa : RegNo
  sb : RegNo
  ch : Fin 8
  byId : Bool
  hold : Hold
  deriving DecidableEq, Repr

/-- CFLAG (R142). -/
structure CflagOp where
  sa : RegNo
  sb : RegNo
  ch : Fin 8
  bar : Bool
  far : Bool
  hold : Hold
  deriving DecidableEq, Repr

/-- XCH (R292). -/
structure XchOp where
  sa : RegNo
  sb : RegNo
  k : Fin 4
  hold : Hold
  deriving DecidableEq, Repr

/-- XCB (R292). -/
structure XcbOp where
  sa : RegNo
  sb : RegNo
  k : Fin 4
  cal : Calibre
  hold : Hold
  deriving DecidableEq, Repr

/-- SIB (R292). -/
structure SibOp where
  sa : RegNo
  sb : RegNo
  k : Fin 4
  b : Fin 14
  hold : Hold
  deriving DecidableEq, Repr

/-- SIBC (R292). -/
structure SibcOp where
  sa : RegNo
  sb : RegNo
  k : Fin 4
  b : Fin 14
  cal : Calibre
  hold : Hold
  deriving DecidableEq, Repr

/-- SHF (R292); `back` is DIR. -/
structure ShfOp where
  sa : RegNo
  sb : RegNo
  k : Fin 4
  back : Bool
  hold : Hold
  deriving DecidableEq, Repr

/-- SHFC (R292). -/
structure ShfcOp where
  sa : RegNo
  sb : RegNo
  k : Fin 4
  back : Bool
  cal : Calibre
  hold : Hold
  deriving DecidableEq, Repr

/-- A scalar destination and a scalar source: XSTAT, REPQ, REPS (R304, R360). -/
structure XqOp where
  sd : RegNo
  sb : RegNo
  hold : Hold
  deriving DecidableEq, Repr

/-- REPC (R360). -/
structure RepcOp where
  sb : RegNo
  hold : Hold
  deriving DecidableEq, Repr

/-- REPX (R360). -/
structure RepxOp where
  sb : RegNo
  all : Bool
  hold : Hold
  deriving DecidableEq, Repr

/-! ### What the steps that no word encodes carry -/

/-- What ends a start-up stage (R388, R389): the failure code, or 0; for the end of stage 1 the digests of
the verified firmware; for stage 2 the device key drawn, the slab map and the halves that failed the slab test; for
stage 3 the trained dimensions and the detour entry of each dimension. The node id is known when stage 2 begins, and the
dimensions that are to train when stage 3 does, with the order in which the escapement sites have their roles (R17). -/
structure StageOutcome where
  fail : BitVec 8
  digests : List (BitVec 512)
  deviceKey : BitVec 512
  slabMap : List (Nat × Nat)
  badHalves : List Nat
  trained : BitVec 14
  node : BitVec 14
  detours : List (DimNo × DimNo)
  roles : Fin 6
  deriving DecidableEq, Repr

/-- LINK_TRAIN_TIMEOUT (R389): the dimensions that did not train, and what stage 3 found otherwise. -/
structure TrainTimeout where
  dead : BitVec 14
  rest : StageOutcome
  deriving DecidableEq, Repr

/-- A mailbox code of its own and the firmware's answer (R387). -/
structure MbxOther where
  tag : BitVec 16
  code : BitVec 16
  deriving DecidableEq, Repr

/-- The two register spaces a write without a behaviour of its own can reach (R274-R276, R375, R385). -/
inductive RegSpace where
  | bar0 | regulator
  deriving DecidableEq, Repr

/-- REGISTER_WRITE (R6, R7). -/
structure RegWrite where
  space : RegSpace
  addr : Nat
  value : BitVec 64
  deriving DecidableEq, Repr

/-- SPDM requests (R390). -/
inductive SpdmRequest where
  | certificate | measurement (index : Nat) | openSession | closeSession
  deriving DecidableEq, Repr

/-- LOADKEY (R391). An all-zero key empties the slot. -/
structure LoadkeyMsg where
  slot : Fin 1024
  tenant : BitVec 12
  key : BitVec 512
  deriving DecidableEq, Repr

/-- A write by the host, CXL or Ethernet: byte address of the die's home memory, and the bytes (R310, R382). -/
structure HostBytes where
  addr : Nat
  bytes : List Byte
  deriving DecidableEq, Repr

/-- A read by the host, CXL or Ethernet. -/
structure HostSpan where
  addr : Nat
  len : Nat
  deriving DecidableEq, Repr

/-- A PCIe AtomicOp (R382): `wide` is 8 bytes. -/
structure HostAtomic where
  addr : Nat
  wide : Bool
  operand : BitVec 64
  compare : BitVec 64
  deriving DecidableEq, Repr

/-- ETHERNET_DMA (R384): a write carries bytes, a read carries a length. -/
structure EthDma where
  write : Bool
  addr : Nat
  bytes : List Byte
  len : Nat
  deriving DecidableEq, Repr

/-- The header of a flit that arrives on the link of a dimension (R269). -/
structure FlitHdr where
  link : DimNo
  ftype : Fin 16
  lane : Fin 4
  dim : Fin 16
  src : BitVec 14
  dst : BitVec 14
  rsv : Nat
  lseq : BitVec 32
  lack : BitVec 32
  pseq : BitVec 32
  valid : Nat
  cargo : BitVec 64
  deriving DecidableEq, Repr

/-- The counter that gives an exchange operation its pairing number (R290). -/
inductive PairCounter where
  | dim (d : Fin 14)
  | shift
  deriving DecidableEq, Repr

/-- The kinds of exchange operation (R291). -/
inductive XKind where
  | xch | xcb | sib | sibc | shf | shfc
  deriving DecidableEq, Repr

/-- The signature of an exchange operation (R291). -/
structure Signature where
  kind : XKind
  len : Nat
  slabs : BitVec 16
  ety : Nat
  op : Nat
  cal : Nat
  crc : BitVec 32
  bit : Nat
  mask : BitVec 64
  back : Bool
  version : BitVec 16
  deriving DecidableEq, Repr

/-- A READY flit's contents (R291, R308). `src` is the sender's node id. -/
structure Ready where
  job : BitVec 32
  seq : Nat
  ctr : PairCounter
  num : Nat
  sig : Signature
  src : BitVec 14
  deriving DecidableEq, Repr

/-- One 256-byte chunk of an exchange (R294). -/
structure Chunk where
  job : BitVec 32
  seq : Nat
  ctr : PairCounter
  num : Nat
  src : BitVec 14
  slab : Fin 16
  index : Nat
  bytes : List Byte
  errBytes : List Byte
  deriving DecidableEq, Repr

/-- The payload of a DATA flit (R270): an exchange chunk, or the next bytes of a copy for a posted packet, with the
positions among them that an uncorrectable source word left without a value. -/
inductive DataCargo where
  | chunk (c : Chunk)
  | copyBytes (job : BitVec 32) (ch : Fin 8) (bytes : List Byte) (bad : List Nat)
  deriving DecidableEq, Repr

/-- DATA_FLIT. -/
structure DataFlit where
  hdr : FlitHdr
  cargo : DataCargo
  deriving DecidableEq, Repr

/-- A 64-byte copy packet without its PHASE and STATUS (R124, R125). -/
structure Packet where
  ctl : BitVec 64
  src : BitVec 64
  dst : BitVec 64
  len : BitVec 64
  flagAddr : BitVec 64
  flagVal : BitVec 64
  rsv : BitVec 64
  deriving DecidableEq, Repr

/-- What a CTRL flit carries besides the tokens, READY and rendezvous flits and posted packets, which have rows
of their own (R270): the outcome of a posting, the retirement of a posted packet, the pull of a posted packet's source
by its physical ranges (R123), a copy of a task-queue entry (R333). -/
inductive CtrlCargo where
  | postResult (job : BitVec 32) (ch : Fin 8) (ok : Bool)
  | proxyRetire (job : BitVec 32) (ch : Fin 8) (status : BitVec 64)
  | readRequest (job : BitVec 32) (ch : Fin 8) (ranges : List (Nat × Nat))
  | fanout (entry : List (BitVec 64)) (job : BitVec 32)
  deriving DecidableEq, Repr

/-- CTRL_FLIT. -/
structure CtrlFlit where
  hdr : FlitHdr
  cargo : CtrlCargo
  deriving DecidableEq, Repr

/-- READY_FLIT. -/
structure ReadyFlit where
  hdr : FlitHdr
  ready : Ready
  deriving DecidableEq, Repr

/-- POSTED_PACKET (R123): the packet, the issuing job, the channel and the physical ranges of its source. -/
structure PostedMsg where
  hdr : FlitHdr
  job : BitVec 32
  ch : Fin 8
  pkt : Packet
  src : List (Nat × Nat)
  deriving DecidableEq, Repr

/-- BARRIER_TOKEN (R179, R180): of a TICK or of a SYNCC, with its scope, job and SEQ. -/
structure TokenMsg where
  hdr : FlitHdr
  job : BitVec 32
  seq : Nat
  isTick : Bool
  scope : Scope
  deriving DecidableEq, Repr

/-- RENDEZVOUS_FLIT (R174). -/
structure RdzMsg where
  hdr : FlitHdr
  job : BitVec 32
  seq : Nat
  deriving DecidableEq, Repr

/-- PACKAGE_LINE_RELEASE (R180): the agreement that is released. -/
structure PackRelease where
  job : BitVec 32
  seq : Nat
  isTick : Bool
  deriving DecidableEq, Repr

/-- NAK_FLIT (R271). -/
structure NakMsg where
  hdr : FlitHdr
  deriving DecidableEq, Repr

/-- END_TO_END_ACK (R280, R281): the last PSEQ accepted, and whether it answers a FENCE, whose number its CARGO then bears. -/
structure AckMsg where
  hdr : FlitHdr
  upTo : BitVec 32
  fence : Bool
  deriving DecidableEq, Repr

/-- GTIME_FLIT (R285): the sample and the measured round trip in ns. -/
structure GtimeMsg where
  hdr : FlitHdr
  sample : BitVec 64
  roundTrip : Nat
  deriving DecidableEq, Repr

/-- TRAIN_FLIT (R284): the lowest and the highest version the partner supports. -/
structure TrainMsg where
  hdr : FlitHdr
  lo : BitVec 16
  hi : BitVec 16
  deriving DecidableEq, Repr

/-- CREDIT_FLIT (R270): credits returned on a lane. -/
structure CreditMsg where
  hdr : FlitHdr
  lane : Fin 4
  credits : Nat
  deriving DecidableEq, Repr

/-- DETOUR_FORWARD (R278): a flit in transit and its payload, opaque to this die. -/
structure TransitFlit where
  hdr : FlitHdr
  payload : List Byte
  deriving DecidableEq, Repr

/-- RETRAIN_COMPLETE (R272). -/
structure RetrainMsg where
  link : DimNo
  ok : Bool
  deriving DecidableEq, Repr

/-- WAVELENGTH_FAILOVER (R273). -/
structure WaveMsg where
  link : DimNo
  wave : Fin 9
  deriving DecidableEq, Repr

/-- LASER_HOURLY_UPDATE (R275): the hour's average power, in units of 0.01 dBm, and the bias. -/
structure LaserMsg where
  link : DimNo
  wave : Fin 9
  power : BitVec 16
  bias : BitVec 16
  lit : Bool
  deriving DecidableEq, Repr

/-- CORRECTED_ERROR and UNCORR (R375): the class and the unit that the word belongs to. -/
structure ErrUnit where
  cls : Fin 4
  unit : Nat
  deriving DecidableEq, Repr

/-- Where an uncorrectable error stands that nothing has consumed (R105, R283): a line of home memory, a 64-bit word of the
plates, the k-th flit that a hop holds, or the k-th that a pair holds in the replay buffer. -/
inductive PoisonPlace where
  | line (n : Nat)
  | plate (word : Nat)
  | hop (link : DimNo) (k : Nat)
  | pair (dim : DimNo) (k : Nat)
  deriving DecidableEq, Repr

/-- LINE_POISON (R105): the place and the unit. -/
structure PoisonMsg where
  place : PoisonPlace
  unit : ErrUnit
  deriving DecidableEq, Repr

/-- A queue of the die: channel c of partition p (R120). -/
structure QueueId where
  part : PartNo
  ch : Fin 8
  deriving DecidableEq, Repr

/-- PCIE_COMPLETION (R127). -/
structure PcieDone where
  part : PartNo
  ch : Fin 8
  ok : Bool
  bytes : List Byte
  deriving DecidableEq, Repr

/-- An exchange slot of a partition (R288). -/
structure SlotId where
  part : PartNo
  k : Fin 4
  deriving DecidableEq, Repr

/-- A bind record of the slot table (R341). -/
structure BindRecord where
  valid : Bool
  part : PartNo
  checked : Bool
  gang : Bool
  prio : BitVec 4
  tenant : BitVec 12
  plates : Nat
  pbase : Nat
  version : BitVec 16
  job : BitVec 32
  hpver : BitVec 16
  root : BitVec 64
  cqhdr : BitVec 64
  tqhdr : BitVec 64
  graph : BitVec 48
  nodes : BitVec 16
  start : BitVec 64
  period : BitVec 64
  quantum : BitVec 64
  drain : BitVec 64
  seed : BitVec 64
  deriving DecidableEq, Repr

/-- BIND_PARTITION: the Regulator writes one record of the slot table (R341, R344). -/
structure BindMsg where
  index : Fin 16
  record : BindRecord
  deriving DecidableEq, Repr

/-- A row of the tenant table (R352). -/
structure TenantRow where
  valid : Bool
  tenant : BitVec 12
  hslot : Fin 1024
  recording : Bool
  pbase : BitVec 20
  plen : BitVec 32
  pkey : Fin 1024
  deriving DecidableEq, Repr

/-- TENANT_ROW_WRITE (R352). -/
structure TenantWrite where
  index : Fin 16
  row : TenantRow
  deriving DecidableEq, Repr

/-- TRAP_RESOLVE (R362): whether a debugger is attached. -/
structure TrapChoice where
  debugger : Bool
  deriving DecidableEq, Repr

/-- PAGE_TABLE_REBUILD (R99): the table's address and the host's copy of it. -/
structure RebuildMsg where
  table : Nat
  bytes : List Byte
  deriving DecidableEq, Repr

/-- What a debugger writes into a q register (R27, R112): the pattern, how many items have moved and have been fetched, and the items
of its queue with their active lanes. -/
structure QWrite where
  pb : BitVec 64
  pc : BitVec 64
  ps1 : BitVec 64
  ps2 : BitVec 64
  moved : Nat
  fetched : Nat
  items : List (List (BitVec 32) × BitVec 1024)
  deriving DecidableEq, Repr

/-- DEBUG_RESUME (R363): what the debugger writes into the stream's registers first (R27): scalars, lanes of vectors, predicates,
cells of the accumulators, q registers (none unbinds one), the matrix and engine registers, indices, barriers as COUNT and TARGET, the
hold latches of slots 2 and 3 and of slots 6 and 7 (none empties one), FLAGS and SEED. -/
structure DebugWrites where
  scalars : List (RegNo × BitVec 64) := []
  lanes : List (RegNo × Fin 1024 × BitVec 32) := []
  preds : List (Fin 8 × BitVec 1024) := []
  cells : List (Fin 524288 × BitVec 32) := []
  ms : List (Fin 8 × BitVec 64) := []
  es : List (Fin 64 × BitVec 64) := []
  idxs : List (Fin 6 × BitVec 32) := []
  bars : List (Fin 64 × BitVec 16 × BitVec 16) := []
  flags : Option (BitVec 7) := none
  qs : List (Fin 8 × Option QWrite) := []
  holdsV : List (Fin 2 × Option (List (BitVec 32))) := []
  holdsC : List (Fin 2 × Option (BitVec 64)) := []
  seed : Option (BitVec 64) := none
  deriving DecidableEq, Repr

/-- ATOMIC_APPLY (R262): which pending atomic instruction's next update is applied. -/
structure AtomicPick where
  index : Nat
  deriving DecidableEq, Repr

/-- The instructions and steps of the die, one constructor per row of the opcode table. -/
inductive Instr where
  -- every slot (R35)
  | nop
  -- slot 0, class B (R49)
  | br (disp : BitVec 25)
  | brc (o : BrcOp)
  | brv (o : BrvOp)
  | call (disp : BitVec 25)
  | callr (ra : RegNo)
  | ret
  | jr (ra : RegNo)
  | loop (o : LoopOp)
  | loopi (o : LoopiOp)
  | done
  | seg (k : BitVec 12)
  | rdz (mask : BitVec 14)
  | sys (o : SysOp)
  | park
  | unstub
  | trap (imm : BitVec 20)
  | brk (imm : BitVec 20)
  | mfc (o : CtlOp)
  | mtc (o : CtlOp)
  | tick (sc : Scope)
  | syncp
  | syncc (sc : Scope)
  | barr (o : BarOp)
  | bwait (o : BwaitOp)
  | bset (o : BarOp)
  | fence (mask : BitVec 5)
  | waitid (o : WaitidOp)
  -- slot 1, class S (R50)
  | add (o : A3Op)
  | sub (o : A3Op)
  | and (o : A3Op)
  | or (o : A3Op)
  | xor (o : A3Op)
  | andn (o : A3Op)
  | sll (o : A3Op)
  | srl (o : A3Op)
  | sra (o : A3Op)
  | slt (o : A3Op)
  | sltu (o : A3Op)
  | seq (o : A3Op)
  | min (o : A3Op)
  | max (o : A3Op)
  | minu (o : A3Op)
  | maxu (o : A3Op)
  | mul (o : A3Op)
  | mulh (o : A3Op)
  | mulhu (o : A3Op)
  | div (o : A3Op)
  | divu (o : A3Op)
  | rem (o : A3Op)
  | remu (o : A3Op)
  | clz (o : A2Op)
  | ctz (o : A2Op)
  | popc (o : A2Op)
  | sext8 (o : A2Op)
  | sext16 (o : A2Op)
  | sext32 (o : A2Op)
  | zext8 (o : A2Op)
  | zext16 (o : A2Op)
  | zext32 (o : A2Op)
  | sel (o : SelOp)
  | addi (o : ImmOp)
  | andi (o : ImmOp)
  | ori (o : ImmOp)
  | xori (o : ImmOp)
  | slli (o : ShiOp)
  | srli (o : ShiOp)
  | srai (o : ShiOp)
  | slti (o : ImmOp)
  | sltiu (o : ImmOp)
  | sui (o : SuiOp)
  | addpc (o : AddpcOp)
  | ldarg (o : LdargOp)
  | rdi (o : RdiOp)
  | fadd (o : F3Op)
  | fsub (o : F3Op)
  | fmul (o : F3Op)
  | fdiv (o : F3Op)
  | fsqrt (o : F2Op)
  | fmin (o : A3Op)
  | fmax (o : A3Op)
  | fabs (o : A2Op)
  | fneg (o : A2Op)
  | feq (o : A3Op)
  | flt (o : A3Op)
  | fle (o : A3Op)
  | fclass (o : A2Op)
  | fmadd (o : F4Op)
  | fmsub (o : F4Op)
  | fnmadd (o : F4Op)
  | fcvtif (o : FcvtOp)
  | fcvtfi (o : FcvtOp)
  -- slots 2 and 3, class V (R51)
  | vadd (o : V2Op)
  | vsub (o : V2Op)
  | vmul (o : V2Op)
  | vfma (o : V2Op)
  | vfms (o : V2Op)
  | vmin (o : V2Op)
  | vmax (o : V2Op)
  | vabs (o : V1Op)
  | vneg (o : V1Op)
  | vand (o : VwOp)
  | vor (o : VwOp)
  | vxor (o : VwOp)
  | vshl (o : V2Op)
  | vshr (o : V2Op)
  | vdiv (o : V2Op)
  | vrcp (o : V1Op)
  | vrsqrt (o : V1Op)
  | vsqrt (o : V1Op)
  | vexp2 (o : V1Op)
  | vlog2 (o : V1Op)
  | vtanh (o : V1Op)
  | vsigm (o : V1Op)
  | vsin (o : V1Op)
  | vcos (o : V1Op)
  | vcmpeq (o : VcmpOp)
  | vcmpne (o : VcmpOp)
  | vcmplt (o : VcmpOp)
  | vcmple (o : VcmpOp)
  | vsel (o : VwOp)
  | vcvt (o : VcvtOp)
  | vpack (o : V2Op)
  | vunpk (o : VunpkOp)
  | vperm (o : VwOp)
  | vshs (o : VshsOp)
  | vredadd (o : VredOp)
  | vredmax (o : VredOp)
  | vredmin (o : VredOp)
  | vscanadd (o : VredOp)
  | vscanmax (o : VredOp)
  | vscanmin (o : VredOp)
  | vrng (o : VmovsOp)
  | vmovs (o : VmovsOp)
  | vext (o : VextOp)
  | vlane (o : VlaneOp)
  | plog (o : PlogOp)
  | pcnt (o : PcntOp)
  | vbit (o : VbitOp)
  | vqpop (o : VqOp)
  | vqpush (o : VqOp)
  -- slot 4, class M0 (R52)
  | pld (o : M0Op)
  | pst (o : M0Op)
  | plds (o : M0sOp)
  | psts (o : M0sOp)
  | pldb (o : PldbOp)
  | pgth (o : M0sOp)
  | psct (o : M0sOp)
  | pfill (o : PfillOp)
  -- slot 5, class M1 (R53)
  | ldh (o : MsOp)
  | sth (o : MsOp)
  | saadd (o : MsOp)
  | samin (o : MsOp)
  | samax (o : MsOp)
  | saand (o : MsOp)
  | saor (o : MsOp)
  | saaddx (o : MsOp)
  | saswpx (o : MsOp)
  | scasx (o : CasOp)
  | pref (o : PrefOp)
  | vldh (o : M1Op)
  | vsth (o : M1Op)
  | vldhs (o : M1sOp)
  | vsths (o : M1sOp)
  | vgth (o : M1sOp)
  | vsct (o : M1sOp)
  | vaadd (o : M1sOp)
  | vamin (o : M1sOp)
  | vamax (o : M1sOp)
  | vaand (o : M1sOp)
  | vaor (o : M1sOp)
  | vaxor (o : M1sOp)
  | vaaddx (o : M1sOp)
  | vaminx (o : M1sOp)
  | vamaxx (o : M1sOp)
  | vaswpx (o : M1sOp)
  | sbind (o : SbindOp)
  | srel (q : Fin 8)
  -- slot 6, class E (R54)
  | mma (o : MmaOp)
  | smma (o : MmaOp)
  | tmma (o : MmaOp)
  | mzero (o : MzeroOp)
  | mdecay (o : MdecayOp)
  | mdrain (o : MdrainOp)
  | mgath (o : MgathOp)
  | msave (o : MsaveOp)
  | mrest (o : MsaveOp)
  | mset (o : MsetOp)
  | mcall (o : McallOp)
  | mupd (o : C2Op)
  | mwait
  | ewr (o : EregOp)
  | erd (o : EregOp)
  -- slot 7, class X (R55)
  | copy (o : CopyOp)
  | copyd (o : CopyOp)
  | copyh (o : CopyhOp)
  | cqpush (o : CqpushOp)
  | copya (o : CopyOp)
  | copyda (o : CopyOp)
  | cstat (o : CstatOp)
  | cflag (o : CflagOp)
  | xch (o : XchOp)
  | xcb (o : XcbOp)
  | sib (o : SibOp)
  | sibc (o : SibcOp)
  | shf (o : ShfOp)
  | shfc (o : ShfcOp)
  | xwait (mask : BitVec 4)
  | xcins (o : C2Op)
  | xstat (o : XqOp)
  | repq (o : XqOp)
  | repc (o : RepcOp)
  | repx (o : RepxOp)
  | reps (o : XqOp)
  -- steps that no word encodes (file 95)
  | powerGood
  | stageAdvance (o : StageOutcome)
  | linkTrainTimeout (o : TrainTimeout)
  | versions (tag : BitVec 16)
  | settime (tag : BitVec 16)
  | readreg (tag : BitVec 16)
  | writereg (tag : BitVec 16)
  | chkptSave (tag : BitVec 16)
  | chkptRestore (tag : BitVec 16)
  | resume (tag : BitVec 16)
  | retry (tag : BitVec 16)
  | undefinedCommand (o : MbxOther)
  | firmwareCommand (o : MbxOther)
  | commandComplete
  | mbxevtRead
  | registerWrite (o : RegWrite)
  | spdmRequest (o : SpdmRequest)
  | loadkey (o : LoadkeyMsg)
  | loadkeyComplete
  | alarmTrigger (level : Fin 4)
  | thermalCap
  | thermalTrip
  | hostWrite (o : HostBytes)
  | hostRead (o : HostSpan)
  | hostFetchadd (o : HostAtomic)
  | hostSwap (o : HostAtomic)
  | hostCas (o : HostAtomic)
  | cxlMemStore (o : HostBytes)
  | cxlMemLoad (o : HostSpan)
  | ethernetDma (o : EthDma)
  | stagingRoomWaitEnd
  | idleFlit (h : FlitHdr)
  | dataFlit (o : DataFlit)
  | ctrlFlit (o : CtrlFlit)
  | readyFlit (o : ReadyFlit)
  | postedPacket (o : PostedMsg)
  | barrierToken (o : TokenMsg)
  | rendezvousFlit (o : RdzMsg)
  | endToEndAck (o : AckMsg)
  | nakFlit (o : NakMsg)
  | fenceFlit (h : FlitHdr)
  | gtimeFlit (o : GtimeMsg)
  | trainFlit (o : TrainMsg)
  | creditFlit (o : CreditMsg)
  | detourForward (o : TransitFlit)
  | linkRetrain (d : DimNo)
  | retrainComplete (o : RetrainMsg)
  | linkDead (d : DimNo)
  | detourReturn (d : DimNo)
  | wavelengthFailover (o : WaveMsg)
  | nopathTimeout (d : DimNo)
  | gtimeExchange
  | gtimelost (d : DimNo)
  | laserHourlyUpdate (o : LaserMsg)
  | correctedError (o : ErrUnit)
  | bucketLeak (cls : Fin 4)
  | uncorr (o : ErrUnit)
  | linePoison (o : PoisonMsg)
  | signatureMismatch
  | pageTableRebuild (o : RebuildMsg)
  | packetClaim (o : QueueId)
  | packetNop (o : QueueId)
  | packetCopy (o : QueueId)
  | packetCopya (o : QueueId)
  | packetCopyd (o : QueueId)
  | packetCopyda (o : QueueId)
  | packetCopyh (o : QueueId)
  | packetFlag (o : QueueId)
  | packetRetire (o : QueueId)
  | streamItemFetch (q : Fin 8)
  | streamItemLand (q : Fin 8)
  | streamItemWrite (q : Fin 8)
  | landingRowGrant
  | landingRowDrain (slab : Fin 16)
  | matrixBegin
  | matrixComplete
  | exchangeSend (o : SlotId)
  | exchangeChunkArrive
  | exchangeComplete (o : SlotId)
  | atomicApply (o : AtomicPick)
  | detUpdate (slab : Fin 16)
  | detClose
  | detOutboxRetry (slab : Fin 16)
  | packageLineRelease (o : PackRelease)
  | stagedMerge (p : PartNo)
  | taskEntry (p : PartNo)
  | queueNopEntry (p : PartNo)
  | fanoutForward (p : PartNo)
  | taskCompletion
  | graphEntry (p : PartNo)
  | graphTaskNode (p : PartNo)
  | graphCondNode (p : PartNo)
  | graphWhileNode (p : PartNo)
  | graphJoinNode (p : PartNo)
  | graphEndNode (p : PartNo)
  | bindPartition (o : BindMsg)
  | unbindPartition (p : PartNo)
  | tenantRowWrite (o : TenantWrite)
  | windowOpen (index : Fin 16)
  | windowClose (index : Fin 16)
  | gangPreemptStart (index : Fin 16)
  | preemptDivert
  | drainDeadline
  | abortFinish (p : PartNo)
  | contextSave
  | contextRestore (p : PartNo)
  | lazyTranslate
  | trapResolve (o : TrapChoice)
  | debugResume (o : DebugWrites)
  | regulatorOrderedRetraining (d : DimNo)
  | pcieCompletion (o : PcieDone)
  | completionTimeout (o : QueueId)
  | powerLoss
  | firmwareUpdateService (digest : BitVec 512)
  | sysServiceComplete (result : BitVec 64)
  | flitFecCrcFailure (d : DimNo)
  | reservedKindEntry (p : PartNo)
  | thermalCapRelease
  deriving DecidableEq, Repr

end Sys2Proof
end

