-- ==== Sys2Proof/WellFormed.lean ====
section
/-!
DEFINITION. WellFormed: the encoding rules that make a word ILLEGAL by itself (R42-R56 and the encoding rule of
each instruction chapter). Field widths that the types of Syntax already bound are not repeated. The rules that depend
on the state (an empty latch, a segment's ENTRY, ASRC) are checked by the meanings.
-/
namespace Sys2Proof

/-- The type is one of the listed ones (R44). -/
def ElemType.oneOf (t : ElemType) (l : List ElemType) : Bool := l.contains t
/-- A floating type (R185). -/
def ElemType.isFloat (t : ElemType) : Bool := t.oneOf [.f32, .bf16, .f16]
/-- f32, i32 or n32: the types of one element a lane that move whole lanes (R189, R201, R248, R260). -/
def ElemType.lane32 (t : ElemType) : Bool := t.oneOf [.f32, .i32, .n32]
/-- The scope is one of the listed ones (R178). -/
def Scope.oneOf (t : Scope) (l : List Scope) : Bool := l.contains t
/-- Slot 1 has no random bits, so `.sr` is ILLEGAL there (R153). -/
def RoundMode.notSr (r : RoundMode) : Bool := r != .sr
/-- The sizes that scalar atomics accept (R259). -/
def MemSize.atomic (z : MemSize) : Bool := [MemSize.i32, .n32, .i64, .f32].contains z

/-- R47 for a word with one register source, at position 0. -/
def Hold.okOne (h : Hold) (a : RegNo) : Bool :=
  match h with
  | .off => true
  | .latch pos => !pos
  | .held pos => !pos && a == 0

/-- R47 for a word with register sources at both positions. -/
def Hold.okTwo (h : Hold) (a b : RegNo) : Bool :=
  match h with
  | .off => true
  | .latch _ => true
  | .held pos => if pos then b == 0 else a == 0

/-- R47 for a word whose only register source is at position 1. -/
def Hold.okSecond (h : Hold) (b : RegNo) : Bool :=
  match h with
  | .off => true
  | .latch pos => pos
  | .held pos => pos && b == 0

def V2Op.holdOk (o : V2Op) : Bool := o.hold.okTwo o.va o.vb
def V1Op.holdOk (o : V1Op) : Bool := o.hold.okOne o.va
def VwOp.holdOk (o : VwOp) : Bool := o.hold.okTwo o.va o.vb
/-- R188: slot 2 only, floating types. -/
def V1Op.transcOk (o : V1Op) : Bool := !o.pipe1 && o.ty.isFloat && o.holdOk
/-- R189. -/
def VcmpOp.cmpOk (o : VcmpOp) : Bool := o.pd.val != 0 && o.ty.lane32 && o.hold.okTwo o.va o.vb
/-- R204. -/
def VredOp.redOk (o : VredOp) : Bool := o.ty.lane32 && o.hold.okOne o.va
/-- R225: a word with AF = 0 and T at least 8 is ILLEGAL. -/
def tileOk (af : AccFmt) (t : Fin 16) : Bool := af != .f32 || t.val < 8
def MmaOp.mmaOk (o : MmaOp) : Bool := tileOk o.af o.tile && o.hold.okTwo o.sa o.sb
/-- R177: a mask with fewer than two bits set is ILLEGAL. -/
def maskHasTwo (m : BitVec 5) : Bool :=
  2 ≤ ((List.range 5).filter fun k => m.getLsbD k).length
/-- EWR of e4-e15 (R136), of an XSTS register (R288) and of e55-e63 (R219) is ILLEGAL. -/
def ewrOk (n : Fin 64) : Bool :=
  !(4 ≤ n.val && n.val ≤ 15) && !(n.val == 35 || n.val == 39 || n.val == 43 || n.val == 47) && n.val < 55

/-- No encoding rule makes the word ILLEGAL. The steps that no word encodes are always well formed. -/
def Instr.wf : Instr → Bool
  | .nop | .br _ | .brc _ | .brv _ | .call _ | .callr _ | .ret | .jr _ => true
  | .loop o => o.len != 0
  | .loopi o => o.len != 0
  | .done | .seg _ | .rdz _ => true
  | .sys o => o.rd != 0 || !(o.imm == 0 || o.imm == 1)
  | .park | .unstub | .trap _ | .brk _ => true
  | .mfc o => o.num.toNat < 16
  | .mtc o => o.num.toNat < 16
  | .tick sc => sc.oneOf [.die, .pack, .sub, .cube]
  | .syncp => true
  | .syncc sc => sc.oneOf [.sub, .cube]
  | .barr o => o.n != 0
  | .bwait _ | .bset _ => true
  | .fence mask => maskHasTwo mask
  | .waitid _ | .add _ | .sub _ | .and _ | .or _ | .xor _ | .andn _ | .sll _ | .srl _ | .sra _
  | .slt _ | .sltu _ | .seq _ | .min _ | .max _ | .minu _ | .maxu _ | .mul _ | .mulh _ | .mulhu _
  | .div _ | .divu _ | .rem _ | .remu _ | .clz _ | .ctz _ | .popc _ | .sext8 _ | .sext16 _
  | .sext32 _ | .zext8 _ | .zext16 _ | .zext32 _ | .sel _ | .addi _ | .andi _ | .ori _ | .xori _
  | .slli _ | .srli _ | .srai _ | .slti _ | .sltiu _ | .sui _ | .addpc _ | .ldarg _ | .rdi _ => true
  | .fadd o => o.rm.notSr
  | .fsub o => o.rm.notSr
  | .fmul o => o.rm.notSr
  | .fdiv o => o.rm.notSr
  | .fsqrt o => o.rm.notSr
  | .fmin _ | .fmax _ | .fabs _ | .fneg _ | .feq _ | .flt _ | .fle _ | .fclass _ => true
  | .fmadd o => o.rm.notSr
  | .fmsub o => o.rm.notSr
  | .fnmadd o => o.rm.notSr
  | .fcvtif o => o.rm.notSr
  | .fcvtfi o => o.rm.notSr
  | .vadd o => o.holdOk
  | .vsub o => o.holdOk
  | .vmul o => o.holdOk
  | .vfma o => o.ty.isFloat && o.holdOk
  | .vfms o => o.ty.isFloat && o.holdOk
  | .vmin o => !o.m && o.holdOk
  | .vmax o => !o.m && o.holdOk
  | .vabs o => (!o.sat || !o.ty.isFloat) && o.holdOk
  | .vneg o => (!o.sat || !o.ty.isFloat) && o.holdOk
  | .vand o => o.holdOk
  | .vor o => o.holdOk
  | .vxor o => o.holdOk
  | .vshl o => !o.m && o.ty.oneOf [.i32, .n32, .i16, .i8, .n8] && o.holdOk
  | .vshr o => !o.m && o.ty.oneOf [.i32, .n32, .i16, .i8, .n8] && o.holdOk
  | .vdiv o => !o.m && o.holdOk
  | .vrcp o => o.transcOk
  | .vrsqrt o => o.transcOk
  | .vsqrt o => o.transcOk
  | .vexp2 o => o.transcOk
  | .vlog2 o => o.transcOk
  | .vtanh o => o.transcOk
  | .vsigm o => o.transcOk
  | .vsin o => o.transcOk
  | .vcos o => o.transcOk
  | .vcmpeq o => o.cmpOk
  | .vcmpne o => o.cmpOk
  | .vcmplt o => o.cmpOk
  | .vcmple o => o.cmpOk
  | .vsel o => o.holdOk
  | .vcvt o => o.fmt != .f32 && (!o.toF32 || o.fmt == .i32 || o.fmt == .n32 || o.rm == .rne) && o.hold.okOne o.va
  | .vpack o => ((!o.m && o.ty.oneOf [.bf16, .f16, .i16]) || o.ty.oneOf [.i8, .n8]) && o.holdOk
  | .vunpk o => ((o.ty.oneOf [.bf16, .f16, .i16] && o.j.val < 2) || o.ty.oneOf [.i8, .n8]) && o.hold.okOne o.va
  | .vperm o => o.holdOk
  | .vshs o => o.hold.okOne o.va
  | .vredadd o => o.redOk && !o.sat
  | .vredmax o => o.redOk && !o.sat
  | .vredmin o => o.redOk && !o.sat
  | .vscanadd o => o.redOk && (!o.sat || o.ty != .f32)
  | .vscanmax o => o.redOk && !o.sat
  | .vscanmin o => o.redOk && !o.sat
  | .vrng o => !o.pipe1 && o.ty.oneOf [.n32, .f32] && o.hold == .off
  | .vmovs o => o.hold == .off
  | .vext o => o.ty.lane32 && o.hold.okOne o.va
  | .vlane o => o.hold == .off
  | .plog o => o.pd.val != 0 && (o.fn != .not || o.pb.val == 0) && o.hold == .off
  | .pcnt o => o.hold == .off
  | .vbit o => o.hold.okOne o.va
  | .vqpop o => o.hold == .off
  | .vqpush o => o.hold.okOne o.v
  | .pld _ | .pst _ | .plds _ | .psts _ | .pldb _ => true
  | .pgth o => o.ty.lane32
  | .psct o => o.ty.lane32
  | .pfill _ | .ldh _ | .sth _ => true
  | .saadd o => o.size.atomic
  | .samin o => o.size.atomic
  | .samax o => o.size.atomic
  | .saand o => o.size.atomic && o.size != .f32
  | .saor o => o.size.atomic && o.size != .f32
  | .saaddx o => o.size.atomic
  | .saswpx o => o.size.atomic
  | .scasx o => o.size.atomic && o.size != .f32
  | .pref _ | .vldh _ | .vsth _ | .vldhs _ | .vsths _ => true
  | .vgth o => o.ty.lane32
  | .vsct o => o.ty.lane32
  | .vaadd o => o.ty.lane32
  | .vamin o => o.ty.lane32
  | .vamax o => o.ty.lane32
  | .vaand o => o.ty.lane32 && o.ty != .f32
  | .vaor o => o.ty.lane32 && o.ty != .f32
  | .vaxor o => o.ty.lane32 && o.ty != .f32
  | .vaaddx o => o.ty.lane32
  | .vaminx o => o.ty.lane32
  | .vamaxx o => o.ty.lane32
  | .vaswpx o => o.ty.lane32
  | .sbind _ | .srel _ => true
  | .mma o => o.mmaOk
  | .smma o => o.mmaOk
  | .tmma o => o.mmaOk
  | .mzero o => tileOk o.af o.tile
  | .mdecay o => tileOk o.af o.tile && (!o.bc || o.row) && o.hold.okOne o.sa
  | .mdrain o => tileOk o.af o.tile && o.hold.okTwo o.sa o.sb
  | .mgath o => if o.idx then o.hold.okTwo o.sa o.sb else o.sb == 0 && o.hold.okOne o.sa
  | .msave o => o.hold.okTwo o.sa o.sb
  | .mrest o => o.hold.okTwo o.sa o.sb
  | .mset o => if o.get then o.hold == .off else o.hold.okOne o.sa
  | .mcall o => o.hold.okTwo o.sa o.sb
  | .mupd o => o.hold.okTwo o.sa o.sb
  | .mwait => true
  | .ewr o => o.hold.okOne o.sa && ewrOk o.n
  | .erd o => o.hold == .off
  | .copy o => o.hold.okTwo o.sa o.sb
  | .copyd o => o.hold.okTwo o.sa o.sb
  | .copyh o => o.hold.okTwo o.sa o.sb
  | .cqpush o => o.hold.okOne o.sa
  | .copya o => o.hold.okTwo o.sa o.sb
  | .copyda o => o.hold.okTwo o.sa o.sb
  | .cstat o => if o.byId then o.hold.okSecond o.sb else o.sb == 0 && o.hold == .off
  | .cflag o => o.hold.okTwo o.sa o.sb
  | .xch o => o.hold.okTwo o.sa o.sb
  | .xcb o => o.hold.okTwo o.sa o.sb
  | .sib o => o.hold.okTwo o.sa o.sb
  | .sibc o => o.hold.okTwo o.sa o.sb
  | .shf o => o.hold.okTwo o.sa o.sb
  | .shfc o => o.hold.okTwo o.sa o.sb
  | .xwait mask => mask != 0
  | .xcins o => o.hold.okTwo o.sa o.sb
  | .xstat o => o.hold.okSecond o.sb
  | .repq o => o.hold.okSecond o.sb
  | .repc o => o.hold.okSecond o.sb
  | .repx o => if o.all then o.sb == 0 && o.hold == .off else o.hold.okSecond o.sb
  | .reps o => o.hold.okSecond o.sb
  | .powerGood | .stageAdvance _ | .linkTrainTimeout _ | .versions _ | .settime _ | .readreg _
  | .writereg _ | .chkptSave _ | .chkptRestore _ | .resume _ | .retry _ | .undefinedCommand _
  | .firmwareCommand _ | .commandComplete | .mbxevtRead | .registerWrite _ | .spdmRequest _
  | .loadkey _ | .loadkeyComplete | .alarmTrigger _ | .thermalCap | .thermalTrip | .hostWrite _
  | .hostRead _ | .hostFetchadd _ | .hostSwap _ | .hostCas _ | .cxlMemStore _ | .cxlMemLoad _
  | .ethernetDma _ | .stagingRoomWaitEnd | .idleFlit _ | .dataFlit _ | .ctrlFlit _ | .readyFlit _
  | .postedPacket _ | .barrierToken _ | .rendezvousFlit _ | .endToEndAck _ | .nakFlit _
  | .fenceFlit _ | .gtimeFlit _ | .trainFlit _ | .creditFlit _ | .detourForward _ | .linkRetrain _
  | .retrainComplete _ | .linkDead _ | .detourReturn _ | .wavelengthFailover _ | .nopathTimeout _
  | .gtimeExchange | .gtimelost _ | .laserHourlyUpdate _ | .correctedError _ | .bucketLeak _
  | .uncorr _ | .linePoison _ | .signatureMismatch | .pageTableRebuild _ | .packetClaim _
  | .packetNop _ | .packetCopy _ | .packetCopya _ | .packetCopyd _ | .packetCopyda _
  | .packetCopyh _ | .packetFlag _ | .packetRetire _ | .streamItemFetch _ | .streamItemLand _
  | .streamItemWrite _ | .landingRowGrant | .landingRowDrain _ | .matrixBegin | .matrixComplete
  | .exchangeSend _ | .exchangeChunkArrive | .exchangeComplete _ | .atomicApply _ | .detUpdate _
  | .detClose | .detOutboxRetry _ | .packageLineRelease _ | .stagedMerge _ | .taskEntry _
  | .queueNopEntry _ | .fanoutForward _ | .taskCompletion | .graphEntry _ | .graphTaskNode _
  | .graphCondNode _ | .graphWhileNode _ | .graphJoinNode _ | .graphEndNode _ | .bindPartition _
  | .unbindPartition _ | .tenantRowWrite _ | .windowOpen _ | .windowClose _ | .gangPreemptStart _
  | .preemptDivert | .drainDeadline | .abortFinish _ | .contextSave | .contextRestore _
  | .lazyTranslate | .trapResolve _ | .debugResume _ | .regulatorOrderedRetraining _
  | .pcieCompletion _ | .completionTimeout _ | .powerLoss | .firmwareUpdateService _
  | .sysServiceComplete _ | .flitFecCrcFailure _ | .reservedKindEntry _ | .thermalCapRelease => true

/-- The well-formed instructions. -/
abbrev WellFormed (i : Instr) : Prop := i.wf = true

end Sys2Proof
end

