-- ==== Sys2Proof/Decode.lean ====
section
/-!
DEFINITION. The decoder of the words of the eight slots (R35, R42-R56), total on any number, rejecting by name,
and after it the encoder, written from the same tables. A word is a Nat below 2^32; the stop bit is not part of the
instruction.
-/
namespace Sys2Proof

/-- The fates of a word that is no instruction (R56): ILLEGAL, CALIBRE (R45, R362), and CALIBRE of a word that takes an operand
from its slot's latch, which is ILLEGAL while the latch is empty (R41, R47). -/
inductive DecodeErr where
  | illegal | calibre | calibreHeld
  deriving DecidableEq, Repr

/-- What a word decodes to. -/
abbrev Decoded := Except DecodeErr Instr

/-! ### Fields -/

/-- Bits [lo+n-1:lo] of a word. -/
def field (w lo n : Nat) : Nat := w / 2 ^ lo % 2 ^ n
/-- A 5-bit register field. -/
def regAt (w lo : Nat) : RegNo := Fin.ofNat 32 (w / 2 ^ lo)
/-- A one-bit field. -/
def bitAt (w lo : Nat) : Bool := field w lo 1 == 1
/-- A field kept as bits. -/
def bitsAt (n w lo : Nat) : BitVec n := BitVec.ofNat n (w / 2 ^ lo)
/-- A 5-bit field that must hold a number below n (R43). -/
def below (n w lo : Nat) : Option (Fin n) :=
  if h : field w lo 5 < n then some ⟨field w lo 5, h⟩ else none

/-- The type of a V3 or M word (R44). -/
def elemOf : Nat → ElemType
  | 0 => .f32 | 1 => .bf16 | 2 => .f16 | 3 => .i32 | 4 => .n32 | 5 => .i16 | 6 => .i8 | _ => .n8
/-- The code of a type. -/
def ElemType.code : ElemType → Nat
  | .f32 => 0 | .bf16 => 1 | .f16 => 2 | .i32 => 3 | .n32 => 4 | .i16 => 5 | .i8 => 6 | .n8 => 7
def typeAt (w : Nat) : ElemType := elemOf (field w 4 3)

/-- The size of an MS word (R44). -/
def sizeOf' : Nat → MemSize
  | 0 => .i8 | 1 => .n8 | 2 => .i16 | 3 => .n16 | 4 => .i32 | 5 => .n32 | 6 => .i64 | _ => .f32
def MemSize.code : MemSize → Nat
  | .i8 => 0 | .n8 => 1 | .i16 => 2 | .n16 => 3 | .i32 => 4 | .n32 => 5 | .i64 => 6 | .f32 => 7

/-- The rounding modes (R72); 5, 6 and 7 are ILLEGAL. -/
def roundOf : Nat → Option RoundMode
  | 0 => some .rne | 1 => some .rz | 2 => some .ru | 3 => some .rd | 4 => some .sr | _ => none
def RoundMode.code : RoundMode → Nat
  | .rne => 0 | .rz => 1 | .ru => 2 | .rd => 3 | .sr => 4

/-- The calibres (R45); every other code raises CALIBRE. -/
def calOf : Nat → Option Calibre
  | 1 => some .c1 | 2 => some .c2 | 3 => some .c3 | 4 => some .c4 | 5 => some .c5 | 6 => some .c6 | _ => none
def Calibre.code : Calibre → Nat
  | .c1 => 1 | .c2 => 2 | .c3 => 3 | .c4 => 4 | .c5 => 5 | .c6 => 6

/-- The scopes (R46); 6 and 7 are ILLEGAL. -/
def scopeOf : Nat → Option Scope
  | 0 => some .lane | 1 => some .slab | 2 => some .die | 3 => some .pack | 4 => some .sub | 5 => some .cube
  | _ => none
def Scope.code : Scope → Nat
  | .lane => 0 | .slab => 1 | .die => 2 | .pack => 3 | .sub => 4 | .cube => 5

/-- AF of a C word (R225); 3 is ILLEGAL. -/
def accOf : Nat → Option AccFmt
  | 0 => some .f32 | 1 => some .bf16 | 2 => some .f16 | _ => none
def AccFmt.code : AccFmt → Nat
  | .f32 => 0 | .bf16 => 1 | .f16 => 2

/-- The hold control H, POS, USE, in this order from the high bit (R47). -/
def holdOf : Nat → Option Hold
  | 0 => some .off | 4 => some (.latch false) | 5 => some (.held false) | 6 => some (.latch true)
  | 7 => some (.held true) | _ => none
def Hold.code : Hold → Nat
  | .off => 0 | .latch p => if p then 6 else 4 | .held p => if p then 7 else 5

/-- The conditions of BRC (R160). -/
def condOf : Nat → Option BrCond
  | 0 => some .eqz | 1 => some .nez | 2 => some .ltz | 3 => some .gez | 4 => some .gtz | 5 => some .lez
  | _ => none
def BrCond.code : BrCond → Nat
  | .eqz => 0 | .nez => 1 | .ltz => 2 | .gez => 3 | .gtz => 4 | .lez => 5

/-- The functions of PLOG (R191). -/
def plogOf : Nat → Option PlogFn
  | 0 => some .and | 1 => some .or | 2 => some .xor | 3 => some .andn | 4 => some .not | _ => none
def PlogFn.code : PlogFn → Nat
  | .and => 0 | .or => 1 | .xor => 2 | .andn => 3 | .not => 4

/-- The functions of VBIT (R193). -/
def vbitOf : Nat → Option VbitFn
  | 0 => some .clz | 1 => some .ctz | 2 => some .popc | _ => none
def VbitFn.code : VbitFn → Nat
  | .clz => 0 | .ctz => 1 | .popc => 2

/-- The integer types of FCVTIF and FCVTFI (R156). -/
def intOf : Nat → IntType
  | 0 => .i32 | 1 => .n32 | 2 => .i64 | _ => .n64
def IntType.code : IntType → Nat
  | .i32 => 0 | .n32 => 1 | .i64 => 2 | .n64 => 3

/-- The other format of VCVT (R194): EXT and the type field; EXT with type 7 is ILLEGAL. -/
def cvtOf : Bool → Nat → Option CvtFmt
  | false, 0 => some .f32 | false, 1 => some .bf16 | false, 2 => some .f16 | false, 3 => some .i32
  | false, 4 => some .n32 | false, 5 => some .i16 | false, 6 => some .i8 | false, 7 => some .n8
  | true, 0 => some .e4m3 | true, 1 => some .e5m2 | true, 2 => some .e2m3 | true, 3 => some .e3m2
  | true, 4 => some .e2m1 | true, 5 => some .t2 | true, 6 => some .e8m0 | _, _ => none
def CvtFmt.ext : CvtFmt → Bool
  | .f32 | .bf16 | .f16 | .i32 | .n32 | .i16 | .i8 | .n8 => false
  | _ => true
def CvtFmt.code : CvtFmt → Nat
  | .f32 => 0 | .bf16 => 1 | .f16 => 2 | .i32 => 3 | .n32 => 4 | .i16 => 5 | .i8 => 6 | .n8 => 7
  | .e4m3 => 0 | .e5m2 => 1 | .e2m3 => 2 | .e3m2 => 3 | .e2m1 => 4 | .t2 => 5 | .e8m0 => 6

/-! ### Accepting and refusing -/

/-- The word's fields name the instruction; the encoding rules decide (R43-R47), ILLEGAL first (R41). -/
def accept (i : Instr) : Decoded := if i.wf then .ok i else .error .illegal
/-- Whether the word takes an operand from its slot's latch (R47). -/
def Hold.fromLatch : Hold → Bool
  | .held _ => true
  | _ => false
/-- The same for a word whose calibre field holds an undefined number. -/
def acceptCal (h : Hold) (c : Option Calibre) (k : Calibre → Instr) : Decoded :=
  match c with
  | some c => accept (k c)
  | none => if (k .c1).wf then .error (if h.fromLatch then .calibreHeld else .calibre) else .error .illegal
/-- A field whose code must be a listed one (R43). -/
def need {α : Type} (o : Option α) (k : α → Decoded) : Decoded :=
  match o with
  | some a => k a
  | none => .error .illegal
/-- Reserved bits must be zero (R42). -/
def zeros (w lo n : Nat) (k : Decoded) : Decoded := if field w lo n = 0 then k else .error .illegal
def illegal : Decoded := .error .illegal
/-- NOP, opcode 0 of every slot (R35). -/
def decNop (w : Nat) : Decoded := zeros w 0 25 (accept .nop)

/-! ### Formats -/

def a3At (w : Nat) : A3Op := ⟨regAt w 20, regAt w 15, regAt w 10⟩
def a2At (w : Nat) : A2Op := ⟨regAt w 20, regAt w 15⟩
def decA3 (w : Nat) (k : A3Op → Instr) : Decoded := accept (k (a3At w))
def decA2 (w : Nat) (k : A2Op → Instr) : Decoded := zeros w 10 5 (accept (k (a2At w)))
def decImm (w : Nat) (k : ImmOp → Instr) : Decoded := accept (k ⟨regAt w 20, regAt w 15, bitsAt 15 w 0⟩)
def decShi (w : Nat) (k : ShiOp → Instr) : Decoded := accept (k ⟨regAt w 20, regAt w 15, bitsAt 6 w 0⟩)
def decF3 (w : Nat) (k : F3Op → Instr) : Decoded :=
  need (roundOf (field w 4 3)) fun rm => accept (k ⟨regAt w 20, regAt w 15, regAt w 10, rm⟩)
def decF4 (w : Nat) (k : F4Op → Instr) : Decoded :=
  need (roundOf (field w 0 3)) fun rm => accept (k ⟨regAt w 20, regAt w 15, regAt w 10, regAt w 5, rm⟩)
def decFcvt (w : Nat) (k : FcvtOp → Instr) : Decoded :=
  zeros w 6 9 (need (roundOf (field w 3 3)) fun rm =>
    accept (k ⟨regAt w 20, regAt w 15, intOf (field w 1 2), rm⟩))

/-- The hold control of a V3 word. -/
def holdV (w : Nat) : Option Hold := holdOf (field w 1 3)
/-- The hold control of a C word. -/
def holdC (w : Nat) : Option Hold := holdOf (field w 2 3)
def predAt (w : Nat) : Fin 8 := Fin.ofNat 8 (w / 2 ^ 7)

def decV2 (p1 : Bool) (w : Nat) (k : V2Op → Instr) : Decoded :=
  need (holdV w) fun h => accept (k ⟨p1, regAt w 20, regAt w 15, regAt w 10, predAt w, typeAt w, h, bitAt w 0⟩)
def decV1 (p1 : Bool) (w : Nat) (k : V1Op → Instr) : Decoded :=
  zeros w 10 5 (need (holdV w) fun h => accept (k ⟨p1, regAt w 20, regAt w 15, predAt w, typeAt w, h, bitAt w 0⟩))
def decVw (p1 : Bool) (w : Nat) (k : VwOp → Instr) : Decoded :=
  if field w 4 3 = 4 ∧ field w 0 1 = 0 then
    need (holdV w) fun h => accept (k ⟨p1, regAt w 20, regAt w 15, regAt w 10, predAt w, h⟩)
  else illegal
def decVcmp (p1 : Bool) (w : Nat) (k : VcmpOp → Instr) : Decoded :=
  zeros w 0 1 (need (below 8 w 20) fun pd => need (holdV w) fun h =>
    accept (k ⟨p1, pd, regAt w 15, regAt w 10, predAt w, typeAt w, h⟩))
def decVred (w : Nat) (k : VredOp → Instr) : Decoded :=
  zeros w 14 1 (need (holdV w) fun h =>
    acceptCal h (calOf (field w 10 4)) fun c => k ⟨regAt w 20, regAt w 15, c, predAt w, typeAt w, h, bitAt w 0⟩)
def decVmovs (p1 : Bool) (w : Nat) (k : VmovsOp → Instr) : Decoded :=
  zeros w 10 5 (zeros w 0 1 (need (holdV w) fun h =>
    accept (k ⟨p1, regAt w 20, regAt w 15, predAt w, typeAt w, h⟩)))

def decM0 (w : Nat) (k : M0Op → Instr) : Decoded :=
  zeros w 10 5 (zeros w 0 4 (accept (k ⟨regAt w 20, regAt w 15, predAt w, typeAt w⟩)))
def decM0s (w : Nat) (k : M0sOp → Instr) : Decoded :=
  zeros w 0 4 (accept (k ⟨regAt w 20, regAt w 15, regAt w 10, predAt w, typeAt w⟩))
def winAt (w : Nat) : Fin 16 := Fin.ofNat 16 w
def decMs (w : Nat) (k : MsOp → Instr) : Decoded :=
  accept (k ⟨regAt w 20, regAt w 15, sizeOf' (field w 12 3), bitsAt 8 w 4, winAt w⟩)
def decM1 (w : Nat) (k : M1Op → Instr) : Decoded :=
  zeros w 10 5 (accept (k ⟨regAt w 20, regAt w 15, predAt w, typeAt w, winAt w⟩))
def decM1s (w : Nat) (k : M1sOp → Instr) : Decoded :=
  accept (k ⟨regAt w 20, regAt w 15, regAt w 10, predAt w, typeAt w, winAt w⟩)

def tileAt (w : Nat) : Fin 16 := Fin.ofNat 16 (w / 2 ^ 11)
def decMma (w : Nat) (k : MmaOp → Instr) : Decoded :=
  need (accOf (field w 9 2)) fun af => need (holdC w) fun h => acceptCal h (calOf (field w 5 4)) fun c =>
    k ⟨regAt w 20, regAt w 15, tileAt w, af, c, h, bitAt w 1, bitAt w 0⟩
def decMsave (w : Nat) (k : MsaveOp → Instr) : Decoded :=
  zeros w 5 10 (zeros w 0 1 (need (holdC w) fun h => accept (k ⟨regAt w 20, regAt w 15, h, bitAt w 1⟩)))
def decC2 (w : Nat) (k : C2Op → Instr) : Decoded :=
  zeros w 5 10 (zeros w 0 2 (need (holdC w) fun h => accept (k ⟨regAt w 20, regAt w 15, h⟩)))
def decEreg (w : Nat) (k : EregOp → Instr) : Decoded :=
  zeros w 15 5 (zeros w 5 4 (zeros w 0 2 (need (holdC w) fun h =>
    accept (k ⟨regAt w 20, Fin.ofNat 64 (w / 2 ^ 9), h⟩))))
def chanAt (w : Nat) : Fin 8 := Fin.ofNat 8 (w / 2 ^ 12)
def decCopy (w : Nat) (k : CopyOp → Instr) : Decoded :=
  zeros w 5 5 (zeros w 0 2 (need (holdC w) fun h =>
    accept (k ⟨regAt w 20, regAt w 15, chanAt w, bitAt w 11, bitAt w 10, h⟩)))
def xslotAt (w : Nat) : Fin 4 := Fin.ofNat 4 (w / 2 ^ 13)
def decXq (w : Nat) (k : XqOp → Instr) : Decoded :=
  zeros w 5 10 (zeros w 0 2 (need (holdC w) fun h => accept (k ⟨regAt w 20, regAt w 15, h⟩)))

/-- Slot 0, class B (R49). -/
def decB (w : Nat) : Decoded :=
  match field w 25 6 with
  | 0 => decNop w
  | 1 => accept (.br (bitsAt 25 w 0))
  | 2 => need (condOf (field w 22 3)) fun c => accept (.brc ⟨c, regAt w 17, bitsAt 17 w 0⟩)
  | 3 => if field w 22 3 < 2 then
      need (below 8 w 17) fun pn => accept (.brv ⟨field w 22 3 == 0, pn, bitsAt 17 w 0⟩)
    else illegal
  | 4 => accept (.call (bitsAt 25 w 0))
  | 5 => zeros w 20 5 (zeros w 0 15 (accept (.callr (regAt w 15))))
  | 6 => zeros w 0 25 (accept .ret)
  | 7 => zeros w 20 5 (zeros w 0 15 (accept (.jr (regAt w 15))))
  | 8 => zeros w 10 7 (if h : field w 22 3 < 6 then
      accept (.loop ⟨⟨field w 22 3, h⟩, regAt w 17, bitsAt 10 w 0⟩) else illegal)
  | 9 => if h : field w 22 3 < 6 then
      accept (.loopi ⟨⟨field w 22 3, h⟩, bitsAt 12 w 10, bitsAt 10 w 0⟩) else illegal
  | 10 => zeros w 0 25 (accept .done)
  | 11 => zeros w 12 13 (accept (.seg (bitsAt 12 w 0)))
  | 12 => zeros w 14 11 (accept (.rdz (bitsAt 14 w 0)))
  | 13 => if field w 0 25 = 0 then accept .park else if field w 0 25 = 1 then accept .unstub
    else accept (.sys ⟨regAt w 20, bitsAt 20 w 0⟩)
  | 14 => zeros w 20 5 (accept (.trap (bitsAt 20 w 0)))
  | 15 => zeros w 20 5 (accept (.brk (bitsAt 20 w 0)))
  | 16 => zeros w 15 5 (accept (.mfc ⟨regAt w 20, bitsAt 15 w 0⟩))
  | 17 => zeros w 20 5 (accept (.mtc ⟨regAt w 15, bitsAt 15 w 0⟩))
  | 18 => zeros w 0 22 (need (scopeOf (field w 22 3)) fun sc => accept (.tick sc))
  | 19 => if field w 0 25 = 3 * 2 ^ 22 then accept .syncp else illegal
  | 20 => zeros w 0 22 (need (scopeOf (field w 22 3)) fun sc => accept (.syncc sc))
  | 21 => zeros w 22 3 (accept (.barr ⟨Fin.ofNat 64 (w / 2 ^ 16), bitsAt 16 w 0⟩))
  | 22 => zeros w 0 16 (if field w 22 3 < 2 then
      accept (.bwait ⟨Fin.ofNat 64 (w / 2 ^ 16), field w 22 3 == 1⟩) else illegal)
  | 23 => zeros w 22 3 (accept (.bset ⟨Fin.ofNat 64 (w / 2 ^ 16), bitsAt 16 w 0⟩))
  | 24 => zeros w 5 20 (accept (.fence (bitsAt 5 w 0)))
  | 25 => zeros w 5 17 (accept (.waitid ⟨Fin.ofNat 8 (w / 2 ^ 22), regAt w 0⟩))
  | _ => illegal

/-- Opcode 0x01 of slot 1: the function field (R145). -/
def decS1 (w : Nat) : Decoded :=
  match field w 0 10 with
  | 0 => decA3 w .add
  | 1 => decA3 w .sub
  | 2 => decA3 w .and
  | 3 => decA3 w .or
  | 4 => decA3 w .xor
  | 5 => decA3 w .andn
  | 6 => decA3 w .sll
  | 7 => decA3 w .srl
  | 8 => decA3 w .sra
  | 9 => decA3 w .slt
  | 10 => decA3 w .sltu
  | 11 => decA3 w .seq
  | 12 => decA3 w .min
  | 13 => decA3 w .max
  | 14 => decA3 w .minu
  | 15 => decA3 w .maxu
  | _ => illegal

/-- Opcode 0x02 of slot 1 (R146). -/
def decS2 (w : Nat) : Decoded :=
  match field w 0 10 with
  | 0 => decA3 w .mul
  | 1 => decA3 w .mulh
  | 2 => decA3 w .mulhu
  | 3 => decA3 w .div
  | 4 => decA3 w .divu
  | 5 => decA3 w .rem
  | 6 => decA3 w .remu
  | _ => illegal

/-- Opcode 0x03 of slot 1 (R147). -/
def decS3 (w : Nat) : Decoded :=
  match field w 0 10 with
  | 0 => decA2 w .clz
  | 1 => decA2 w .ctz
  | 2 => decA2 w .popc
  | 3 => decA2 w .sext8
  | 4 => decA2 w .sext16
  | 5 => decA2 w .sext32
  | 6 => decA2 w .zext8
  | 7 => decA2 w .zext16
  | 8 => decA2 w .zext32
  | _ => illegal

/-- Opcode 0x10 of slot 1 (R153, R154): the function in [3:0], the rounding mode in [6:4], [9:7] zero. -/
def decSF (w : Nat) : Decoded :=
  zeros w 7 3 (match field w 0 4 with
    | 0 => decF3 w .fadd
    | 1 => decF3 w .fsub
    | 2 => decF3 w .fmul
    | 3 => decF3 w .fdiv
    | 4 => zeros w 10 5 (need (roundOf (field w 4 3)) fun rm => accept (.fsqrt ⟨regAt w 20, regAt w 15, rm⟩))
    | 5 => zeros w 4 3 (decA3 w .fmin)
    | 6 => zeros w 4 3 (decA3 w .fmax)
    | 7 => zeros w 4 3 (decA2 w .fabs)
    | 8 => zeros w 4 3 (decA2 w .fneg)
    | 9 => zeros w 4 3 (decA3 w .feq)
    | 10 => zeros w 4 3 (decA3 w .flt)
    | 11 => zeros w 4 3 (decA3 w .fle)
    | 12 => zeros w 4 3 (decA2 w .fclass)
    | _ => illegal)

/-- Slot 1, class S (R50). -/
def decS (w : Nat) : Decoded :=
  match field w 25 6 with
  | 0 => decNop w
  | 1 => decS1 w
  | 2 => decS2 w
  | 3 => decS3 w
  | 4 => zeros w 0 5 (accept (.sel ⟨regAt w 20, regAt w 15, regAt w 10, regAt w 5⟩))
  | 5 => decImm w .addi
  | 6 => decImm w .andi
  | 7 => decImm w .ori
  | 8 => decImm w .xori
  | 9 => match field w 6 9 with
    | 0 => decShi w .slli
    | 1 => decShi w .srli
    | 2 => decShi w .srai
    | _ => illegal
  | 10 => decImm w .slti
  | 11 => decImm w .sltiu
  | 12 => accept (.sui ⟨regAt w 20, bitsAt 20 w 0⟩)
  | 13 => zeros w 15 5 (accept (.addpc ⟨regAt w 20, bitsAt 15 w 0⟩))
  | 14 => zeros w 8 7 (zeros w 0 3 (accept (.ldarg ⟨regAt w 20, regAt w 15, bitsAt 5 w 3⟩)))
  | 15 => zeros w 0 15 (need (below 6 w 15) fun n => accept (.rdi ⟨regAt w 20, n⟩))
  | 16 => decSF w
  | 17 => match field w 3 2 with
    | 0 => decF4 w .fmadd
    | 1 => decF4 w .fmsub
    | 2 => decF4 w .fnmadd
    | _ => illegal
  | 18 => if field w 0 1 = 0 then decFcvt w .fcvtif else decFcvt w .fcvtfi
  | _ => illegal

/-- Slots 2 and 3, class V (R51). -/
def decV (p1 : Bool) (w : Nat) : Decoded :=
  match field w 25 6 with
  | 0 => decNop w
  | 1 => decV2 p1 w .vadd
  | 2 => decV2 p1 w .vsub
  | 3 => decV2 p1 w .vmul
  | 4 => decV2 p1 w .vfma
  | 5 => decV2 p1 w .vfms
  | 6 => decV2 p1 w .vmin
  | 7 => decV2 p1 w .vmax
  | 8 => decV1 p1 w .vabs
  | 9 => decV1 p1 w .vneg
  | 10 => decVw p1 w .vand
  | 11 => decVw p1 w .vor
  | 12 => decVw p1 w .vxor
  | 13 => decV2 p1 w .vshl
  | 14 => decV2 p1 w .vshr
  | 15 => decV2 p1 w .vdiv
  | 16 => decV1 p1 w .vrcp
  | 17 => decV1 p1 w .vrsqrt
  | 18 => decV1 p1 w .vsqrt
  | 19 => decV1 p1 w .vexp2
  | 20 => decV1 p1 w .vlog2
  | 21 => decV1 p1 w .vtanh
  | 22 => decV1 p1 w .vsigm
  | 23 => decV1 p1 w .vsin
  | 24 => decV1 p1 w .vcos
  | 25 => decVcmp p1 w .vcmpeq
  | 26 => decVcmp p1 w .vcmpne
  | 27 => decVcmp p1 w .vcmplt
  | 28 => decVcmp p1 w .vcmple
  | 0x1D => decVw p1 w .vsel
  | 0x1E => need (cvtOf (bitAt w 13) (field w 4 3)) fun f => need (roundOf (field w 10 3)) fun rm =>
      need (holdV w) fun h =>
        accept (.vcvt ⟨p1, regAt w 20, regAt w 15, bitAt w 14, f, rm, predAt w, h, bitAt w 0⟩)
  | 0x1F => decV2 p1 w .vpack
  | 0x20 => zeros w 12 3 (zeros w 0 1 (need (holdV w) fun h =>
      accept (.vunpk ⟨p1, regAt w 20, regAt w 15, Fin.ofNat 4 (w / 2 ^ 10), predAt w, typeAt w, h⟩)))
  | 0x21 => decVw p1 w .vperm
  | 0x2A => decVmovs p1 w .vmovs
  | 0x2C => if field w 4 3 = 4 then zeros w 10 5 (zeros w 0 1 (need (holdV w) fun h =>
      accept (.vlane ⟨p1, regAt w 20, regAt w 15, predAt w, h⟩))) else illegal
  | 0x2D => zeros w 7 3 (zeros w 0 1 (need (below 8 w 20) fun pd => need (below 8 w 15) fun pa =>
      need (below 8 w 10) fun pb => need (plogOf (field w 4 3)) fun fn => need (holdV w) fun h =>
        accept (.plog ⟨p1, pd, pa, pb, fn, h⟩)))
  | 0x2F => if field w 4 3 = 4 then zeros w 12 3 (zeros w 0 1 (need (vbitOf (field w 10 2)) fun fn =>
      need (holdV w) fun h => accept (.vbit ⟨p1, regAt w 20, regAt w 15, fn, predAt w, h⟩))) else illegal
  | 0x30 => zeros w 10 5 (zeros w 4 3 (zeros w 0 1 (need (below 8 w 15) fun q => need (holdV w) fun h =>
      accept (.vqpop ⟨p1, regAt w 20, q, predAt w, h⟩))))
  | 0x31 => zeros w 10 5 (zeros w 4 3 (zeros w 0 1 (need (below 8 w 20) fun q => need (holdV w) fun h =>
      accept (.vqpush ⟨p1, regAt w 15, q, predAt w, h⟩))))
  | 0x22 => if p1 then illegal else if field w 4 3 = 4 then need (holdV w) fun h =>
      accept (.vshs ⟨regAt w 20, regAt w 15, Fin.ofNat 64 (field w 10 5 + 32 * field w 0 1), predAt w, h⟩)
    else illegal
  | 0x23 => if p1 then illegal else decVred w .vredadd
  | 0x24 => if p1 then illegal else decVred w .vredmax
  | 0x25 => if p1 then illegal else decVred w .vredmin
  | 0x26 => if p1 then illegal else decVred w .vscanadd
  | 0x27 => if p1 then illegal else decVred w .vscanmax
  | 0x28 => if p1 then illegal else decVred w .vscanmin
  | 0x29 => decVmovs p1 w .vrng
  | 0x2B => if p1 then illegal else zeros w 7 3 (zeros w 0 1 (need (holdV w) fun h =>
      accept (.vext ⟨regAt w 20, regAt w 15, regAt w 10, typeAt w, h⟩)))
  | 0x2E => if p1 then illegal else zeros w 10 5 (zeros w 4 3 (zeros w 0 1 (
      need (below 8 w 15) fun pa => need (holdV w) fun h => accept (.pcnt ⟨regAt w 20, pa, predAt w, h⟩))))
  | _ => illegal

/-- Slot 4, class M0 (R52). -/
def decM0c (w : Nat) : Decoded :=
  match field w 25 6 with
  | 0 => decNop w
  | 1 => decM0 w .pld
  | 2 => decM0 w .pst
  | 3 => decM0s w .plds
  | 4 => decM0s w .psts
  | 5 => zeros w 10 5 (zeros w 0 7 (accept (.pldb ⟨regAt w 20, regAt w 15, predAt w⟩)))
  | 6 => decM0s w .pgth
  | 7 => decM0s w .psct
  | 8 => zeros w 0 10 (accept (.pfill ⟨regAt w 20, regAt w 15, regAt w 10⟩))
  | _ => illegal

/-- Slot 5, class M1 (R53). -/
def decM1c (w : Nat) : Decoded :=
  match field w 25 6 with
  | 0 => decNop w
  | 1 => decMs w .ldh
  | 2 => decMs w .sth
  | 3 => decMs w .saadd
  | 4 => decMs w .samin
  | 5 => decMs w .samax
  | 6 => decMs w .saand
  | 7 => decMs w .saor
  | 8 => decMs w .saaddx
  | 9 => decMs w .saswpx
  | 0x0A => zeros w 9 3 (accept (.scasx ⟨regAt w 20, regAt w 15, sizeOf' (field w 12 3), regAt w 4, winAt w⟩))
  | 0x0B => zeros w 20 5 (zeros w 12 3 (accept (.pref ⟨regAt w 15, bitsAt 8 w 4, winAt w⟩)))
  | 0x10 => decM1 w .vldh
  | 0x11 => decM1 w .vsth
  | 0x12 => decM1s w .vldhs
  | 0x13 => decM1s w .vsths
  | 0x14 => decM1s w .vgth
  | 0x15 => decM1s w .vsct
  | 0x16 => decM1s w .vaadd
  | 0x17 => decM1s w .vamin
  | 0x18 => decM1s w .vamax
  | 0x19 => decM1s w .vaand
  | 0x1A => decM1s w .vaor
  | 0x1B => decM1s w .vaxor
  | 0x1C => decM1s w .vaaddx
  | 0x1D => decM1s w .vaminx
  | 0x1E => decM1s w .vamaxx
  | 0x1F => decM1s w .vaswpx
  | 0x20 => zeros w 6 14 (zeros w 0 4 (need (below 8 w 20) fun q => accept (.sbind ⟨q, Fin.ofNat 4 (w / 2 ^ 4)⟩)))
  | 0x21 => zeros w 0 20 (need (below 8 w 20) fun q => accept (.srel q))
  | _ => illegal

/-- Slot 6, class E (R54, R225). -/
def decE (w : Nat) : Decoded :=
  match field w 25 6 with
  | 0 => decNop w
  | 1 => decMma w .mma
  | 2 => decMma w .smma
  | 3 => decMma w .tmma
  | 4 => zeros w 15 10 (zeros w 0 9 (need (accOf (field w 9 2)) fun af => accept (.mzero ⟨tileAt w, af⟩)))
  | 5 => zeros w 15 5 (need (accOf (field w 9 2)) fun af => need (holdC w) fun h =>
      acceptCal h (calOf (field w 5 4)) fun c => .mdecay ⟨regAt w 20, tileAt w, af, c, h, bitAt w 1, bitAt w 0⟩)
  | 6 => need (accOf (field w 9 2)) fun af => need (holdC w) fun h =>
      acceptCal h (calOf (field w 5 4)) fun c =>
        .mdrain ⟨regAt w 20, regAt w 15, tileAt w, af, c, h, bitAt w 1, bitAt w 0⟩
  | 7 => zeros w 10 5 (zeros w 5 4 (need (holdC w) fun h =>
      accept (.mgath ⟨regAt w 20, regAt w 15, Fin.ofNat 2 (w / 2 ^ 9), h, bitAt w 1, bitAt w 0⟩)))
  | 8 => decMsave w .msave
  | 9 => decMsave w .mrest
  | 10 => zeros w 15 5 (zeros w 10 2 (zeros w 5 4 (zeros w 0 2 (need (holdC w) fun h =>
      accept (.mset ⟨regAt w 20, Fin.ofNat 8 (w / 2 ^ 12), bitAt w 9, h⟩)))))
  | 11 => zeros w 9 6 (zeros w 0 2 (need (holdC w) fun h =>
      acceptCal h (calOf (field w 5 4)) fun c => .mcall ⟨regAt w 20, regAt w 15, c, h⟩))
  | 12 => decC2 w .mupd
  | 13 => zeros w 0 25 (accept .mwait)
  | 14 => decEreg w .ewr
  | 15 => decEreg w .erd
  | _ => illegal

/-- Slot 7, class X (R55). -/
def decX (w : Nat) : Decoded :=
  match field w 25 6 with
  | 0 => decNop w
  | 1 => decCopy w .copy
  | 2 => decCopy w .copyd
  | 3 => zeros w 5 4 (zeros w 0 2 (need (holdC w) fun h =>
      accept (.copyh ⟨regAt w 20, regAt w 15, chanAt w, bitAt w 11, bitAt w 10, bitAt w 9, h⟩)))
  | 4 => zeros w 15 5 (zeros w 5 7 (zeros w 0 2 (need (holdC w) fun h =>
      accept (.cqpush ⟨regAt w 20, chanAt w, h⟩))))
  | 5 => decCopy w .copya
  | 6 => decCopy w .copyda
  | 7 => zeros w 10 2 (zeros w 5 4 (zeros w 0 2 (need (holdC w) fun h =>
      accept (.cstat ⟨regAt w 20, regAt w 15, chanAt w, bitAt w 9, h⟩))))
  | 8 => zeros w 10 1 (zeros w 5 4 (zeros w 0 2 (need (holdC w) fun h =>
      accept (.cflag ⟨regAt w 20, regAt w 15, chanAt w, bitAt w 11, bitAt w 9, h⟩))))
  | 0x10 => zeros w 5 8 (zeros w 0 2 (need (holdC w) fun h =>
      accept (.xch ⟨regAt w 20, regAt w 15, xslotAt w, h⟩)))
  | 0x11 => zeros w 9 4 (zeros w 0 2 (need (holdC w) fun h =>
      acceptCal h (calOf (field w 5 4)) fun c => .xcb ⟨regAt w 20, regAt w 15, xslotAt w, c, h⟩))
  | 0x12 => zeros w 5 4 (zeros w 0 2 (if hb : field w 9 4 < 14 then need (holdC w) fun h =>
      accept (.sib ⟨regAt w 20, regAt w 15, xslotAt w, ⟨field w 9 4, hb⟩, h⟩) else illegal))
  | 0x13 => zeros w 0 2 (if hb : field w 9 4 < 14 then need (holdC w) fun h =>
      acceptCal h (calOf (field w 5 4)) fun c => .sibc ⟨regAt w 20, regAt w 15, xslotAt w, ⟨field w 9 4, hb⟩, c, h⟩
      else illegal)
  | 0x14 => zeros w 10 3 (zeros w 5 4 (zeros w 0 2 (need (holdC w) fun h =>
      accept (.shf ⟨regAt w 20, regAt w 15, xslotAt w, bitAt w 9, h⟩))))
  | 0x15 => zeros w 10 3 (zeros w 0 2 (need (holdC w) fun h =>
      acceptCal h (calOf (field w 5 4)) fun c => .shfc ⟨regAt w 20, regAt w 15, xslotAt w, bitAt w 9, c, h⟩))
  | 0x16 => zeros w 13 12 (zeros w 0 9 (accept (.xwait (bitsAt 4 w 9))))
  | 0x17 => decC2 w .xcins
  | 0x18 => decXq w .xstat
  | 0x20 => decXq w .repq
  | 0x21 => zeros w 20 5 (zeros w 5 10 (zeros w 0 2 (need (holdC w) fun h => accept (.repc ⟨regAt w 15, h⟩))))
  | 0x22 => zeros w 20 5 (zeros w 10 5 (zeros w 5 4 (zeros w 0 2 (need (holdC w) fun h =>
      accept (.repx ⟨regAt w 15, bitAt w 9, h⟩)))))
  | 0x23 => decXq w .reps
  | _ => illegal

/-- The instruction that a word names in a slot (R35); the stop bit [31] does not matter. -/
def decodeSlot (slot w : Nat) : Decoded :=
  match slot with
  | 0 => decB w
  | 1 => decS w
  | 2 => decV false w
  | 3 => decV true w
  | 4 => decM0c w
  | 5 => decM1c w
  | 6 => decE w
  | 7 => decX w
  | _ => illegal

/-- The stop bit (R35). -/
def stopBit (w : Nat) : Bool := bitAt w 31

/-- How many bits of its word an instruction's encoding fixes (R49-R55); 0 for a step that no word encodes. -/
def fixedBits : Instr → Nat
  | .br _ | .brc _ | .brv _ | .call _ | .loopi _ | .sys _ | .addi _ | .andi _ | .ori _ | .xori _ | .slti _
  | .sltiu _ | .sui _ | .vadd _ | .vsub _ | .vmul _ | .vfma _ | .vfms _ | .vcvt _ | .vpack _ | .ldh _ | .sth _
  | .saadd _ | .samin _ | .samax _ | .saand _ | .saor _ | .saaddx _ | .saswpx _ | .vldhs _ | .vsths _ | .vgth _
  | .vsct _ | .vaadd _ | .vamin _ | .vamax _ | .vaand _ | .vaor _ | .vaxor _ | .vaaddx _ | .vaminx _ | .vamaxx _
  | .vaswpx _ | .mma _ | .smma _ | .tmma _ | .mdrain _ => 6
  | .vmin _ | .vmax _ | .vshl _ | .vshr _ | .vdiv _ | .vcmpeq _ | .vcmpne _ | .vcmplt _ | .vcmple _ | .vscanadd _ => 7
  | .fmadd _ | .fmsub _ | .fnmadd _ | .vredadd _ | .vredmax _ | .vredmin _ | .vscanmax _ | .vscanmin _ | .sibc _ => 8
  | .barr _ | .bset _ | .vshs _ | .scasx _ => 9
  | .vand _ | .vor _ | .vxor _ | .vsel _ | .vunpk _ | .vperm _ | .vext _ | .plog _ | .plds _ | .psts _ | .pgth _
  | .psct _ => 10
  | .trap _ | .brk _ | .mfc _ | .mtc _ | .sel _ | .addpc _ | .vabs _ | .vneg _ | .vrcp _ | .vrsqrt _ | .vsqrt _
  | .vexp2 _ | .vlog2 _ | .vtanh _ | .vsigm _ | .vsin _ | .vcos _ | .vldh _ | .vsth _ | .mdecay _ | .shfc _ => 11
  | .vrng _ | .vmovs _ | .copyh _ | .xcb _ | .sib _ => 12
  | .loop _ | .fadd _ | .fsub _ | .fmul _ | .fdiv _ | .vbit _ | .copy _ | .copyd _ | .copya _ | .copyda _
  | .cflag _ => 13
  | .pref _ | .mcall _ | .cstat _ => 14
  | .slli _ | .srli _ | .srai _ | .vlane _ | .pcnt _ | .vqpop _ | .vqpush _ | .pld _ | .pst _ | .mgath _ | .shf _ => 15
  | .add _ | .sub _ | .and _ | .or _ | .xor _ | .andn _ | .sll _ | .srl _ | .sra _ | .slt _ | .sltu _ | .seq _
  | .min _ | .max _ | .minu _ | .maxu _ | .mul _ | .mulh _ | .mulhu _ | .div _ | .divu _ | .rem _ | .remu _
  | .ldarg _ | .fmin _ | .fmax _ | .feq _ | .flt _ | .fle _ | .fcvtif _ | .fcvtfi _ | .pfill _ | .xch _ => 16
  | .rdz _ | .msave _ | .mrest _ | .ewr _ | .erd _ => 17
  | .fsqrt _ | .pldb _ | .mupd _ | .xcins _ | .xstat _ | .repq _ | .reps _ => 18
  | .seg _ | .mset _ => 19
  | .cqpush _ => 20
  | .clz _ | .ctz _ | .popc _ | .sext8 _ | .sext16 _ | .sext32 _ | .zext8 _ | .zext16 _ | .zext32 _ | .rdi _
  | .fabs _ | .fneg _ | .fclass _ => 21
  | .bwait _ | .repx _ => 22
  | .waitid _ | .repc _ => 23
  | .sbind _ => 24
  | .mzero _ => 25
  | .callr _ | .jr _ | .fence _ | .srel _ => 26
  | .xwait _ => 27
  | .tick _ | .syncc _ => 28
  | .nop | .ret | .done | .park | .unstub | .syncp | .mwait => 31
  | _ => 0

/-- The slots that accept a word, with the instruction each reads (slot 3 accepts no word that slot 2 refuses). -/
def slotReadings (w : Nat) : List (Nat × Instr) :=
  [0, 1, 2, 4, 5, 6, 7].filterMap fun k => match decodeSlot k w with
    | .ok i => some (k, i)
    | .error _ => none

/-- A bare word does not say its slot: the reading whose encoding fixes the most bits is taken, of equals the lowest slot's.
DESIGN CHOICE (log 7). -/
def wordSlot (w : Nat) : Option (Nat × Instr) :=
  (slotReadings w).foldl (fun best x =>
    match best with
    | none => some x
    | some y => if fixedBits y.2 < fixedBits x.2 then some x else some y) none

/-- The instruction the decoder reads from a word with no slot of its own (log 7). -/
def decodeTableWord (nbits w : Nat) : Option Instr :=
  if nbits ≤ 32 then (wordSlot w).map (·.2) else none

/-! ### The encoder -/

def encA3 (op fn : Nat) (o : A3Op) : Nat := op * 2 ^ 25 + o.rd.val * 2 ^ 20 + o.ra.val * 2 ^ 15 + o.rb.val * 2 ^ 10 + fn
def encA2 (op fn : Nat) (o : A2Op) : Nat := op * 2 ^ 25 + o.rd.val * 2 ^ 20 + o.ra.val * 2 ^ 15 + fn
def encImm (op : Nat) (o : ImmOp) : Nat := op * 2 ^ 25 + o.rd.val * 2 ^ 20 + o.ra.val * 2 ^ 15 + o.imm.toNat
def encShi (fn : Nat) (o : ShiOp) : Nat := 9 * 2 ^ 25 + o.rd.val * 2 ^ 20 + o.ra.val * 2 ^ 15 + fn * 2 ^ 6 + o.sh.toNat
def encF3 (fn : Nat) (o : F3Op) : Nat :=
  16 * 2 ^ 25 + o.rd.val * 2 ^ 20 + o.ra.val * 2 ^ 15 + o.rb.val * 2 ^ 10 + o.rm.code * 2 ^ 4 + fn
def encF4 (fn : Nat) (o : F4Op) : Nat :=
  17 * 2 ^ 25 + o.rd.val * 2 ^ 20 + o.ra.val * 2 ^ 15 + o.rb.val * 2 ^ 10 + o.rc.val * 2 ^ 5 + fn * 2 ^ 3 + o.rm.code
def encFcvt (fn : Nat) (o : FcvtOp) : Nat :=
  18 * 2 ^ 25 + o.rd.val * 2 ^ 20 + o.ra.val * 2 ^ 15 + o.rm.code * 2 ^ 3 + o.ity.code * 2 + fn
/-- The fields every V3 word has: opcode, [24:20], [19:15], [14:10], [9:7], [6:4], hold, [0]. -/
def encV3 (op d a b p t : Nat) (h : Hold) (m : Bool) : Nat :=
  op * 2 ^ 25 + d * 2 ^ 20 + a * 2 ^ 15 + b * 2 ^ 10 + p * 2 ^ 7 + t * 2 ^ 4 + h.code * 2 + m.toNat
def encV2 (op : Nat) (o : V2Op) : Nat := encV3 op o.vd.val o.va.val o.vb.val o.pg.val o.ty.code o.hold o.m
def encV1 (op : Nat) (o : V1Op) : Nat := encV3 op o.vd.val o.va.val 0 o.pg.val o.ty.code o.hold o.sat
def encVw (op : Nat) (o : VwOp) : Nat := encV3 op o.vd.val o.va.val o.vb.val o.pg.val 4 o.hold false
def encVcmp (op : Nat) (o : VcmpOp) : Nat := encV3 op o.pd.val o.va.val o.vb.val o.pg.val o.ty.code o.hold false
def encVred (op : Nat) (o : VredOp) : Nat := encV3 op o.rd.val o.va.val o.cal.code o.pg.val o.ty.code o.hold o.sat
def encVmovs (op : Nat) (o : VmovsOp) : Nat := encV3 op o.vd.val o.sa.val 0 o.pg.val o.ty.code o.hold false
/-- The fields every M word has. -/
def encM (op d a b p t x : Nat) : Nat :=
  op * 2 ^ 25 + d * 2 ^ 20 + a * 2 ^ 15 + b * 2 ^ 10 + p * 2 ^ 7 + t * 2 ^ 4 + x
def encM0 (op : Nat) (o : M0Op) : Nat := encM op o.vd.val o.sa.val 0 o.pg.val o.ty.code 0
def encM0s (op : Nat) (o : M0sOp) : Nat := encM op o.vd.val o.sa.val o.sb.val o.pg.val o.ty.code 0
def encMs (op : Nat) (o : MsOp) : Nat :=
  op * 2 ^ 25 + o.sd.val * 2 ^ 20 + o.sa.val * 2 ^ 15 + o.size.code * 2 ^ 12 + o.imm.toNat * 2 ^ 4 + o.win.val
def encM1 (op : Nat) (o : M1Op) : Nat := encM op o.vd.val o.sa.val 0 o.pg.val o.ty.code o.win.val
def encM1s (op : Nat) (o : M1sOp) : Nat := encM op o.vd.val o.sa.val o.sb.val o.pg.val o.ty.code o.win.val
/-- The fields every C word has: opcode, sA, sB, engine op, calibre, hold, [1:0]. -/
def encC (op a b e c : Nat) (h : Hold) (m : Nat) : Nat :=
  op * 2 ^ 25 + a * 2 ^ 20 + b * 2 ^ 15 + e * 2 ^ 9 + c * 2 ^ 5 + h.code * 2 ^ 2 + m
def encMma (op : Nat) (o : MmaOp) : Nat :=
  encC op o.sa.val o.sb.val (o.tile.val * 4 + o.af.code) o.cal.code o.hold (o.bc.toNat * 2 + o.ip.toNat)
def encC2 (op : Nat) (o : C2Op) : Nat := encC op o.sa.val o.sb.val 0 0 o.hold 0
def encMsave (op : Nat) (o : MsaveOp) : Nat := encC op o.sa.val o.sb.val 0 0 o.hold (o.bar.toNat * 2)
def encEreg (op : Nat) (o : EregOp) : Nat := encC op o.sa.val 0 o.n.val 0 o.hold 0
def encCopy (op : Nat) (o : CopyOp) : Nat :=
  encC op o.sa.val o.sb.val (o.ch.val * 8 + o.bar.toNat * 4 + o.flag.toNat * 2) 0 o.hold 0
def encXq (op : Nat) (o : XqOp) : Nat := encC op o.sd.val o.sb.val 0 0 o.hold 0

/-- The word of an instruction of the eight slots, with the stop bit clear; 0 for the steps that no word encodes. -/
def encode : Instr → Nat
  | .nop => 0
  | .br d => 1 * 2 ^ 25 + d.toNat
  | .brc o => 2 * 2 ^ 25 + o.cond.code * 2 ^ 22 + o.ra.val * 2 ^ 17 + o.disp.toNat
  | .brv o => 3 * 2 ^ 25 + (if o.onTrue then 0 else 1) * 2 ^ 22 + o.pn.val * 2 ^ 17 + o.disp.toNat
  | .call d => 4 * 2 ^ 25 + d.toNat
  | .callr ra => 5 * 2 ^ 25 + ra.val * 2 ^ 15
  | .ret => 6 * 2 ^ 25
  | .jr ra => 7 * 2 ^ 25 + ra.val * 2 ^ 15
  | .loop o => 8 * 2 ^ 25 + o.idx.val * 2 ^ 22 + o.rc.val * 2 ^ 17 + o.len.toNat
  | .loopi o => 9 * 2 ^ 25 + o.idx.val * 2 ^ 22 + o.count.toNat * 2 ^ 10 + o.len.toNat
  | .done => 10 * 2 ^ 25
  | .seg k => 11 * 2 ^ 25 + k.toNat
  | .rdz m => 12 * 2 ^ 25 + m.toNat
  | .sys o => 13 * 2 ^ 25 + o.rd.val * 2 ^ 20 + o.imm.toNat
  | .park => 13 * 2 ^ 25
  | .unstub => 13 * 2 ^ 25 + 1
  | .trap n => 14 * 2 ^ 25 + n.toNat
  | .brk n => 15 * 2 ^ 25 + n.toNat
  | .mfc o => 16 * 2 ^ 25 + o.reg.val * 2 ^ 20 + o.num.toNat
  | .mtc o => 17 * 2 ^ 25 + o.reg.val * 2 ^ 15 + o.num.toNat
  | .tick sc => 18 * 2 ^ 25 + sc.code * 2 ^ 22
  | .syncp => 19 * 2 ^ 25 + 3 * 2 ^ 22
  | .syncc sc => 20 * 2 ^ 25 + sc.code * 2 ^ 22
  | .barr o => 21 * 2 ^ 25 + o.b.val * 2 ^ 16 + o.n.toNat
  | .bwait o => 22 * 2 ^ 25 + o.keep.toNat * 2 ^ 22 + o.b.val * 2 ^ 16
  | .bset o => 23 * 2 ^ 25 + o.b.val * 2 ^ 16 + o.n.toNat
  | .fence m => 24 * 2 ^ 25 + m.toNat
  | .waitid o => 25 * 2 ^ 25 + o.ch.val * 2 ^ 22 + o.rk.val
  | .add o => encA3 1 0 o
  | .sub o => encA3 1 1 o
  | .and o => encA3 1 2 o
  | .or o => encA3 1 3 o
  | .xor o => encA3 1 4 o
  | .andn o => encA3 1 5 o
  | .sll o => encA3 1 6 o
  | .srl o => encA3 1 7 o
  | .sra o => encA3 1 8 o
  | .slt o => encA3 1 9 o
  | .sltu o => encA3 1 10 o
  | .seq o => encA3 1 11 o
  | .min o => encA3 1 12 o
  | .max o => encA3 1 13 o
  | .minu o => encA3 1 14 o
  | .maxu o => encA3 1 15 o
  | .mul o => encA3 2 0 o
  | .mulh o => encA3 2 1 o
  | .mulhu o => encA3 2 2 o
  | .div o => encA3 2 3 o
  | .divu o => encA3 2 4 o
  | .rem o => encA3 2 5 o
  | .remu o => encA3 2 6 o
  | .clz o => encA2 3 0 o
  | .ctz o => encA2 3 1 o
  | .popc o => encA2 3 2 o
  | .sext8 o => encA2 3 3 o
  | .sext16 o => encA2 3 4 o
  | .sext32 o => encA2 3 5 o
  | .zext8 o => encA2 3 6 o
  | .zext16 o => encA2 3 7 o
  | .zext32 o => encA2 3 8 o
  | .sel o => 4 * 2 ^ 25 + o.rd.val * 2 ^ 20 + o.ra.val * 2 ^ 15 + o.rb.val * 2 ^ 10 + o.rc.val * 2 ^ 5
  | .addi o => encImm 5 o
  | .andi o => encImm 6 o
  | .ori o => encImm 7 o
  | .xori o => encImm 8 o
  | .slti o => encImm 10 o
  | .sltiu o => encImm 11 o
  | .slli o => encShi 0 o
  | .srli o => encShi 1 o
  | .srai o => encShi 2 o
  | .sui o => 12 * 2 ^ 25 + o.rd.val * 2 ^ 20 + o.imm.toNat
  | .addpc o => 13 * 2 ^ 25 + o.rd.val * 2 ^ 20 + o.imm.toNat
  | .ldarg o => 14 * 2 ^ 25 + o.rd.val * 2 ^ 20 + o.ra.val * 2 ^ 15 + o.slot8.toNat * 8
  | .rdi o => 15 * 2 ^ 25 + o.rd.val * 2 ^ 20 + o.n.val * 2 ^ 15
  | .fadd o => encF3 0 o
  | .fsub o => encF3 1 o
  | .fmul o => encF3 2 o
  | .fdiv o => encF3 3 o
  | .fsqrt o => 16 * 2 ^ 25 + o.rd.val * 2 ^ 20 + o.ra.val * 2 ^ 15 + o.rm.code * 2 ^ 4 + 4
  | .fmin o => encA3 16 5 o
  | .fmax o => encA3 16 6 o
  | .feq o => encA3 16 9 o
  | .flt o => encA3 16 10 o
  | .fle o => encA3 16 11 o
  | .fabs o => encA2 16 7 o
  | .fneg o => encA2 16 8 o
  | .fclass o => encA2 16 12 o
  | .fmadd o => encF4 0 o
  | .fmsub o => encF4 1 o
  | .fnmadd o => encF4 2 o
  | .fcvtif o => encFcvt 0 o
  | .fcvtfi o => encFcvt 1 o
  | .vadd o => encV2 0x01 o
  | .vsub o => encV2 0x02 o
  | .vmul o => encV2 0x03 o
  | .vfma o => encV2 0x04 o
  | .vfms o => encV2 0x05 o
  | .vmin o => encV2 0x06 o
  | .vmax o => encV2 0x07 o
  | .vabs o => encV1 0x08 o
  | .vneg o => encV1 0x09 o
  | .vand o => encVw 0x0A o
  | .vor o => encVw 0x0B o
  | .vxor o => encVw 0x0C o
  | .vshl o => encV2 0x0D o
  | .vshr o => encV2 0x0E o
  | .vdiv o => encV2 0x0F o
  | .vrcp o => encV1 0x10 o
  | .vrsqrt o => encV1 0x11 o
  | .vsqrt o => encV1 0x12 o
  | .vexp2 o => encV1 0x13 o
  | .vlog2 o => encV1 0x14 o
  | .vtanh o => encV1 0x15 o
  | .vsigm o => encV1 0x16 o
  | .vsin o => encV1 0x17 o
  | .vcos o => encV1 0x18 o
  | .vcmpeq o => encVcmp 0x19 o
  | .vcmpne o => encVcmp 0x1A o
  | .vcmplt o => encVcmp 0x1B o
  | .vcmple o => encVcmp 0x1C o
  | .vsel o => encVw 0x1D o
  | .vcvt o => encV3 0x1E o.vd.val o.va.val (o.toF32.toNat * 16 + o.fmt.ext.toNat * 8 + o.rm.code) o.pg.val o.fmt.code o.hold o.sat
  | .vpack o => encV2 0x1F o
  | .vunpk o => encV3 0x20 o.vd.val o.va.val o.j.val o.pg.val o.ty.code o.hold false
  | .vperm o => encVw 0x21 o
  | .vshs o => encV3 0x22 o.vd.val o.va.val (o.nm1.val % 32) o.pg.val 4 o.hold (decide (32 ≤ o.nm1.val))
  | .vredadd o => encVred 0x23 o
  | .vredmax o => encVred 0x24 o
  | .vredmin o => encVred 0x25 o
  | .vscanadd o => encVred 0x26 o
  | .vscanmax o => encVred 0x27 o
  | .vscanmin o => encVred 0x28 o
  | .vrng o => encVmovs 0x29 o
  | .vmovs o => encVmovs 0x2A o
  | .vext o => encV3 0x2B o.sd.val o.va.val o.sb.val 0 o.ty.code o.hold false
  | .vlane o => encV3 0x2C o.vd.val o.sa.val 0 o.pg.val 4 o.hold false
  | .plog o => encV3 0x2D o.pd.val o.pa.val o.pb.val 0 o.fn.code o.hold false
  | .pcnt o => encV3 0x2E o.sd.val o.pa.val 0 o.pg.val 0 o.hold false
  | .vbit o => encV3 0x2F o.vd.val o.va.val o.fn.code o.pg.val 4 o.hold false
  | .vqpop o => encV3 0x30 o.v.val o.q.val 0 o.pg.val 0 o.hold false
  | .vqpush o => encV3 0x31 o.q.val o.v.val 0 o.pg.val 0 o.hold false
  | .pld o => encM0 1 o
  | .pst o => encM0 2 o
  | .plds o => encM0s 3 o
  | .psts o => encM0s 4 o
  | .pgth o => encM0s 6 o
  | .psct o => encM0s 7 o
  | .pldb o => encM 5 o.vd.val o.sa.val 0 o.pg.val 0 0
  | .pfill o => encM 8 o.sc.val o.sa.val o.sb.val 0 0 0
  | .ldh o => encMs 1 o
  | .sth o => encMs 2 o
  | .saadd o => encMs 3 o
  | .samin o => encMs 4 o
  | .samax o => encMs 5 o
  | .saand o => encMs 6 o
  | .saor o => encMs 7 o
  | .saaddx o => encMs 8 o
  | .saswpx o => encMs 9 o
  | .scasx o => 10 * 2 ^ 25 + o.sd.val * 2 ^ 20 + o.sa.val * 2 ^ 15 + o.size.code * 2 ^ 12 + o.sn.val * 2 ^ 4 + o.win.val
  | .pref o => 11 * 2 ^ 25 + o.sa.val * 2 ^ 15 + o.imm.toNat * 2 ^ 4 + o.win.val
  | .vldh o => encM1 0x10 o
  | .vsth o => encM1 0x11 o
  | .vldhs o => encM1s 0x12 o
  | .vsths o => encM1s 0x13 o
  | .vgth o => encM1s 0x14 o
  | .vsct o => encM1s 0x15 o
  | .vaadd o => encM1s 0x16 o
  | .vamin o => encM1s 0x17 o
  | .vamax o => encM1s 0x18 o
  | .vaand o => encM1s 0x19 o
  | .vaor o => encM1s 0x1A o
  | .vaxor o => encM1s 0x1B o
  | .vaaddx o => encM1s 0x1C o
  | .vaminx o => encM1s 0x1D o
  | .vamaxx o => encM1s 0x1E o
  | .vaswpx o => encM1s 0x1F o
  | .sbind o => 0x20 * 2 ^ 25 + o.q.val * 2 ^ 20 + o.k.val * 2 ^ 4
  | .srel q => 0x21 * 2 ^ 25 + q.val * 2 ^ 20
  | .mma o => encMma 1 o
  | .smma o => encMma 2 o
  | .tmma o => encMma 3 o
  | .mzero o => encC 4 0 0 (o.tile.val * 4 + o.af.code) 0 .off 0
  | .mdecay o => encC 5 o.sa.val 0 (o.tile.val * 4 + o.af.code) o.cal.code o.hold (o.bc.toNat * 2 + o.row.toNat)
  | .mdrain o => encC 6 o.sa.val o.sb.val (o.tile.val * 4 + o.af.code) o.cal.code o.hold (o.bar.toNat * 2 + o.clr.toNat)
  | .mgath o => encC 7 o.sa.val o.sb.val o.ab.val 0 o.hold (o.bc.toNat * 2 + o.idx.toNat)
  | .msave o => encMsave 8 o
  | .mrest o => encMsave 9 o
  | .mset o => encC 10 o.sa.val 0 (o.mn.val * 8 + o.get.toNat) 0 o.hold 0
  | .mcall o => encC 11 o.sa.val o.sb.val 0 o.cal.code o.hold 0
  | .mupd o => encC2 12 o
  | .mwait => 13 * 2 ^ 25
  | .ewr o => encEreg 14 o
  | .erd o => encEreg 15 o
  | .copy o => encCopy 1 o
  | .copyd o => encCopy 2 o
  | .copya o => encCopy 5 o
  | .copyda o => encCopy 6 o
  | .copyh o => encC 3 o.sa.val o.sb.val (o.ch.val * 8 + o.bar.toNat * 4 + o.flag.toNat * 2 + o.inward.toNat) 0 o.hold 0
  | .cqpush o => encC 4 o.sa.val 0 (o.ch.val * 8) 0 o.hold 0
  | .cstat o => encC 7 o.sa.val o.sb.val (o.ch.val * 8 + o.byId.toNat) 0 o.hold 0
  | .cflag o => encC 8 o.sa.val o.sb.val (o.ch.val * 8 + o.bar.toNat * 4 + o.far.toNat) 0 o.hold 0
  | .xch o => encC 0x10 o.sa.val o.sb.val (o.k.val * 16) 0 o.hold 0
  | .xcb o => encC 0x11 o.sa.val o.sb.val (o.k.val * 16) o.cal.code o.hold 0
  | .sib o => encC 0x12 o.sa.val o.sb.val (o.k.val * 16 + o.b.val) 0 o.hold 0
  | .sibc o => encC 0x13 o.sa.val o.sb.val (o.k.val * 16 + o.b.val) o.cal.code o.hold 0
  | .shf o => encC 0x14 o.sa.val o.sb.val (o.k.val * 16 + o.back.toNat) 0 o.hold 0
  | .shfc o => encC 0x15 o.sa.val o.sb.val (o.k.val * 16 + o.back.toNat) o.cal.code o.hold 0
  | .xwait m => 0x16 * 2 ^ 25 + m.toNat * 2 ^ 9
  | .xcins o => encC2 0x17 o
  | .xstat o => encXq 0x18 o
  | .repq o => encXq 0x20 o
  | .repc o => encC 0x21 0 o.sb.val 0 0 o.hold 0
  | .repx o => encC 0x22 0 o.sb.val o.all.toNat 0 o.hold 0
  | .reps o => encXq 0x23 o
  | .powerGood | .stageAdvance _ | .linkTrainTimeout _ | .versions _ | .settime _ | .readreg _ | .writereg _ |
  .chkptSave _ | .chkptRestore _ | .resume _ | .retry _ | .undefinedCommand _ | .firmwareCommand _ |
  .commandComplete | .mbxevtRead | .registerWrite _ | .spdmRequest _ | .loadkey _ | .loadkeyComplete |
  .alarmTrigger _ | .thermalCap | .thermalTrip | .hostWrite _ | .hostRead _ | .hostFetchadd _ | .hostSwap _ |
  .hostCas _ | .cxlMemStore _ | .cxlMemLoad _ | .ethernetDma _ | .stagingRoomWaitEnd | .idleFlit _ | .dataFlit _
  | .ctrlFlit _ | .readyFlit _ | .postedPacket _ | .barrierToken _ | .rendezvousFlit _ | .endToEndAck _ |
  .nakFlit _ | .fenceFlit _ | .gtimeFlit _ | .trainFlit _ | .creditFlit _ | .detourForward _ | .linkRetrain _ |
  .retrainComplete _ | .linkDead _ | .detourReturn _ | .wavelengthFailover _ | .nopathTimeout _ | .gtimeExchange
  | .gtimelost _ | .laserHourlyUpdate _ | .correctedError _ | .bucketLeak _ | .uncorr _ | .linePoison _ |
  .signatureMismatch | .pageTableRebuild _ | .packetClaim _ | .packetNop _ | .packetCopy _ | .packetCopya _ |
  .packetCopyd _ | .packetCopyda _ | .packetCopyh _ | .packetFlag _ | .packetRetire _ | .streamItemFetch _ |
  .streamItemLand _ | .streamItemWrite _ | .landingRowGrant | .landingRowDrain _ | .matrixBegin |
  .matrixComplete | .exchangeSend _ | .exchangeChunkArrive | .exchangeComplete _ | .atomicApply _ | .detUpdate _
  | .detClose | .detOutboxRetry _ | .packageLineRelease _ | .stagedMerge _ | .taskEntry _ | .queueNopEntry _ |
  .fanoutForward _ | .taskCompletion | .graphEntry _ | .graphTaskNode _ | .graphCondNode _ | .graphWhileNode _ |
  .graphJoinNode _ | .graphEndNode _ | .bindPartition _ | .unbindPartition _ | .tenantRowWrite _ | .windowOpen _
  | .windowClose _ | .gangPreemptStart _ | .preemptDivert | .drainDeadline | .abortFinish _ | .contextSave |
  .contextRestore _ | .lazyTranslate | .trapResolve _ | .debugResume _ | .regulatorOrderedRetraining _ |
  .pcieCompletion _ | .completionTimeout _ | .powerLoss | .firmwareUpdateService _ | .sysServiceComplete _ |
  .flitFecCrcFailure _ | .reservedKindEntry _ | .thermalCapRelease => 0

/-- The slot an instruction is encoded for: slot 0 for NOP, which every slot has; none for the steps that no word
encodes. -/
def slotOf : Instr → Option Nat
  | .nop => some 0
  | .br _ | .brc _ | .brv _ | .call _ | .callr _ | .ret | .jr _ | .loop _ | .loopi _ | .done | .seg _ | .rdz _ |
  .sys _ | .park | .unstub | .trap _ | .brk _ | .mfc _ | .mtc _ | .tick _ | .syncp | .syncc _ | .barr _ |
  .bwait _ | .bset _ | .fence _ | .waitid _ => some 0
  | .add _ | .sub _ | .and _ | .or _ | .xor _ | .andn _ | .sll _ | .srl _ | .sra _ | .slt _ | .sltu _ | .seq _ |
  .min _ | .max _ | .minu _ | .maxu _ | .mul _ | .mulh _ | .mulhu _ | .div _ | .divu _ | .rem _ | .remu _ |
  .clz _ | .ctz _ | .popc _ | .sext8 _ | .sext16 _ | .sext32 _ | .zext8 _ | .zext16 _ | .zext32 _ | .sel _ |
  .addi _ | .andi _ | .ori _ | .xori _ | .slti _ | .sltiu _ | .slli _ | .srli _ | .srai _ | .sui _ | .addpc _ |
  .ldarg _ | .rdi _ | .fadd _ | .fsub _ | .fmul _ | .fdiv _ | .fsqrt _ | .fmin _ | .fmax _ | .feq _ | .flt _ |
  .fle _ | .fabs _ | .fneg _ | .fclass _ | .fmadd _ | .fmsub _ | .fnmadd _ | .fcvtif _ | .fcvtfi _ => some 1
  | .vadd o => some (if o.pipe1 then 3 else 2)
  | .vsub o => some (if o.pipe1 then 3 else 2)
  | .vmul o => some (if o.pipe1 then 3 else 2)
  | .vfma o => some (if o.pipe1 then 3 else 2)
  | .vfms o => some (if o.pipe1 then 3 else 2)
  | .vmin o => some (if o.pipe1 then 3 else 2)
  | .vmax o => some (if o.pipe1 then 3 else 2)
  | .vabs o => some (if o.pipe1 then 3 else 2)
  | .vneg o => some (if o.pipe1 then 3 else 2)
  | .vand o => some (if o.pipe1 then 3 else 2)
  | .vor o => some (if o.pipe1 then 3 else 2)
  | .vxor o => some (if o.pipe1 then 3 else 2)
  | .vshl o => some (if o.pipe1 then 3 else 2)
  | .vshr o => some (if o.pipe1 then 3 else 2)
  | .vdiv o => some (if o.pipe1 then 3 else 2)
  | .vrcp o => some (if o.pipe1 then 3 else 2)
  | .vrsqrt o => some (if o.pipe1 then 3 else 2)
  | .vsqrt o => some (if o.pipe1 then 3 else 2)
  | .vexp2 o => some (if o.pipe1 then 3 else 2)
  | .vlog2 o => some (if o.pipe1 then 3 else 2)
  | .vtanh o => some (if o.pipe1 then 3 else 2)
  | .vsigm o => some (if o.pipe1 then 3 else 2)
  | .vsin o => some (if o.pipe1 then 3 else 2)
  | .vcos o => some (if o.pipe1 then 3 else 2)
  | .vcmpeq o => some (if o.pipe1 then 3 else 2)
  | .vcmpne o => some (if o.pipe1 then 3 else 2)
  | .vcmplt o => some (if o.pipe1 then 3 else 2)
  | .vcmple o => some (if o.pipe1 then 3 else 2)
  | .vsel o => some (if o.pipe1 then 3 else 2)
  | .vcvt o => some (if o.pipe1 then 3 else 2)
  | .vpack o => some (if o.pipe1 then 3 else 2)
  | .vunpk o => some (if o.pipe1 then 3 else 2)
  | .vperm o => some (if o.pipe1 then 3 else 2)
  | .vrng o => some (if o.pipe1 then 3 else 2)
  | .vmovs o => some (if o.pipe1 then 3 else 2)
  | .vlane o => some (if o.pipe1 then 3 else 2)
  | .plog o => some (if o.pipe1 then 3 else 2)
  | .vbit o => some (if o.pipe1 then 3 else 2)
  | .vqpop o => some (if o.pipe1 then 3 else 2)
  | .vqpush o => some (if o.pipe1 then 3 else 2)
  | .vshs _ | .vredadd _ | .vredmax _ | .vredmin _ | .vscanadd _ | .vscanmax _ | .vscanmin _ | .vext _ | .pcnt _ => some 2
  | .pld _ | .pst _ | .plds _ | .psts _ | .pgth _ | .psct _ | .pldb _ | .pfill _ => some 4
  | .ldh _ | .sth _ | .saadd _ | .samin _ | .samax _ | .saand _ | .saor _ | .saaddx _ | .saswpx _ | .scasx _ |
  .pref _ | .vldh _ | .vsth _ | .vldhs _ | .vsths _ | .vgth _ | .vsct _ | .vaadd _ | .vamin _ | .vamax _ |
  .vaand _ | .vaor _ | .vaxor _ | .vaaddx _ | .vaminx _ | .vamaxx _ | .vaswpx _ | .sbind _ | .srel _ => some 5
  | .mma _ | .smma _ | .tmma _ | .mzero _ | .mdecay _ | .mdrain _ | .mgath _ | .msave _ | .mrest _ | .mset _ |
  .mcall _ | .mupd _ | .mwait | .ewr _ | .erd _ => some 6
  | .copy _ | .copyd _ | .copya _ | .copyda _ | .copyh _ | .cqpush _ | .cstat _ | .cflag _ | .xch _ | .xcb _ |
  .sib _ | .sibc _ | .shf _ | .shfc _ | .xwait _ | .xcins _ | .xstat _ | .repq _ | .repc _ | .repx _ | .reps _ => some 7
  | .powerGood | .stageAdvance _ | .linkTrainTimeout _ | .versions _ | .settime _ | .readreg _ | .writereg _ |
  .chkptSave _ | .chkptRestore _ | .resume _ | .retry _ | .undefinedCommand _ | .firmwareCommand _ |
  .commandComplete | .mbxevtRead | .registerWrite _ | .spdmRequest _ | .loadkey _ | .loadkeyComplete |
  .alarmTrigger _ | .thermalCap | .thermalTrip | .hostWrite _ | .hostRead _ | .hostFetchadd _ | .hostSwap _ |
  .hostCas _ | .cxlMemStore _ | .cxlMemLoad _ | .ethernetDma _ | .stagingRoomWaitEnd | .idleFlit _ | .dataFlit _
  | .ctrlFlit _ | .readyFlit _ | .postedPacket _ | .barrierToken _ | .rendezvousFlit _ | .endToEndAck _ |
  .nakFlit _ | .fenceFlit _ | .gtimeFlit _ | .trainFlit _ | .creditFlit _ | .detourForward _ | .linkRetrain _ |
  .retrainComplete _ | .linkDead _ | .detourReturn _ | .wavelengthFailover _ | .nopathTimeout _ | .gtimeExchange
  | .gtimelost _ | .laserHourlyUpdate _ | .correctedError _ | .bucketLeak _ | .uncorr _ | .linePoison _ |
  .signatureMismatch | .pageTableRebuild _ | .packetClaim _ | .packetNop _ | .packetCopy _ | .packetCopya _ |
  .packetCopyd _ | .packetCopyda _ | .packetCopyh _ | .packetFlag _ | .packetRetire _ | .streamItemFetch _ |
  .streamItemLand _ | .streamItemWrite _ | .landingRowGrant | .landingRowDrain _ | .matrixBegin |
  .matrixComplete | .exchangeSend _ | .exchangeChunkArrive | .exchangeComplete _ | .atomicApply _ | .detUpdate _
  | .detClose | .detOutboxRetry _ | .packageLineRelease _ | .stagedMerge _ | .taskEntry _ | .queueNopEntry _ |
  .fanoutForward _ | .taskCompletion | .graphEntry _ | .graphTaskNode _ | .graphCondNode _ | .graphWhileNode _ |
  .graphJoinNode _ | .graphEndNode _ | .bindPartition _ | .unbindPartition _ | .tenantRowWrite _ | .windowOpen _
  | .windowClose _ | .gangPreemptStart _ | .preemptDivert | .drainDeadline | .abortFinish _ | .contextSave |
  .contextRestore _ | .lazyTranslate | .trapResolve _ | .debugResume _ | .regulatorOrderedRetraining _ |
  .pcieCompletion _ | .completionTimeout _ | .powerLoss | .firmwareUpdateService _ | .sysServiceComplete _ |
  .flitFecCrcFailure _ | .reservedKindEntry _ | .thermalCapRelease => none

end Sys2Proof
end

