-- ==== Sys2Proof/Config.lean ====
section
/-!
DEFINITION. The free values of the model: constants with no body, one for each kind of value that
the manual leaves open (log 4, 5, 6). Each is applied to a counter that State holds, or to the operands
it depends on, so that a statement about it holds for every value.
-/
namespace Sys2Proof.Config

/-- The choice per byte that R312 step 2 and R315 leave open: true takes the older value.
Arguments: the draw and the byte's address. DESIGN CHOICE, safe (log 4). -/
opaque freeBit : Nat → Nat → Bool

/-- The value of a register of another die of the package, which READREG may name (R387).
DESIGN CHOICE, safe (log 4). -/
opaque otherDieRegister : Nat → Nat → Nat → BitVec 64

/-- The CARGO word and the payload bytes of a flit, which the engine that sends it lays out (R269): arguments, what the flit is
for and its contents. DESIGN CHOICE, safe (log 4). -/
opaque flitWord : Nat → List Nat → BitVec 64
opaque flitBytes : Nat → List Nat → List (BitVec 8)

/-- The package's fused key-wrapping key, which never leaves the security block (R396). DESIGN CHOICE, safe (log 4). -/
opaque fusedKey : BitVec 256

/-- How many flits a lane's buffer takes beyond one (R279). DESIGN CHOICE, safe (log 4). -/
opaque laneCredits : Nat → Nat

/-- The answer of the firmware or of the security block that the manual does not state (R387, R390).
DESIGN CHOICE, safe (log 4). -/
opaque freeAnswer : Nat → BitVec 512

/-- The SHA-512 digest of what a measurement shows (R390): which bytes are hashed is not given (log 92). -/
opaque measure : Nat → List Nat → BitVec 512

/-- The bytes of a checkpoint image that the manual gives no layout for, by the staged lines and the owned slots (R395; log 91). -/
opaque imageRest : Nat → Nat → Nat

/-- Whether the installed firmware provides a service of SYS (R169). DESIGN CHOICE, safe (log 4). -/
opaque firmwareProvides : Nat → Bool

/-- A lane outside the region, or a value that no rule states; arguments: the draw and a position.
DESIGN CHOICE, safe (log 4). -/
opaque freeLane : Nat → Nat → BitVec 32

/-- The choice of which of several things that can happen happens next (log 14). -/
opaque freePick : Nat → Nat

/-- Whether an MX drain treats a block with a NaN cell as R82 says, or as R233 says: the two rules differ (log 71). -/
opaque nanDrainByR82 : Bool

/-- The core cycles beyond one that a step takes; cycle counts are out of scope (R5, R399; log 5). -/
opaque stepCycles : Nat → Nat

/-- The nanoseconds of GTIME that pass in a step (R5, R285; log 5). -/
opaque stepNanos : Nat → Nat

end Sys2Proof.Config
end

