-- ==== Sys2Proof/Machine/Bits.lean ====
section
/-!
DEFINITION. Bit fields, byte order and counts of bits: little-endian everywhere (R2), bit strings read from bit 0 of
the lowest byte (R71).
-/
namespace Sys2Proof.Machine

/-- Bits [lo+n-1:lo] of a number. -/
def bits (x lo n : Nat) : Nat := x / 2 ^ lo % 2 ^ n
/-- Bit k of a number. -/
def bit (x k : Nat) : Bool := x / 2 ^ k % 2 == 1
/-- A number with bits [lo+n-1:lo] replaced. -/
def setBits (x lo n v : Nat) : Nat := x - bits x lo n * 2 ^ lo + v % 2 ^ n * 2 ^ lo

/-- The n bytes of a number, least significant first (R2). -/
def toBytes (n x : Nat) : List Byte := (List.range n).map fun i => BitVec.ofNat 8 (x / 2 ^ (8 * i))
/-- The number whose bytes, least significant first, are listed (R2). -/
def ofBytes : List Byte → Nat
  | [] => 0
  | b :: t => b.toNat + 256 * ofBytes t

/-- Words of n bytes each, least significant byte first. -/
def toWords (n : Nat) (l : List Byte) (count : Nat) : List Nat :=
  (List.range count).map fun k => ofBytes ((l.drop (n * k)).take n)

/-- The signed value of the low n bits. -/
def signedOf (n x : Nat) : Int :=
  if x % 2 ^ n < 2 ^ (n - 1) then (x % 2 ^ n : Nat) else ((x % 2 ^ n : Nat) : Int) - (2 ^ n : Nat)
/-- The low n bits of an integer. -/
def lowBits (n : Nat) (x : Int) : Nat := (x % (2 ^ n : Nat)).toNat

/-- The number of bits of x: 0 for 0, otherwise floor(log2 x) + 1. -/
def bitLen (x : Nat) : Nat := if x = 0 then 0 else Nat.log2 x + 1
/-- The set bits among the low n. -/
def popCount : Nat → Nat → Nat
  | 0, _ => 0
  | n + 1, x => x % 2 + popCount n (x / 2)
/-- Leading zeros of an n-bit number. -/
def leadZeros (n x : Nat) : Nat := n - bitLen (x % 2 ^ n)
/-- Trailing zeros of an n-bit number; n for 0. -/
def trailZeros : Nat → Nat → Nat
  | 0, _ => 0
  | n + 1, x => if x % 2 = 1 then 0 else 1 + trailZeros n (x / 2)
/-- The positions of the set bits among the low n, rising. -/
def bitList (n x : Nat) : List Nat := (List.range n).filter fun k => bit x k

/-- The smallest multiple of n that is at least x. -/
def alignUp (n x : Nat) : Nat := (x + n - 1) / n * n

end Sys2Proof.Machine
end

