-- ==== Sys2Proof/Machine/Aes.lean ====
section
/-!
DEFINITION. The ciphers that the manual uses by name: AES with keys of 256 bits (FIPS 197), AES-XTS over lines of 128 bytes
(R97, IEEE 1619), and the key wrap KW (R396, NIST SP 800-38F). A byte is a number below 256 here.
-/
namespace Sys2Proof.Machine

/-! ### AES-256 -/

/-- The S-box, byte k of this number for the byte k, and its inverse. -/
def aesBox : Nat :=
  0x16bb54b00f2d99416842e6bf0d89a18cdf2855cee9871e9b948ed9691198f8e19e1dc186b95735610ef6034866b53e708a8bbd4b1f74dde8c6b4a61c2e2578ba08ae7a65eaf4566ca94ed58d6d37c8e779e4959162acd3c25c2406490a3a32e0db0b5ede14b8ee4688902a22dc4f816073195d643d7ea7c41744975fec130ccdd2f3ff1021dab6bcf5389d928f40a351a89f3c507f02f94585334d43fbaaefd0cf584c4a39becb6a5bb1fc20ed00d153842fe329b3d63b52a05a6e1b1a2c830975b227ebe28012079a059618c323c7041531d871f1e5a534ccf73f362693fdb7c072a49cafa2d4adf04759fa7dc982ca76abd7fe2b670130c56f6bf27b777c63
def aesBoxBack : Nat :=
  0x7d0c2155631469e126d677ba7e042b17619953833cbbebc8b0f52aae4d3be0a0ef9cc9939f7ae52d0d4ab519a97f51605fec8027591012b131c7078833a8dd1ff45acd78fec0db9a2079d2c64b3e56fc1bbe18aa0e62b76f89c5291d711af1476edf751ce837f9e28535ade72274ac9673e6b4f0cecff297eadc674f4111913a6b8a130103bdafc1020f3fca8f1e2cd00645b3b80558e4f70ad3bc8c00abd890849d8da75746155edab9edfd5048706c92b6655dcc5ca4d41698688664f6f87225d18b6d49a25b76b224d92866a12e084ec3fa420b954cee3d23c2a632947b54cbe9dec444438e3487ff2f9b8239e37cfbd7f3819ea340bf38a53630d56a0952
def boxAt (box x : Nat) : Nat := box / 256 ^ x % 256

/-- Doubling and multiplication in the field of AES. -/
def aesTwice (x : Nat) : Nat := if x < 128 then 2 * x else Nat.xor (2 * x) 0x11B
def aesTimes (c x : Nat) : Nat :=
  let d := aesTwice x
  let q := aesTwice d
  let o := aesTwice q
  Nat.xor (Nat.xor (if bit c 0 then x else 0) (if bit c 1 then d else 0)) (Nat.xor (if bit c 2 then q else 0) (if bit c 3 then o else 0))

def xorBytes (a b : List Nat) : List Nat := List.zipWith Nat.xor a b

/-- ShiftRows and its inverse, on sixteen bytes in column order. -/
def shiftRows (b : List Nat) : List Nat := (List.range 16).map fun k => b.getD ((k + 4 * (k % 4)) % 16) 0
def shiftRowsBack (b : List Nat) : List Nat := (List.range 16).map fun k => b.getD ((k + 12 * (k % 4)) % 16) 0
/-- MixColumns with the coefficients of its first row. -/
def mixColumns (m b : List Nat) : List Nat :=
  (List.range 16).map fun k => (List.range 4).foldl
    (fun a j => Nat.xor a (aesTimes (m.getD ((j + 4 - k % 4) % 4) 0) (b.getD (k / 4 * 4 + j) 0))) 0

/-- The next word of the key schedule, from the last eight words, newest first. -/
def nextKeyWord (n rcon : Nat) (ws : List (List Nat)) : List Nat :=
  let last := ws.headD []
  let mixed :=
    if n % 8 = 0 then xorBytes (((last.drop 1) ++ last.take 1).map (boxAt aesBox)) [rcon, 0, 0, 0]
    else if n % 8 = 4 then last.map (boxAt aesBox)
    else last
  xorBytes mixed (ws.getD 7 [])
def keyWords : Nat → Nat → Nat → List (List Nat) → List (List Nat)
  | 0, _, _, ws => ws
  | k + 1, n, rcon, ws =>
    keyWords k (n + 1) (if n % 8 = 0 then aesTwice rcon else rcon) (nextKeyWord n rcon ws :: ws)
/-- The fifteen round keys of a key of 32 bytes. -/
def roundKeys (key : List Nat) : List (List Nat) :=
  let ws := (keyWords 52 8 1 ((List.range 8).map fun k => (key.drop (4 * (7 - k))).take 4)).reverse
  (List.range 15).map fun r => ((ws.drop (4 * r)).take 4).flatten

/-- One block of sixteen bytes enciphered under round keys, and deciphered. -/
def aesBlock (ks : List (List Nat)) (b : List Nat) : List Nat :=
  let rounds := ((ks.drop 1).take 13).foldl
    (fun b k => xorBytes (mixColumns [2, 3, 1, 1] (shiftRows (b.map (boxAt aesBox)))) k) (xorBytes b (ks.getD 0 []))
  xorBytes (shiftRows (rounds.map (boxAt aesBox))) (ks.getD 14 [])
def aesBlockBack (ks : List (List Nat)) (b : List Nat) : List Nat :=
  let rounds := ((ks.drop 1).take 13).reverse.foldl
    (fun b k => mixColumns [14, 11, 13, 9] (xorBytes ((shiftRowsBack b).map (boxAt aesBoxBack)) k)) (xorBytes b (ks.getD 14 []))
  xorBytes ((shiftRowsBack rounds).map (boxAt aesBoxBack)) (ks.getD 0 [])

/-! ### XTS over a line (R97) -/

/-- The bytes of a number, low byte first, and back. -/
def octets (n x : Nat) : List Nat := (List.range n).map fun k => x / 256 ^ k % 256
def ofOctets (l : List Nat) : Nat := l.foldr (fun b n => b + 256 * n) 0
/-- The next tweak: times α in the field of 128 bits. -/
def nextTweak (t : Nat) : Nat := if t < 2 ^ 127 then 2 * t else Nat.xor (2 * t - 2 ^ 128) 0x87

/-- The blocks of a line, each under its tweak. -/
def xtsBlocks (f : List Nat → List Nat) : Nat → Nat → List Nat → List Nat
  | 0, _, _ => []
  | k + 1, t, b => xorBytes (f (xorBytes (b.take 16) (octets 16 t))) (octets 16 t) ++ xtsBlocks f k (nextTweak t) (b.drop 16)
/-- The first tweak of a line: its number, enciphered under the second key. -/
def firstTweak (key : BitVec 512) (line : Nat) : Nat :=
  ofOctets (aesBlock (roundKeys ((octets 64 key.toNat).drop 32)) (octets 16 line))
/-- A line as HBM4E holds it under a key pair, and the line that HBM4E's bytes stand for. -/
def sealBytes (key : BitVec 512) (line : Nat) (l : List Byte) : List Byte :=
  (xtsBlocks (aesBlock (roundKeys ((octets 64 key.toNat).take 32))) 8 (firstTweak key line) (l.map (·.toNat))).map (BitVec.ofNat 8)
def openBytes (key : BitVec 512) (line : Nat) (l : List Byte) : List Byte :=
  (xtsBlocks (aesBlockBack (roundKeys ((octets 64 key.toNat).take 32))) 8 (firstTweak key line) (l.map (·.toNat))).map (BitVec.ofNat 8)

/-! ### Key wrap (R396) -/

/-- One step of KW: the integrity register and the semiblocks, of which the first is the step's. -/
def wrapStep (ks : List (List Nat)) (n : Nat) (a : List Nat) (r : List Nat) : List Nat × List Nat :=
  let b := aesBlock ks (a ++ r)
  (xorBytes (b.take 8) (octets 8 n).reverse, b.drop 8)
/-- Six rounds over eight semiblocks: steps n + 1, n + 2, …, of which k are left. -/
def wrapSteps (ks : List (List Nat)) : Nat → Nat → List Nat → List (List Nat) → List Nat × List (List Nat)
  | 0, _, a, rs => (a, rs)
  | k + 1, n, a, rs =>
    let x := wrapStep ks (n + 1) a (rs.headD [])
    wrapSteps ks k (n + 1) x.1 (rs.drop 1 ++ [x.2])
/-- KW of a key pair of 64 bytes: 72 bytes. -/
def keyWrap (kek : BitVec 256) (key : BitVec 512) : List Byte :=
  let l := octets 64 key.toNat
  let x := wrapSteps (roundKeys (octets 32 kek.toNat)) 48 0 (List.replicate 8 0xA6)
    ((List.range 8).map fun k => (l.drop (8 * k)).take 8)
  (x.1 ++ x.2.flatten).map (BitVec.ofNat 8)

end Sys2Proof.Machine
end

