-- ==== Sys2Proof/Machine/Cells.lean ====
section
/-!
DEFINITION. Sparse storage: a list of (number, contents) pairs in one canonical form, keys strictly rising and no
entry equal to 0, which is what an unlisted number reads as. The large arrays of the machine (home memory, plates,
vectors, accumulators) are kept so, which makes equal contents equal data.
-/
namespace Sys2Proof.Machine

/-- Sparse cells of w bits. -/
abbrev Cells (w : Nat) := List (Nat × BitVec w)

/-- What cell `a` holds; an unlisted cell holds 0. -/
def Cells.get {w : Nat} (c : Cells w) (a : Nat) : BitVec w :=
  match c with
  | [] => 0#w
  | (b, v) :: t => if b = a then v else Cells.get t a

/-- Every entry but those of cell `a`. -/
def Cells.drop {w : Nat} (c : Cells w) (a : Nat) : Cells w := c.filter fun p => p.1 != a

/-- Puts an entry before the first larger key. -/
def Cells.place {w : Nat} (a : Nat) (v : BitVec w) : Cells w → Cells w
  | [] => [(a, v)]
  | (b, u) :: t => if a < b then (a, v) :: (b, u) :: t else (b, u) :: Cells.place a v t

/-- Writes cell `a`; writing 0 removes the entry. -/
def Cells.set {w : Nat} (c : Cells w) (a : Nat) (v : BitVec w) : Cells w :=
  if v = 0#w then c.drop a else Cells.place a v (c.drop a)

/-- Writes cells in order; the last write of a cell wins. -/
def Cells.setMany {w : Nat} (c : Cells w) (l : List (Nat × BitVec w)) : Cells w :=
  l.foldl (fun c p => c.set p.1 p.2) c

/-- The non-zero cells of a block that starts at `lo`. -/
def Cells.block {w : Nat} (lo n : Nat) (f : Nat → BitVec w) : Cells w :=
  (List.range n).filterMap fun i => if f i = 0#w then none else some (lo + i, f i)

/-- Writes the n cells from `lo` on: cell `lo + i` becomes `f i`. -/
def Cells.blit {w : Nat} (c : Cells w) (lo n : Nat) (f : Nat → BitVec w) : Cells w :=
  c.filter (fun p => decide (p.1 < lo)) ++ (Cells.block lo n f ++ c.filter (fun p => decide (lo + n ≤ p.1)))

/-- Writes 0 to the n cells from `lo` on. -/
def Cells.clear {w : Nat} (c : Cells w) (lo n : Nat) : Cells w :=
  c.filter fun p => decide (p.1 < lo) || decide (lo + n ≤ p.1)

/-- The n cells from `lo` on. -/
def Cells.read {w : Nat} (c : Cells w) (lo n : Nat) : List (BitVec w) :=
  (List.range n).map fun i => c.get (lo + i)

/-- The canonical form: keys strictly rising, no entry 0. -/
def Cells.wf {w : Nat} (c : Cells w) : Bool :=
  match c with
  | [] => true
  | (a, v) :: t => (v != 0#w) && (t.all fun p => decide (a < p.1)) && Cells.wf t

end Sys2Proof.Machine
end

