-- ==== Sys2Proof/Machine/Float.lean ====
section
/-!
DEFINITION. Number formats, rounding, conversions and flags (file 03, R64-R82). A finite number is kept exactly, as a
sign, an integer and a power of two; every result is computed exactly and rounded once (R72).
-/
namespace Sys2Proof.Machine

/-! ### Flags (R32) -/

/-- FLAGS: NV, DZ, OF, UF, NX, SAT, T2R from bit 0 on (R32). -/
abbrev Flags := BitVec 7
def flNone : Flags := 0#7
def flNV : Flags := 0x01#7
def flDZ : Flags := 0x02#7
def flOF : Flags := 0x04#7
def flUF : Flags := 0x08#7
def flNX : Flags := 0x10#7
def flSAT : Flags := 0x20#7
def flT2R : Flags := 0x40#7
/-- A flag that is raised when the condition holds. -/
def flagIf (c : Bool) (f : Flags) : Flags := if c then f else 0#7

/-! ### Values -/

/-- A floating-point value (R65): NaN, which may be signalling (R66), an infinity, or sign · mant · 2^exp. -/
inductive FVal where
  | nan (signalling : Bool)
  | inf (neg : Bool)
  | fin (neg : Bool) (mant : Nat) (exp : Int)
  deriving DecidableEq, Repr

/-- A magnitude mant · 2^exp, or with `more` something strictly between that and (mant + 1) · 2^exp. -/
structure Mag where
  mant : Nat
  exp : Int
  more : Bool
  deriving DecidableEq, Repr

/-- The shape of a floating-point format (R64). `nans` is 0 where no code is a NaN, 1 where only the all-ones
magnitude is, 2 where every all-ones exponent with a mantissa is. `top` is the code of the largest magnitude. -/
structure Fmt where
  ebits : Nat
  mbits : Nat
  bias : Nat
  hasInf : Bool
  nans : Nat
  canon : Nat
  top : Nat
  deriving DecidableEq, Repr

def fmtF32 : Fmt := ⟨8, 23, 127, true, 2, 0x7FC00000, 0x7F7FFFFF⟩
def fmtBf16 : Fmt := ⟨8, 7, 127, true, 2, 0x7FC0, 0x7F7F⟩
def fmtF16 : Fmt := ⟨5, 10, 15, true, 2, 0x7E00, 0x7BFF⟩
def fmtE5m2 : Fmt := ⟨5, 2, 15, true, 2, 0x7E, 0x7B⟩
def fmtE4m3 : Fmt := ⟨4, 3, 7, false, 1, 0x7F, 0x7E⟩
def fmtE3m2 : Fmt := ⟨3, 2, 3, false, 0, 0, 0x1F⟩
def fmtE2m3 : Fmt := ⟨2, 3, 1, false, 0, 0, 0x1F⟩
def fmtE2m1 : Fmt := ⟨2, 1, 1, false, 0, 0, 0x7⟩

/-- The width of a code. -/
def Fmt.width (f : Fmt) : Nat := f.ebits + f.mbits + 1

/-- The value of a code (R65, R66). -/
def Fmt.decode (f : Fmt) (code : Nat) : FVal :=
  let m := code % 2 ^ f.mbits
  let e := code / 2 ^ f.mbits % 2 ^ f.ebits
  let s := bit code (f.ebits + f.mbits)
  if e = 0 then .fin s m (1 - (f.bias : Int) - f.mbits)
  else if e = 2 ^ f.ebits - 1 ∧ f.nans = 2 ∧ m ≠ 0 then
    .nan (decide (f.mbits ≥ 7) && !bit m (f.mbits - 1))
  else if e = 2 ^ f.ebits - 1 ∧ f.hasInf ∧ m = 0 then .inf s
  else if e = 2 ^ f.ebits - 1 ∧ f.nans = 1 ∧ m = 2 ^ f.mbits - 1 then .nan false
  else .fin s (2 ^ f.mbits + m) ((e : Int) - f.bias - f.mbits)

/-- The code of a magnitude with a sign. -/
def Fmt.signed (f : Fmt) (neg : Bool) (mag : Nat) : Nat :=
  mag + if neg then 2 ^ (f.ebits + f.mbits) else 0
/-- The code of ±∞ in a format that has it. -/
def Fmt.infCode (f : Fmt) : Nat := f.top + 1

/-- A NaN result (R76): the canonical NaN, or +0 with NV where the format has none. -/
def Fmt.nanResult (f : Fmt) : Nat × Flags := if f.nans = 0 then (0, flNV) else (f.canon, flNone)
/-- An exactly infinite result (R75). -/
def Fmt.infResult (f : Fmt) (neg sat : Bool) : Nat × Flags :=
  if f.hasInf && !sat then (f.signed neg f.infCode, flNone) else (f.signed neg f.top, flSAT)

/-- Which of the two neighbours a magnitude between them rounds to (R73, R74): `num`/2^`den` is the fraction of the
way from lo to hi, with `more` something strictly above it. True chooses hi. -/
def roundsUp (rm : RoundMode) (r16 : Nat) (neg loOdd : Bool) (num den : Nat) (more : Bool) : Bool :=
  match rm with
  | .rne => decide (2 ^ den < 2 * num) || (decide (2 ^ den = 2 * num) && (more || loOdd))
  | .rz => false
  | .ru => !neg
  | .rd => neg
  | .sr => decide (65536 ≤ num * 65536 / 2 ^ den + r16)

/-- Splits a magnitude at the unit 2^q: the whole units, the rest as a fraction num/2^den, and whether there is more. -/
def Mag.split (d : Mag) (q : Int) : Nat × Nat × Nat × Bool :=
  if q ≤ d.exp then (d.mant * 2 ^ (d.exp - q).toNat, 0, 0, d.more)
  else
    let k := (q - d.exp).toNat
    (d.mant / 2 ^ k, d.mant % 2 ^ k, k, d.more)

/-- floor(log2) of a magnitude that is not 0. -/
def Mag.top (d : Mag) : Int := (Nat.log2 d.mant : Int) + d.exp

/-- Rounds a non-zero magnitude into a format (R73-R75): the code and the flags. -/
def Fmt.round (f : Fmt) (rm : RoundMode) (r16 : Nat) (sat neg : Bool) (d0 : Mag) : Nat × Flags :=
  -- a magnitude below every unit of the sum that found it: any non-zero value so small rounds alike
  let d : Mag := if d0.mant = 0 then ⟨1, -100000, true⟩ else d0
  if d0.mant = 0 ∧ d0.more = false then (f.signed neg 0, flNone)
  else
    let emin : Int := 1 - (f.bias : Int)
    let e := max d.top emin
    let q := e - f.mbits
    let (lo, num, den, more) := d.split q
    let exact := decide (num = 0) && !more
    let up := !exact && roundsUp rm r16 neg (lo % 2 == 1) num den more
    let code := (e - emin).toNat * 2 ^ f.mbits + lo + if up then 1 else 0
    if f.top < code then
      if f.hasInf && !sat then
        let toInf := match rm with
          | .rne | .sr => true
          | .rz => false
          | .ru => !neg
          | .rd => neg
        (f.signed neg (if toInf then f.infCode else f.top), flOF ||| flNX)
      else (f.signed neg f.top, flOF ||| flNX ||| flSAT)
    else
      (f.signed neg code, flagIf (!exact) flNX ||| flagIf (!exact && decide (code < 2 ^ f.mbits)) flUF)

/-- Writes an exact value into a format: R73, R75, R76, with zeros keeping their sign. -/
def Fmt.write (f : Fmt) (rm : RoundMode) (r16 : Nat) (sat : Bool) (v : FVal) : Nat × Flags :=
  match v with
  | .nan _ => f.nanResult
  | .inf neg => f.infResult neg sat
  | .fin neg m e => f.round rm r16 sat neg ⟨m, e, false⟩

/-! ### Exact arithmetic -/

def FVal.isNan : FVal → Bool
  | .nan _ => true
  | _ => false
/-- NV of an operation that reads a signalling NaN (R76). -/
def FVal.snan : FVal → Flags
  | .nan s => flagIf s flNV
  | _ => flNone
def FVal.isNeg : FVal → Bool
  | .nan _ => false
  | .inf n => n
  | .fin n _ _ => n
def FVal.isZero : FVal → Bool
  | .fin _ 0 _ => true
  | _ => false
def FVal.negate : FVal → FVal
  | .nan s => .nan s
  | .inf n => .inf !n
  | .fin n m e => .fin (!n) m e
def FVal.abs : FVal → FVal
  | .nan s => .nan s
  | .inf _ => .inf false
  | .fin _ m e => .fin false m e

/-- The signed integer of a finite number in units of 2^q, for q at most its exponent. -/
def scaled (neg : Bool) (m : Nat) (e q : Int) : Int :=
  let v : Nat := m * 2 ^ (e - q).toNat
  if neg then -(v : Int) else v

/-- The exact product (R76 for 0 · ∞). -/
def FVal.mul (a b : FVal) : FVal × Flags :=
  match a, b with
  | .nan _, _ | _, .nan _ => (.nan false, a.snan ||| b.snan)
  | .inf s, .inf t => (.inf (s != t), flNone)
  | .inf s, .fin t m _ => if m = 0 then (.nan false, flNV) else (.inf (s != t), flNone)
  | .fin s m _, .inf t => if m = 0 then (.nan false, flNV) else (.inf (s != t), flNone)
  | .fin s m e, .fin t n f => (.fin (s != t) (m * n) (e + f), flNone)

/-- The exact sum; an exact zero sum takes its sign by R78. -/
def FVal.add (rm : RoundMode) (a b : FVal) : FVal × Flags :=
  match a, b with
  | .nan _, _ | _, .nan _ => (.nan false, a.snan ||| b.snan)
  | .inf s, .inf t => if s = t then (.inf s, flNone) else (.nan false, flNV)
  | .inf s, .fin _ _ _ => (.inf s, flNone)
  | .fin _ _ _, .inf t => (.inf t, flNone)
  | .fin s m e, .fin t n f =>
    let q := min e f
    let v := scaled s m e q + scaled t n f q
    if v = 0 then (.fin (if m = 0 ∧ n = 0 ∧ s = t then s else rm == .rd) 0 0, flNone)
    else (.fin (decide (v < 0)) v.natAbs q, flNone)

/-- The exact fused product and sum a · b + c (R76, R155). -/
def FVal.fma (rm : RoundMode) (a b c : FVal) : FVal × Flags :=
  let (p, f) := FVal.mul a b
  let (r, g) := FVal.add rm p c
  (r, f ||| g)

/-- Rounds a computed value. -/
def finishF (f : Fmt) (rm : RoundMode) (sat : Bool) (r : FVal × Flags) : Nat × Flags :=
  let (c, g) := f.write rm 0 sat r.1
  (c, r.2 ||| g)

/-- Addition, subtraction, multiplication and the fused forms, rounded once. -/
def Fmt.addOp (f : Fmt) (rm : RoundMode) (sat : Bool) (a b : Nat) : Nat × Flags :=
  finishF f rm sat (FVal.add rm (f.decode a) (f.decode b))
def Fmt.subOp (f : Fmt) (rm : RoundMode) (sat : Bool) (a b : Nat) : Nat × Flags :=
  finishF f rm sat (FVal.add rm (f.decode a) (f.decode b).negate)
def Fmt.mulOp (f : Fmt) (rm : RoundMode) (sat : Bool) (a b : Nat) : Nat × Flags :=
  finishF f rm sat (FVal.mul (f.decode a) (f.decode b))
/-- ±(a · b) ± c. -/
def Fmt.fmaOp (f : Fmt) (rm : RoundMode) (sat negP negC : Bool) (a b c : Nat) : Nat × Flags :=
  let va := f.decode a
  let vc := f.decode c
  finishF f rm sat (FVal.fma rm (if negP then va.negate else va) (f.decode b) (if negC then vc.negate else vc))

/-- Division (R75, R76): a finite non-zero value over ±0 is infinite and sets DZ. -/
def Fmt.divOp (f : Fmt) (rm : RoundMode) (sat : Bool) (a b : Nat) : Nat × Flags :=
  let x := f.decode a
  let y := f.decode b
  let neg := x.isNeg != y.isNeg
  let withF (g : Flags) (r : Nat × Flags) : Nat × Flags := (r.1, g ||| r.2)
  match x, y with
  | .nan _, _ | _, .nan _ => withF (x.snan ||| y.snan) f.nanResult
  | .inf _, .inf _ => withF flNV f.nanResult
  | .inf _, .fin _ _ _ => f.infResult neg sat
  | .fin _ _ _, .inf _ => (f.signed neg 0, flNone)
  | .fin _ m e, .fin _ n k =>
    if n = 0 then (if m = 0 then withF flNV f.nanResult else withF flDZ (f.infResult neg sat))
    else if m = 0 then (f.signed neg 0, flNone)
    else f.round rm 0 sat neg ⟨m * 2 ^ 100 / n, e - k - 100, decide (m * 2 ^ 100 % n ≠ 0)⟩

/-- floor of the square root of n < 2^(2k): one bit of the root a step. -/
def isqrt : Nat → Nat → Nat → Nat
  | 0, _, r => r
  | k + 1, n, r => isqrt k n (if (r + 2 ^ k) * (r + 2 ^ k) ≤ n then r + 2 ^ k else r)

/-- The square root as a magnitude with about p bits and a mark of what is left over. -/
def sqrtMag (p m : Nat) (e : Int) : Mag :=
  let odd := e % 2 != 0
  let m' := (if odd then 2 * m else m) * 2 ^ (2 * p)
  let e' := (if odd then e - 1 else e) / 2 - p
  let r := isqrt (bitLen m' / 2 + 1) m' 0
  ⟨r, e', decide (r * r ≠ m')⟩

/-- The square root (R76): −0 gives −0, a value below it sets NV. -/
def Fmt.sqrtOp (f : Fmt) (rm : RoundMode) (sat : Bool) (a : Nat) : Nat × Flags :=
  match f.decode a with
  | .nan s => (f.nanResult.1, flagIf s flNV ||| f.nanResult.2)
  | .inf true => (f.nanResult.1, flNV)
  | .inf false => f.infResult false sat
  | .fin neg m e =>
    if m = 0 then (f.signed neg 0, flNone)
    else if neg then (f.nanResult.1, flNV)
    else f.round rm 0 sat false (sqrtMag 60 m e)

/-! ### Order (R77, R189) -/

/-- The value of a number that is not NaN, as a signed integer in units of 2^q; infinities lie beyond every number of
these formats. -/
def FVal.key (q : Int) : FVal → Int
  | .nan _ => 0
  | .inf n => if n then -(2 ^ 4000 : Nat) else (2 ^ 4000 : Nat)
  | .fin n m e => scaled n m e q
/-- The least exponent of a value. -/
def FVal.unit : FVal → Int
  | .fin _ _ e => e
  | _ => 0
/-- a < b as numbers; −0 equals +0; false on NaN. -/
def FVal.lt (a b : FVal) : Bool :=
  !a.isNan && !b.isNan && decide (a.key (min a.unit b.unit) < b.key (min a.unit b.unit))
def FVal.eq (a b : FVal) : Bool :=
  !a.isNan && !b.isNan && decide (a.key (min a.unit b.unit) = b.key (min a.unit b.unit))
/-- a < b with −0 below +0 (R77). -/
def FVal.ltZ (a b : FVal) : Bool := a.lt b || (a.isZero && b.isZero && a.isNeg && !b.isNeg)

/-- minimumNumber and maximumNumber (R77); a signalling NaN sets NV (R76). -/
def Fmt.minMax (f : Fmt) (wantMax : Bool) (a b : Nat) : Nat × Flags :=
  let x := f.decode a
  let y := f.decode b
  let g := x.snan ||| y.snan
  if x.isNan && y.isNan then (f.canon, g)
  else if x.isNan then (b % 2 ^ f.width, g)
  else if y.isNan then (a % 2 ^ f.width, g)
  else if wantMax then (if x.ltZ y then b % 2 ^ f.width else a % 2 ^ f.width, g)
  else (if y.ltZ x then b % 2 ^ f.width else a % 2 ^ f.width, g)

/-! ### Exact sums (R207, R223) -/

/-- S_F of a list of terms: the exact sum rounded RNE into a format, with overflow by R75 without SAT. -/
def Fmt.sumOf (f : Fmt) (l : List FVal) : Nat × Flags :=
  if l.any FVal.isNan then (f.canon, (l.map FVal.snan).foldl (· ||| ·) flNone)
  else if l.contains (.inf false) && l.contains (.inf true) then (f.canon, flNV)
  else if l.contains (.inf false) then (f.signed false f.infCode, flNone)
  else if l.contains (.inf true) then (f.signed true f.infCode, flNone)
  else
    let q := (l.map FVal.unit).foldl min 0
    let total := (l.map (FVal.key q)).foldl (· + ·) 0
    if total = 0 then (f.signed (l.all fun v => v.isZero && v.isNeg) 0, flNone)
    else f.round .rne 0 false (decide (total < 0)) ⟨total.natAbs, q, false⟩

/-- Whether a code is subnormal in its format. -/
def Fmt.isSub (f : Fmt) (c : Nat) : Bool := c / 2 ^ f.mbits % 2 ^ f.ebits == 0 && c % 2 ^ f.mbits != 0
/-- The zero with the sign of a code. -/
def Fmt.zeroLike (f : Fmt) (c : Nat) : Nat := f.signed (bit c (f.ebits + f.mbits)) 0

/-! ### Conversions (R80) -/

/-- Float to integer of n bits (R80). -/
def toInt (signed : Bool) (n : Nat) (rm : RoundMode) (r16 : Nat) (v : FVal) : Nat × Flags :=
  let lo : Int := if signed then -(2 ^ (n - 1) : Nat) else 0
  let hi : Int := if signed then (2 ^ (n - 1) : Nat) - 1 else (2 ^ n : Nat) - 1
  match v with
  | .nan _ => (0, flNV)
  | .inf neg => (lowBits n (if neg then lo else hi), flNV ||| flSAT)
  | .fin neg m e =>
    let (w, num, den, _) := Mag.split ⟨m, e, false⟩ 0
    let up := decide (num ≠ 0) && roundsUp rm r16 neg (w % 2 == 1) num den false
    let k : Nat := w + if up then 1 else 0
    let x : Int := if neg then -(k : Int) else k
    if x < lo then (lowBits n lo, flNV ||| flSAT)
    else if hi < x then (lowBits n hi, flNV ||| flSAT)
    else (lowBits n x, flagIf (decide (num ≠ 0)) flNX)

/-- Integer to float (R80). -/
def ofInt (f : Fmt) (rm : RoundMode) (r16 : Nat) (sat : Bool) (x : Int) : Nat × Flags :=
  if x = 0 then (0, flNone) else f.round rm r16 sat (decide (x < 0)) ⟨x.natAbs, 0, false⟩

/-- Clamps an integer into a range (R68): SAT where that changed it. -/
def clampInt (lo hi x : Int) : Int × Flags :=
  if x < lo then (lo, flSAT) else if hi < x then (hi, flSAT) else (x, flNone)

/-- Float to E8M0 (R80). -/
def toE8m0 (rm : RoundMode) (r16 : Nat) (v : FVal) : Nat × Flags :=
  match v with
  | .nan _ | .inf _ => (0xFF, flNV)
  | .fin neg m e =>
    if m = 0 then (0, flNone)
    else if neg then (0xFF, flNV)
    else
      let k : Int := (Nat.log2 m : Int) + e
      let num := m - 2 ^ Nat.log2 m
      let den := Nat.log2 m
      let exact := decide (num = 0)
      let up := !exact && match rm with
        | .rne => decide (2 ^ den ≤ 2 * num)
        | .rz | .rd => false
        | .ru => true
        | .sr => decide (65536 ≤ num * 65536 / 2 ^ den + r16)
      let r : Int := k + if up then 1 else 0
      if r < -127 then (0, flUF ||| flNX)
      else if 127 < r then (0xFE, flOF ||| flNX ||| flSAT)
      else ((r + 127).toNat, flagIf (!exact) flNX)
/-- The value of an E8M0 code (R65). -/
def ofE8m0 (c : Nat) : FVal := if c % 256 = 255 then .nan false else .fin false 1 ((c % 256 : Nat) - 127)

/-- The value of a T2 code (R70). -/
def ofT2 (c : Nat) : Int × Flags :=
  match c % 4 with
  | 0 => (0, flNone)
  | 1 => (1, flNone)
  | 3 => (-1, flNone)
  | _ => (0, flT2R)
/-- Float to T2 (R80). -/
def toT2 (rm : RoundMode) (r16 : Nat) (v : FVal) : Nat × Flags :=
  match v with
  | .nan _ => (0, flNV)
  | .inf neg => (if neg then 3 else 1, flNV ||| flSAT)
  | .fin neg m e =>
    let (w, num, den, _) := Mag.split ⟨m, e, false⟩ 0
    let up := decide (num ≠ 0) && roundsUp rm r16 neg (w % 2 == 1) num den false
    let k := w + if up then 1 else 0
    if k = 0 then (0, flagIf (decide (num ≠ 0)) flNX)
    else if k = 1 then (if neg then 3 else 1, flagIf (decide (num ≠ 0)) flNX)
    else (if neg then 3 else 1, flNV ||| flSAT)

/-- Float to float (R80): a signalling NaN sets NV. -/
def convert (f : Fmt) (rm : RoundMode) (r16 : Nat) (sat : Bool) (v : FVal) : Nat × Flags :=
  let (c, g) := f.write rm r16 sat v
  (c, v.snan ||| g)

/-- The largest E8M0-free scale of a block (R82): floor(log2) of a non-zero magnitude. -/
def FVal.log2 : FVal → Option Int
  | .fin _ m e => if m = 0 then none else some ((Nat.log2 m : Int) + e)
  | _ => none

/-- The unbiased exponent of a format's largest normal (R82). -/
def Fmt.emax (f : Fmt) : Int := (f.top / 2 ^ f.mbits : Nat) - (f.bias : Int)

/-- One MX block of values (R82): the scale, the element codes and the flags. -/
def mxBlock (f : Fmt) (rm : RoundMode) (r16 : Nat → Nat) (vals : List FVal) : Nat × List Nat × Flags :=
  if vals.any (fun x => match x with | .fin _ _ _ => false | _ => true) then
    (0xFF, vals.map fun _ => 0, flNV)
  else
    let tops := vals.filterMap FVal.log2
    let e : Int := match tops with
      | [] => -127
      | t :: ts => max (-127) (min 127 (ts.foldl max t - f.emax))
    let out := vals.mapIdx fun i x =>
      match x with
      | .fin n m k => convert f rm (r16 i) true (.fin n m (k - e))
      | _ => (0, flNone)
    ((e + 127).toNat, out.map (·.1), (out.map (·.2)).foldl (· ||| ·) flNone)

end Sys2Proof.Machine
end

