-- ==== Sys2Proof/Machine/State.lean ====
section
/-!
DEFINITION. The state of one die, of its package's mailbox and security block, and of the die's ends of its links, as
plain data (INVENTORY.md lists every field, the rule that names it and its reset value). Log 1 says what stands
outside: the other dies, the host, the physical world; what they do arrives as instructions of `agenda`, what this die
sends is appended to `outbox`.
-/
namespace Sys2Proof.Machine

/-! ### The stream's context (R27-R33, R368) -/

/-- An active loop (R165): its index, count, START and END. -/
structure LoopEntry where
  idx : Fin 6
  count : Word
  start : CodeAddr
  stop : CodeAddr
  deriving DecidableEq, Repr

/-- A named barrier (R175). -/
structure Barrier where
  count : BitVec 16
  target : BitVec 16
  deriving DecidableEq, Repr

/-- What the pending-target register holds (R29, R39), with the kind that R167 needs: a branch, jump or return; a call;
the skip of a zero-count loop, with the loop's END; or the end of the point. -/
inductive Pending where
  | branch (target : CodeAddr)
  | call (target : CodeAddr)
  | skip (stop : CodeAddr)
  | done
  deriving DecidableEq, Repr

/-- Attributes of a window, in code order (R330). -/
inductive WinAttr where
  | input | output | inout | scratch | spill | land
  deriving DecidableEq, Repr

/-- A window of the task (R88, R330); absent when `len` is 0. -/
structure Window where
  base : Nat
  len : Nat
  attr : WinAttr
  lazy : Bool
  rebind : Bool
  deriving DecidableEq, Repr

/-- An extent (R94): window 0-15, or 16 for the code; starts and length in units of 64 KiB; key slot. -/
structure Extent where
  win : Nat
  vstart : Nat
  pstart : Nat
  len : Nat
  key : Nat
  deriving DecidableEq, Repr

/-- An entry of the stub table (R62). -/
structure StubEntry where
  first : Nat
  stop : Nat
  entry : Nat
  deriving DecidableEq, Repr

/-- An entry of the segment table (R63). -/
structure SegEntry where
  entry : Nat
  stop : Nat
  slive : BitVec 32
  vlive : BitVec 32
  plive : BitVec 8
  ilive : BitVec 8
  deriving DecidableEq, Repr

/-- What the Repeater decided for the task (R354): not consulted, a run that may record under its key, a run that records
nothing; each with the task's key, empty where the tenant had no row. -/
inductive RepOutcome where
  | none
  | pending (key : List Byte)
  | noRecord (key : List Byte)
  deriving DecidableEq, Repr

/-- The dispatched task (R328-R337): the private copy of its descriptor, what dispatch read from its tables, and its
progress. -/
structure Task where
  desc : List Byte
  routines : List Byte
  comps : List Byte
  ctl : DWord
  entry : Nat
  codeBase : Nat
  codeLen : Nat
  crec : Nat
  windows : List Window
  extents : List Extent
  stubs : List StubEntry
  segs : List SegEntry
  args : List Byte
  entryId : Nat
  descAddr : Nat
  mask : BitVec 14
  base : BitVec 14
  tstart : DWord
  attempts : Nat
  points : Nat
  seq : Nat
  rep : RepOutcome
  evicted : Bool
  deriving DecidableEq, Repr

/-- The record of the open segment (R172, R371, R372). -/
structure SegRecord where
  stop : Nat
  slive : BitVec 32
  vlive : BitVec 32
  plive : BitVec 8
  ilive : BitVec 8
  pc : CodeAddr
  pend : Option Pending
  loops : List LoopEntry
  idxs : Vector Word 6
  ras : List CodeAddr
  spilled : BitVec 16
  flags : Flags
  overwritten : Bool
  rewinds : Nat
  mismatched : Bool
  deriving DecidableEq, Repr

/-- The agreements a stream can wait in (R174, R179, R180). -/
inductive JoinKind where
  | tick (sc : Scope)
  | syncp
  | syncc (sc : Scope)
  | rdz (mask : BitVec 14)
  deriving DecidableEq, Repr

/-- The progress of a TICK, SYNCP, SYNCC or RDZ that waits: whether the task's own lines have been written back, the
node-id dimensions whose token is still awaited in ascending order, whether the token of the first of them has been sent,
and, for the package line, how many releases are still awaited and whether the arrival has been made. -/
structure Join where
  kind : JoinKind
  cleaned : Bool
  dims : List Nat
  sent : Bool
  releases : Nat
  arrived : Bool
  merged : Bool
  deriving DecidableEq, Repr

/-- What a FENCE that has issued still waits for (R177): its classes, and how much had been issued before it: atomic
instructions, items pushed per q register, matrix instructions, packets per channel, the exchange slots then occupied, and
the number that the next waiting host landing was to get. -/
structure FenceWait where
  mask : BitVec 5
  atoms : Nat
  pushed : List Nat
  matrix : Nat
  packets : List Nat
  slots : List (Fin 4)
  landing : Nat
  deriving DecidableEq, Repr

/-- The home-memory paths of a task (R309), and the readers outside it (R315). -/
inductive Path where
  | st | mx | cp | outside
  deriving DecidableEq, Repr

/-- Who writes home memory for a task: partition, path, and for a packet of its stream the channel and index. -/
structure Writer where
  part : PartNo
  path : Path
  pkt : Option (Fin 8 × Nat) := none
  deriving DecidableEq, Repr

/-- What the group after an instruction of slot 0 waits for, that instruction's own group having issued: the firmware's
answer to a SYS, with its destination and service (R169), the end of a stub's accesses before it parks (R366), a FENCE (R177), an
agreement (R174, R179, R180); or the end of what was issued before a rewind, whose cause is a mismatch or not (R372). After the
last point, `closed` says that the last tick has been closed (R337). -/
inductive Wait where
  | sys (rd : RegNo) (service : BitVec 20)
  | park
  | fence (f : FenceWait)
  | agree (j : Join)
  | rewind (mismatch : Bool)
  | closed
  deriving DecidableEq, Repr

/-- The stub record (R365); present while the stream runs a stub. `wait` is what the group at P waits for. -/
structure StubRecord where
  pc : CodeAddr
  pend : Option Pending
  loops : List LoopEntry
  latchV : Vector (Option (Cells 32)) 2
  latchC : Vector (Option DWord) 2
  calls : Nat
  spilled : BitVec 16
  wait : Option Wait
  deriving DecidableEq, Repr

/-- An item of a stream (R113): the vector, the lanes an outbound item writes (R212), and whether an inbound item read a
poisoned line (R105). -/
structure QItem where
  data : Cells 32
  act : PredReg
  bad : Bool
  deriving DecidableEq, Repr

/-- A stream register (R112-R117): the pattern, items popped or pushed, items fetched or written, the items in flight
and those landed (inbound) or waiting in the rows (outbound), oldest first. -/
structure QReg where
  pb : DWord
  pc : DWord
  ps1 : DWord
  ps2 : DWord
  moved : Nat
  fetched : Nat
  flight : List QItem
  items : List QItem
  deriving DecidableEq, Repr

/-- What the stream is doing. -/
inductive StreamStatus where
  /-- no task, or the task is not in RUN -/
  | idle
  /-- issuing groups -/
  | running
  /-- stopped by a trap, in the Regulator's hands (R363) -/
  | trapped
  /-- the DONE of the last point has taken effect; the completion steps of R337 remain -/
  | completing
  /-- parked, not yet saved (R365, R368) -/
  | parked
  /-- stopped by an abort or a kill that waits for the task's packets (R369) -/
  | aborting
  deriving DecidableEq, Repr

/-- Why the group at the PC did not issue in this step: a wait point (R181, R303), a full or busy unit (R37), or a
lazy page that the walker is asked for (R95). -/
inductive HoldReason where
  | waitPoint
  | stall
  | lazyPage (win : Nat) (va : Nat)
  deriving DecidableEq, Repr

/-- Why a task ends before its last point (R370). -/
inductive AbortCause where
  | lazyFault (va : Nat) (win : Nat)
  | deadline
  | uncorr
  | kill (code : Nat) (trap : Nat) (detail : Nat)
  deriving DecidableEq, Repr

/-- The stream's context: the registers of R27, the resumable position, the control registers, and what R368 moves
with them. -/
structure Stream where
  -- the register files of R27
  s : Vector DWord 32
  v : Cells 32
  p : Vector PredReg 8
  acc : Cells 32
  q : Vector (Option QReg) 8
  m : Vector DWord 8
  e : Vector DWord 64
  i : Vector Word 6
  bars : Vector Barrier 64
  ras : List CodeAddr
  spilled : BitVec 16
  latchV : Vector (Option (Cells 32)) 2
  latchC : Vector (Option DWord) 2
  -- the resumable position (R29)
  pc : CodeAddr
  pend : Option Pending
  loops : List LoopEntry
  -- the control registers of R30-R32 that are not views of other state
  subMask : BitVec 14
  subBase : BitVec 14
  tickno : DWord
  seedsnap : DWord
  flags : Flags
  det : Bool
  pure : Bool
  exch : Bool
  rqsafe : Bool
  iter : DWord
  domain : DWord
  taskid : DWord
  -- pairing counters (R290), rendezvous and synchronisation counters (R174, R180)
  px : Vector Nat 14
  ps : Nat
  rdzSent : Vector Nat 14
  packTicks : Nat
  packSyncs : Nat
  subTicks : Nat
  cubeTicks : Nat
  subSyncs : Nat
  cubeSyncs : Nat
  /-- what the next group waits for (R169, R174, R177, R179, R180) -/
  wait : Option Wait
  /-- how many matrix instructions must have completed before the next group issues, after an MWAIT (R242) -/
  mwait : Option Nat
  -- records
  seg : Option SegRecord
  stub : Option StubRecord
  preempt : Option Nat
  status : StreamStatus
  hold : Option HoldReason
  abort : Option AbortCause
  task : Option Task
  deriving DecidableEq, Repr

/-! ### Memory beside the stream -/

/-- A line of the main partition (R100-R105): line number pa/128, key slot, dirty or not; the bytes that HBM4E's copy reads as
under its own slot, where they may differ from the line's (a dirty line, or one filled under another slot; log 18); the partitions
whose tasks' own paths wrote it since it was last written back (R102, R369), and those of them that wrote to an INOUT window
(R370). -/
structure StashLine where
  line : Nat
  key : Nat
  dirty : Bool
  image : List Byte
  owners : List PartNo
  inout : List PartNo
  deriving DecidableEq, Repr

/-- A staged line (R103): its tag, the landed bytes and the byte mask, as a list of the landed byte offsets, which of its
sixteen 64-bit words have landed as poisoned (R130), and the key slot of its page where the landing's check has found it (R98). -/
structure StagedLine where
  line : Nat
  tag : PartNo
  bytes : List (Nat × Byte)
  bad : List Nat
  key : Option Nat
  deriving DecidableEq, Repr

/-- An accumulate that is applied at a partition's merge: into a staged window (R132), or onto a line under
deterministic reduction (R266). `cls` orders them: 0 the stream's own packets, 1 host packets, 2 posted packets. -/
structure HeldAcc where
  tag : PartNo
  det : Bool
  cls : Nat
  ch : Fin 8
  part : PartNo
  idx : Nat
  pa : Nat
  addend : Word
  key : Option Nat
  deriving DecidableEq, Repr

/-- A pending mark of a LAND line (R317): its tag, and whether the landing has retired (the next merge clears it). -/
structure LandMark where
  line : Nat
  tag : PartNo
  packet : Option (PartNo × Fin 8 × Nat)
  retired : Bool
  deriving DecidableEq, Repr

/-- A byte that a path of a partition's task wrote in this tick, with the byte it replaced: the readers in `freeFor` are not
ordered after the write (R312 step 2, R315). Bytes of one single-copy atomic write carry one number (R321); bytes of a packet
name its channel and index; `sum` marks what an atomic unit made of the word it found (R132, R262). A landing that reaches a LAND
line stands here under the path `outside`, for the packets issued before it (R318). -/
structure LooseByte where
  part : PartNo
  path : Path
  addr : Nat
  old : Byte
  new : Byte
  acc : Nat
  pkt : Option (Fin 8 × Nat)
  freeFor : List Path
  sum : Bool := false
  deriving DecidableEq, Repr

/-- Who waits for staging room (R319). -/
inductive LandAgent where
  | host
  | packet (part : PartNo) (ch : Fin 8) (idx : Nat)
  deriving DecidableEq, Repr

/-- A part of a landing, inside one line, that has not reached the stash: it waits for a staging way (R103, R319), or for an
earlier landing of its queue, or it is the rest of a packet that is still running (R313). Its number, its bytes with their
addresses, whether they are one single-copy atomic write, the words of 8 bytes that land as poisoned (R130), and the key slot of
the page where the check has found it. -/
structure WaitingLanding where
  agent : LandAgent
  num : Nat
  bytes : List (Nat × Byte)
  whole : Bool
  bad : List Nat
  key : Option Nat
  deriving DecidableEq, Repr

/-! ### Engines -/

/-- A flow that delivers into the shared landing rows (R118). -/
inductive RowFlow where
  | exchange (dim : Fin 14)
  | copyDim (dim : Fin 14) (ch : Fin 8)
  | copyLocal (ch : Fin 8)
  deriving DecidableEq, Repr

/-- A row waiting for, or held in, a shared landing row of a slab (R115, R118): the flow, the exchange slot it is for (R299),
the partition, and the bytes with their plate offsets in the share. -/
structure RowItem where
  flow : RowFlow
  slot : Fin 4
  part : PartNo
  slab : Fin 16
  bytes : List (Nat × Byte)
  deriving DecidableEq, Repr

/-- An entry of the matrix queue (R242, R243): its effect has been computed in issue order; its completion raises the
flags and makes the arrival. A call keeps its routine's number and whether the copy it runs is still the current one
(R240). -/
structure MatrixEntry where
  part : PartNo
  begun : Bool
  flags : Flags
  bar : Option (Fin 64)
  routine : Option (Fin 128)
  current : Bool
  deriving DecidableEq, Repr

/-- A memory-side atomic operation (R261); a compare-and-swap names the new value. -/
inductive AtomOp where
  | add | min | max | and | or | xor | swp
  | cas (new : DWord)
  deriving DecidableEq, Repr

/-- Where the word that an update finds is returned (R262): a scalar, or a lane of a vector. -/
inductive AtomReturn where
  | scalar (rd : RegNo)
  | lane (vd : RegNo) (k : Nat)
  deriving DecidableEq, Repr

/-- An update of one word that a unit has not yet applied (R262). -/
structure AtomUpdate where
  instr : Nat
  part : PartNo
  op : AtomOp
  size : MemSize
  pa : Nat
  operand : DWord
  ret : Option AtomReturn
  deriving DecidableEq, Repr

/-- A line update of the deterministic path (R264): instruction, slab, 64-byte line, and its addends in lane order
with their word index. -/
structure DetUpdate where
  instr : Nat
  part : PartNo
  slab : Fin 16
  line : Nat
  addends : List (Nat × Word)
  deriving DecidableEq, Repr

/-- A packet in the hands of a queue (R120-R135). -/
inductive PacketOrigin where
  | stream | host | posted
  deriving DecidableEq, Repr

/-- What becomes of the posting of a packet that has not claimed its slot (R123, R136). -/
inductive Posting where
  | unneeded | waiting | ok | failed
  deriving DecidableEq, Repr

/-- A packet of the stream that has not claimed its slot; the partner's report of a posted one may come before the claim
(R123); `cancel` when an abort or kill overtook it (R135). -/
structure IssuedPacket where
  pkt : Packet
  valid : Bool
  posting : Posting
  report : Option DWord
  cancel : Bool
  deriving DecidableEq, Repr

/-- A posted packet that waits for room in the ring (R122): the issuing job, the dimension it came across, and the physical
ranges of its source on the sender's die (R123). -/
structure PostedIn where
  pkt : Packet
  job : Word
  dim : Nat
  src : List (Nat × Nat)
  deriving DecidableEq, Repr

/-- What the channel knows of a packet that stands in the ring and was not written by the host: who wrote it, whether its
issue found it valid, for a proxy whether its posting failed and the partner's report (R123), whether a kill cancels it
(R135), the dimension it came across or was posted across, and for a posted packet whom its retirement is reported to, the
physical ranges of its source on the sender's die, and the source bytes that have come and which of them are uncorrectable. -/
structure RingNote where
  idx : Nat
  origin : PacketOrigin
  valid : Bool
  proxy : Bool
  failed : Bool
  report : Option DWord
  cancel : Bool
  job : Word
  dim : Nat
  src : List (Nat × Nat)
  data : List Byte
  bad : List Nat
  deriving DecidableEq, Repr

/-- Where a byte of an operand lies on this die: in home memory, with the key slot of its page where the packet's own check has
found it (R98), or in a slab's share. -/
inductive Place where
  | home (pa : Nat) (key : Option Nat)
  | plate (slab off : Nat)
  deriving DecidableEq, Repr

/-- How far a packet that a channel has read has come: read, its operands not yet checked; checked, and not begun; its source bytes
asked for from the sender's die (R123) or from the host (R126); its bytes handed on. -/
inductive PacketStage where
  | read | checked | pulling | host | done
  deriving DecidableEq, Repr

/-- A packet that has been read and not yet retired: its slot index, its image, its stage, STATUS, where its bytes come from and go to
on this die, and its flag, once its check has passed, and for a posted packet whom its retirement is reported to. -/
structure ActivePacket where
  idx : Nat
  pkt : Packet
  origin : PacketOrigin
  stage : PacketStage
  status : DWord
  src : List Place
  dst : List Place
  flagAt : Option Place
  job : Word
  dim : Nat
  deriving DecidableEq, Repr

/-- Queue (c, p) (R120): its header and ring lie in home memory. `sent` counts the packets that the partition's streams
have issued. -/
structure CopyQueue where
  sent : Nat
  issued : List IssuedPacket
  posted : List PostedIn
  notes : List RingNote
  readIdx : Nat
  active : List ActivePacket
  deriving DecidableEq, Repr

/-- An exchange operation in its slot (R290-R301): its copied descriptor, its signature, its pairs and progress. A pair
is a partner's node id with whether its READY matched, mismatched or is awaited. -/
inductive PairState where
  | awaited | matched | mismatched
  deriving DecidableEq, Repr

structure XPair where
  node : BitVec 14
  dim : Nat
  state : PairState
  deriving DecidableEq, Repr

structure XOp where
  kind : XKind
  ctr : PairCounter
  num : Nat
  sig : Signature
  snd : Nat
  rcv : Nat
  len : Nat
  slabs : BitVec 16
  ty : Fin 8
  op : Nat
  cal : Option Calibre
  cnum : Nat
  image : List Word
  sendTo : Option XPair
  recvFrom : Option XPair
  selfLow : Bool
  lowNode : BitVec 14
  toSend : List (Fin 16 × Nat)
  toRecv : List (Fin 16 × Nat)
  sendRows : List (Nat × Nat × List Byte)
  ownRows : List (Nat × Nat × List Byte)
  recvBytes : List (Nat × Nat × Option Byte)
  bar : Fin 64
  baren : Bool
  job : Word
  seq : Nat
  flags : Flags
  deriving DecidableEq, Repr

/-- The graph walk of a GRAPH entry (R338-R340): the entry's index and record, the visits to come (the node that leads
there, and the node), the tasks queued and not yet recorded with their node, whether the start node has been visited, the END node reached, and what
ended the walk early (CODE, TRAP, node). -/
structure GraphWalk where
  entryIdx : Nat
  grec : Nat
  mask : BitVec 14
  base : BitVec 14
  tstart : DWord
  visits : List (Nat × Nat)
  queued : List (Nat × Nat)
  flags : Flags
  points : Nat
  begun : Bool
  atEnd : Option Nat
  ended : Option (Nat × Nat × Nat)
  deriving DecidableEq, Repr

/-- The states of dispatch (R347). RUN is split by the stream's own status. -/
inductive DispState where
  | unbound | idle
  /-- checked; the walk met a poisoned table and is retried after the rebuild (R99) -/
  | translate
  /-- translated, waiting for the stream -/
  | ready
  | run
  /-- diverted to a stub, or about to be -/
  | drain
  | parked
  /-- aborted by a lazy fault, waiting for RETRY (R398) -/
  | held
  /-- the stream has stopped for an abort or kill; packets are still retiring (R369) -/
  | ending
  deriving DecidableEq, Repr

/-- The task-queue entry dispatch is working on; once its descriptor has passed the checks, the private copy of the task
and the snapshot of SEED, both of which a requeue keeps (R328, R346, R370). -/
structure Dispatching where
  idx : Nat
  descAddr : Nat
  mask : BitVec 14
  base : BitVec 14
  checked : Option (Task × DWord)
  deriving DecidableEq, Repr

/-- Tokens received across a dimension for one agreement (R180): kind, scope, task, count. -/
structure TokenCount where
  isTick : Bool
  scope : Scope
  dim : Nat
  seq : Nat
  count : Nat
  deriving DecidableEq, Repr

/-- Rendezvous flits received across a dimension for a task (R174). -/
structure RdzCount where
  dim : Nat
  seq : Nat
  count : Nat
  deriving DecidableEq, Repr

/-- What the die keeps per partition index (R341). -/
structure Partition where
  bound : Bool
  bind : BindRecord
  seed : DWord
  disp : DispState
  lastHeld : Nat
  routines : List (Fin 128 × List Word)
  comps : List (Fin 64 × List Word)
  compsNext : List (Fin 64 × List Word)
  xslots : Vector (Option XOp) 4
  pairing : List Ready
  arrivals : List Chunk
  heldBars : List (Fin 64)
  faultAddr : DWord
  exchTasks : List (Word × Nat)
  tqRead : Nat
  work : Option Dispatching
  graphs : List GraphWalk
  queues : Vector CopyQueue 8
  tokens : List TokenCount
  rdz : List RdzCount
  tickReleases : List (Nat × Nat)
  syncReleases : List (Nat × Nat)
  /-- entries whose fan-out has been looked at, in order (R333) -/
  fanned : Nat
  /-- entries retired beyond DONEID, which advances in order (R129, R332) -/
  tqRetired : List Nat
  /-- entries with an empty DOMAIN whose record waits for that of an earlier GRAPH entry, with the record's address (R336) -/
  empties : List (Nat × Nat)
  /-- fan-out copies that wait for room (R122) -/
  tqPosted : List (List DWord)
  /-- unbound once its task has ended (R341) -/
  unbinding : Bool
  deriving DecidableEq, Repr

/-! ### Repeater (R352-R361) -/

inductive RepState where
  | pending | valid
  deriving DecidableEq, Repr

/-- A Repeater entry (R354): per OUT window the pool frames, in units of 64 KiB, that hold its recorded bytes; and the
watched physical ranges. -/
structure RepEntry where
  tenant : BitVec 12
  key : List Byte
  state : RepState
  content : Bool
  flags : Flags
  points : Nat
  outs : List (Nat × List Nat)
  watch : List (Nat × Nat)
  deriving DecidableEq, Repr

/-- The counters of a tenant (R361). -/
structure RepCounters where
  tenant : BitVec 12
  counts : Vector Nat 6
  deriving DecidableEq, Repr

/-! ### Links (R268-R285) -/

/-- What a flit that this die sends carries (R270). -/
inductive OutCargo where
  | token (job : Word) (seq : Nat) (isTick : Bool) (sc : Scope)
  | rdz (job : Word) (seq : Nat)
  | ready (r : Ready)
  | chunk (c : Chunk)
  | posted (job : Word) (ch : Fin 8) (pkt : Packet) (src : List (Nat × Nat))
  | postResult (job : Word) (ch : Fin 8) (ok : Bool)
  | proxyRetire (job : Word) (ch : Fin 8) (status : DWord)
  | readRequest (job : Word) (ch : Fin 8) (ranges : List (Nat × Nat))
  | readData (job : Word) (ch : Fin 8) (bytes : List Byte) (bad : List Nat)
  | fanout (entry : List DWord) (job : Word)
  | idle
  | void (harm : Bool)
  | nak
  | credit (lane : Fin 4) (n : Nat)
  | fence (no : Nat)
  | ack (upTo : Nat) (fence : Option DWord)
  | gtime (sample : DWord)
  | train (lo hi : BitVec 16)
  | transit (ftype : Fin 16) (src dst : BitVec 14) (valid : Nat) (cargo : DWord) (payload : List Byte)
  deriving DecidableEq, Repr

/-- A flit of a pair: its dimension and PSEQ, what it carries, and whether the replay buffer holds an uncorrectable word of it
(R283). -/
structure OutFlit where
  dim : Nat
  pseq : Nat
  cargo : OutCargo
  bad : Bool := false
  deriving DecidableEq, Repr

/-- A flit as it leaves a port (R269): the header's fields, the payload bytes in use, and what the engine that sent it meant. -/
structure Flit where
  ftype : Fin 16
  lane : Fin 4
  dim : Nat
  src : BitVec 14
  dst : BitVec 14
  lseq : Word
  lack : Word
  pseq : Word
  valid : Nat
  word : DWord
  payload : List Byte
  what : OutCargo
  deriving DecidableEq, Repr

/-- How a port turns a request away: Unsupported Request, Completer Abort, or a poison response of CXL.mem (R388, R394, R395). -/
inductive HostRefusal where
  | unsupportedRequest | completerAbort | cxlPoison
  deriving DecidableEq, Repr

/-- What leaves the die and its package, newest first in `outbox`. -/
inductive OutMsg where
  | flit (port : Nat) (f : Flit)
  | pcieWrite (addr : Nat) (bytes : List Byte)
  | pcieRead (part : PartNo) (ch : Fin 8) (addr : Nat) (len : Nat)
  | hostReply (bytes : List Byte)
  | hostRefused (why : HostRefusal)
  | packLine (job : Word) (seq : Nat) (isTick : Bool)
  | spdm (answer : List (BitVec 512))
  | keyLoaded (slot : Fin 1024) (ok : Bool)
  | mbxEvent (value : DWord)
  | sysRequest (part : PartNo) (service : BitVec 20) (args : List DWord)
  deriving DecidableEq, Repr

/-- The link block of a dimension (R276), the corrected symbols since FECFIX last counted a thousand, and the link's sequence state (R269-R282): the last LSEQ sent and accepted, the
last PSEQ given out and accepted, the flits of the hop that are not acknowledged with their LSEQ and lane, those that wait for
a number on each lane, how many detour flits have gone out in a row while ordinary ones waited (R279); the flits of the pair that
are not acknowledged, and what the engines hold for the pair while that buffer is full (R271); the highest PSEQ that has set out on
the path in use, how often each flit of the hop has been replayed, by its LSEQ (R272); the number of the
last FENCE sent, whether the pair is returning from its detour and whether the fence of that return has been acknowledged (R281);
whether the link has died and not come up since, whether the pair has lost every path, and since when a flit of it has waited for one
(R282); the credits per lane, and those to be returned once the link is up again (R279), and the measured delay of the link (R285). -/
structure Link where
  state : Fin 8
  detv : Bool
  dete : BitVec 4
  deton : Bool
  ver : BitVec 16
  retrain : BitVec 16
  proto : BitVec 16
  replays : Word
  fecfix : Word
  fecRest : Nat
  lseqOut : Nat
  lseqIn : Nat
  pseqOut : Nat
  pseqIn : Nat
  hop : List (Nat × Fin 4 × OutFlit)
  waiting : List (Fin 4 × OutFlit)
  turn : Nat
  replay : List OutFlit
  held : List OutCargo
  sent : Nat
  tries : List (Nat × Nat)
  fenceNo : Nat
  returning : Bool
  fenceAcked : Bool
  fallen : Bool
  lost : Bool
  noPathSince : Option Nat
  credits : Vector Nat 4
  owed : Vector Nat 4
  delay : Nat
  deriving DecidableEq, Repr

/-- A laser block (R274), with the power history that R275 needs and whether its event has been raised. -/
structure Laser where
  bias : BitVec 16
  power : BitVec 16
  trend : BitVec 16
  state : Fin 8
  hours : Word
  eol : Word
  history : List (BitVec 16)
  raised : Bool
  deriving DecidableEq, Repr

/-! ### Package (R382-R397) -/

/-- An event of the mailbox (R385, R386). -/
structure MbxEvent where
  event : BitVec 16
  die : BitVec 4
  detail : Word
  deriving DecidableEq, Repr

/-- The running mailbox command (R385): code, tag, the arguments with which it was accepted, and its outcome: RESULT and the results
for MBXARG0-3. -/
structure MbxRun where
  code : BitVec 16
  tag : BitVec 16
  given : Vector DWord 4
  result : Nat
  args : List DWord
  deriving DecidableEq, Repr

/-- A loaded key slot (R97): owner and the 512-bit pair. -/
structure KeySlot where
  slot : Fin 1024
  tenant : BitVec 12
  key : BitVec 512
  deriving DecidableEq, Repr

/-- A staged line in a checkpoint image (R395): its byte mask, and the line with the landed bytes as its key slot encrypts it. -/
structure StagedImage where
  line : Nat
  tag : PartNo
  mask : List Nat
  data : List Byte
  bad : List Nat
  key : Option Nat
  deriving DecidableEq, Repr

/-- A checkpoint image as it left the die (R395): the destination, the header, and what this die put into it: the lines of home
memory as stored ciphertext, a line that is not listed being zeros under slot 0, with the slot that each was written under; and
the key pair that WKEY wraps (R396). -/
structure CheckpointImage where
  base : DWord
  header : List Byte
  home : List (Nat × List Byte)
  under : Cells 10
  shadow : Vector (Option Stream) 4
  plates : Cells 8
  staged : List StagedImage
  owners : List (Fin 1024 × BitVec 12)
  key0 : BitVec 512
  deriving DecidableEq, Repr

/-- What an escapement site does (R17). -/
inductive SiteRole where
  | lead | shadow | spare
  deriving DecidableEq, Repr

/-! ### The machine -/

/-- The die and its package. -/
structure State where
  -- the stream
  stream : Stream
  holder : Option PartNo
  shadow : Vector (Option Stream) 4
  -- memories
  mem : List Host.Cell
  plates : Cells 8
  abuf : Cells 8
  stash : List StashLine
  poison : List Nat
  platePoison : List Nat
  staged : List StagedLine
  heldAccs : List HeldAcc
  marks : List LandMark
  loose : List LooseByte
  accNo : Nat
  lineKeys : Cells 10
  landings : List WaitingLanding
  landingNo : Nat
  -- engines
  rowsWaiting : List RowItem
  rowsFull : List RowItem
  matrix : List MatrixEntry
  matrixCount : Nat
  atoms : List AtomUpdate
  atomInstr : Nat
  detSent : List DetUpdate
  detOutbox : List DetUpdate
  detBuf : List DetUpdate
  detLines : List (PartNo × Nat)
  served : Vector PartNo 8
  -- partitions and scheduling
  parts : Vector Partition 4
  slotTable : Vector BindRecord 16
  windows : Vector Bool 16
  gangReady : Option (PartNo × Nat)
  divertClock : Nat
  -- Repeater
  tenants : Vector TenantRow 16
  repEntries : List RepEntry
  repCounters : List RepCounters
  pools : List (BitVec 12 × List Nat)
  -- traps and reliability
  trapRecord : Vector DWord 6
  bucketCfg : Vector DWord 4
  buckets : Cells 64
  poisonTables : List (Nat × Nat)
  -- links
  links : Vector Link 14
  lasers : Vector Laser 72
  eolthr : BitVec 16
  trained : BitVec 14
  node : BitVec 14
  master : BitVec 14
  slabMap : List (Nat × Nat)
  badHalves : List Nat
  rebinds : List Nat
  -- the escapement sites, a swap that waits for the next context switch, the swaps logged (R17, R18), and the Regulator's own
  -- memory (R11)
  sites : Vector (Option SiteRole) 3
  siteSwap : Bool
  siteLog : Nat
  regSram : Cells 8
  -- time: GTIME, what is still to be slewed, since when the die has had no path to its parent, and whether it has said so (R285)
  gtime : DWord
  slew : Int
  slewCredit : Nat
  timeLost : Option Nat
  timeTold : Bool
  cycle : DWord
  -- package
  stage : Fin 8
  fail : BitVec 8
  mbxArgs : Vector DWord 4
  mbxBusy : Bool
  mbxOverrun : Bool
  mbxResult : BitVec 8
  mbxTag : BitVec 16
  mbxRun : Option MbxRun
  mbxCmd : Word
  mbxEvents : List MbxEvent
  mbxLost : BitVec 12
  chkptHold : Bool
  images : List CheckpointImage
  keys : List KeySlot
  loading : Option KeySlot
  session : Bool
  alarm : Fin 4
  cap : Bool
  powered : Bool
  digests : List (BitVec 512)
  fw : BitVec 512
  -- the model's own fields (log 1, 4)
  agenda : List Instr
  outbox : List OutMsg
  free : Nat
  deriving DecidableEq, Repr

/-- Why the machine stops: the spec names nothing that stops it, so there is no reason, and `step` raises none. At alarm level 2
every stream and engine stops, but the ports of the host go on answering and a power cycle leaves the level (R394). Safe. -/
inductive Fault where
  deriving DecidableEq, Repr

/-- Why an instruction has no meaning. -/
inductive Refusal where
  /-- Raised by `exec` for an instruction whose meaning has not been written, by its mnemonic. Safe. -/
  | notModelled (mnemonic : String)
  deriving DecidableEq, Repr

/-! ### Reset -/

/-- A cleared bind record (R341). -/
def BindRecord.cleared : BindRecord :=
  { valid := false, part := 0, checked := false, gang := false, prio := 0, tenant := 0, plates := 0, pbase := 0,
    version := 0x0100, job := 0, hpver := 0x0100, root := 0, cqhdr := 0, tqhdr := 0, graph := 0, nodes := 0, start := 0,
    period := 0, quantum := 0, drain := 0, seed := 0 }

/-- A cleared tenant row (R352). -/
def TenantRow.cleared : TenantRow :=
  { valid := false, tenant := 0, hslot := 0, recording := false, pbase := 0, plen := 0, pkey := 0 }

/-- The registers of R27 at dispatch, no task: State.reset uses the same values (log 2). -/
def Stream.cleared : Stream :=
  { s := Vector.replicate 32 0, v := [], p := Vector.replicate 8 0, acc := [], q := Vector.replicate 8 none,
    m := Vector.replicate 8 0, e := Vector.replicate 64 0, i := Vector.replicate 6 0,
    bars := Vector.replicate 64 ⟨0, 0⟩, ras := [], spilled := 0, latchV := Vector.replicate 2 none,
    latchC := Vector.replicate 2 none, pc := 0, pend := none, loops := [], subMask := 0, subBase := 0, tickno := 0,
    seedsnap := 0, flags := 0, det := false, pure := false, exch := false, rqsafe := false, iter := 0, domain := 0,
    taskid := 0, px := Vector.replicate 14 0, ps := 0, rdzSent := Vector.replicate 14 0, packTicks := 0,
    packSyncs := 0, subTicks := 0, cubeTicks := 0, subSyncs := 0, cubeSyncs := 0, wait := none, mwait := none, seg := none,
    stub := none, preempt := none, status := .idle, hold := none, abort := none, task := none }

/-- A queue with nothing in it. -/
def CopyQueue.cleared : CopyQueue := { sent := 0, issued := [], posted := [], notes := [], readIdx := 0, active := [] }

/-- An unbound partition. -/
def Partition.cleared : Partition :=
  { bound := false, bind := BindRecord.cleared, seed := 0, disp := .unbound, lastHeld := 0, routines := [],
    comps := [], compsNext := [], xslots := Vector.replicate 4 none, pairing := [], arrivals := [],
    heldBars := [], faultAddr := 0, exchTasks := [], tqRead := 0, work := none, graphs := [],
    queues := Vector.replicate 8 CopyQueue.cleared, tokens := [], rdz := [], tickReleases := [], syncReleases := [],
    fanned := 0, tqRetired := [], empties := [], tqPosted := [], unbinding := false }

/-- A link before training (R276); credits DESIGN CHOICE 0 (log 2). -/
def Link.cleared : Link :=
  { state := 0, detv := false, dete := 0, deton := false, ver := 0, retrain := 0, proto := 0, replays := 0, fecfix := 0, fecRest := 0,
    lseqOut := 0, lseqIn := 0, pseqOut := 0, pseqIn := 0, hop := [], waiting := [], turn := 0, replay := [],
    held := [], sent := 0, tries := [], fenceNo := 0, returning := false, fenceAcked := false, fallen := false, lost := false,
    noPathSince := none, credits := Vector.replicate 4 0, owed := Vector.replicate 4 0, delay := 0 }

/-- A laser at its first training (R274): BIAS, POWER and HOURS DESIGN CHOICE 0 (log 2); the spare is dark. -/
def Laser.cleared (spare : Bool) : Laser :=
  { bias := 0, power := 0, trend := 0, state := if spare then 0 else 1, hours := 0, eol := 0xFFFFFFFF, history := [],
    raised := false }

/-- The bucket configuration of R375. -/
def bucketReset : DWord := 0x0000_0F42_4010_0400#64

/-- The machine right after power-good (R388): start-up stage 1, nothing bound, nothing loaded; every register at the
value its rule gives, or at the one log 2 names. -/
def State.reset : State :=
  { stream := Stream.cleared, holder := none, shadow := Vector.replicate 4 none, mem := [], plates := [], abuf := [],
    stash := [], poison := [], platePoison := [], staged := [], heldAccs := [], marks := [], loose := [], accNo := 0, lineKeys := [], landings := [], landingNo := 0, rowsWaiting := [],
    rowsFull := [], matrix := [], matrixCount := 0, atoms := [], atomInstr := 0, detSent := [], detOutbox := [], detBuf := [],
    detLines := [], served := Vector.replicate 8 3, parts := Vector.replicate 4 Partition.cleared, slotTable := Vector.replicate 16 BindRecord.cleared,
    windows := Vector.replicate 16 false, gangReady := none, divertClock := 0,
    tenants := Vector.replicate 16 TenantRow.cleared, repEntries := [], repCounters := [], pools := [],
    trapRecord := Vector.replicate 6 0, bucketCfg := Vector.replicate 4 bucketReset, buckets := [], poisonTables := [],
    links := Vector.replicate 14 Link.cleared,
    lasers := Vector.ofFn fun k => Laser.cleared (decide (k.val % 9 = 8)), eolthr := 0xFF9C, trained := 0, node := 0,
    master := 0, slabMap := (List.range 16).map fun k => (2 * k, 2 * k + 1), badHalves := [], rebinds := [],
    sites := Vector.replicate 3 none, siteSwap := false, siteLog := 0, regSram := [],
    gtime := 0, slew := 0, slewCredit := 0, timeLost := none, timeTold := false, cycle := 0,
    stage := 1, fail := 0, mbxArgs := Vector.replicate 4 0, mbxBusy := false, mbxOverrun := false, mbxResult := 0,
    mbxTag := 0, mbxRun := none, mbxCmd := 0, mbxEvents := [], mbxLost := 0, chkptHold := false, images := [], keys := [],
    loading := none, session := false, alarm := 0, cap := false, powered := true, digests := [], fw := 0, agenda := [],
    outbox := [], free := 0 }

end Sys2Proof.Machine
end

