-- ==== Sys2Proof/Machine/Ops.lean ====
section
/-!
DEFINITION. The named operations over the state that the meanings share: registers, flags, the mailbox's events, taking a
trap and the Regulator's ways out of it, windows and extents, the walker, home memory with the stash and staging,
plates, barriers.
-/
namespace Sys2Proof.Machine

/-- What a meaning answers: every meaning of this model ends in a next state. -/
abbrev Out := Host.Outcome State Fault Refusal

/-! ### Registers (R27) -/

/-- Changes the live stream. -/
def State.onStream (f : Stream → Stream) (s : State) : State := { s with stream := f s.stream }

/-- A scalar register; s0 reads as zero (R27). -/
def Stream.sreg (x : Stream) (r : RegNo) : DWord := if r = 0 then 0 else x.s[r]
/-- A write to a register that the open segment watches marks the segment as having overwritten a live-in (R172). -/
def Stream.watch (hit : SegRecord → Bool) (x : Stream) : Stream :=
  { x with seg := x.seg.map fun g => { g with overwritten := g.overwritten || hit g } }
/-- Writes a scalar register; a write to s0 is discarded (R27). -/
def Stream.setS (r : RegNo) (v : DWord) (x : Stream) : Stream :=
  if r = 0 then x else Stream.watch (fun g => g.slive.getLsbD r.val) { x with s := x.s.set r v }
/-- Lane k of a vector register. -/
def Stream.lane (x : Stream) (r : RegNo) (k : Nat) : Word := x.v.get (1024 * r.val + k)
/-- Writes all 1,024 lanes of a vector register. -/
def Stream.setV (r : RegNo) (f : Nat → Word) (x : Stream) : Stream :=
  Stream.watch (fun g => g.vlive.getLsbD r.val) { x with v := x.v.blit (1024 * r.val) 1024 f }
/-- A predicate; p0 reads as all-true (R27). -/
def Stream.preg (x : Stream) (n : Fin 8) : PredReg := if n = 0 then BitVec.allOnes 1024 else x.p[n]
/-- Writes a predicate; the decoder refuses p0 as a destination (R43). -/
def Stream.setP (n : Fin 8) (v : PredReg) (x : Stream) : Stream :=
  if n = 0 then x else Stream.watch (fun g => g.plive.getLsbD n.val) { x with p := x.p.set n v }
/-- Writes a loop index. -/
def Stream.setI (n : Fin 6) (v : Word) (x : Stream) : Stream :=
  Stream.watch (fun g => g.ilive.getLsbD n.val) { x with i := x.i.set n v }
/-- An engine register. -/
def Stream.ereg (x : Stream) (n : Fin 64) : DWord := x.e[n]
def Stream.setE (n : Fin 64) (v : DWord) (x : Stream) : Stream := { x with e := x.e.set n v }
/-- The number an engine register holds in bits [lo+n-1:lo]. -/
def Stream.efield (x : Stream) (r : Fin 64) (lo n : Nat) : Nat := bits x.e[r].toNat lo n
/-- ORs flags in (R33). -/
def Stream.raise (f : Flags) (x : Stream) : Stream := { x with flags := x.flags ||| f }

def State.sreg (s : State) (r : RegNo) : DWord := s.stream.sreg r
def State.setS (r : RegNo) (v : DWord) : State → State := State.onStream (Stream.setS r v)
def State.lane (s : State) (r : RegNo) (k : Nat) : Word := s.stream.lane r k
def State.setV (r : RegNo) (f : Nat → Word) : State → State := State.onStream (Stream.setV r f)
def State.preg (s : State) (n : Fin 8) : PredReg := s.stream.preg n
def State.raise (f : Flags) : State → State := State.onStream (Stream.raise f)

/-! ### Partitions and contexts -/

/-- The partition whose stream this is. -/
def State.part (s : State) : PartNo := s.holder.getD 0
def State.pt (s : State) (p : PartNo) : Partition := s.parts[p]
/-- Changes partition p. -/
def State.onPart (p : PartNo) (f : Partition → Partition) (s : State) : State :=
  { s with parts := s.parts.set p (f s.parts[p]) }
/-- The context of a partition: the live one if it holds the stream, else the saved one (R368). -/
def State.ctx (s : State) (p : PartNo) : Option Stream :=
  if s.holder = some p then some s.stream else s.shadow[p]
/-- Changes the context of a partition, live or saved (R307, R135). -/
def State.onCtx (p : PartNo) (f : Stream → Stream) (s : State) : State :=
  if s.holder = some p then { s with stream := f s.stream }
  else { s with shadow := s.shadow.set p (s.shadow[p].map f) }
/-- The task of a partition. -/
def State.taskOf (s : State) (p : PartNo) : Option Task := (s.ctx p).bind (·.task)
/-- Bytes of a partition's plate share in each slab (R106). -/
def State.share (s : State) (p : PartNo) : Nat := (s.pt p).bind.plates * 65536

/-- A task with nothing in it: what the operations use where no task is loaded, so that every window is absent. -/
def Task.empty : Task :=
  { desc := [], routines := [], comps := [], ctl := 0, entry := 0, codeBase := 0, codeLen := 0, crec := 0, windows := [],
    extents := [], stubs := [], segs := [], args := [], entryId := 0, descAddr := 0, mask := 0, base := 0, tstart := 0,
    attempts := 0, points := 0, seq := 0, rep := .none, evicted := false }
def Stream.theTask (x : Stream) : Task := x.task.getD Task.empty
/-- Changes the task of a context. -/
def Stream.onTask (f : Task → Task) (x : Stream) : Stream := { x with task := x.task.map f }

/-- The window w of a task; absent when the table has none (R88). -/
def Task.win (t : Task) (w : Nat) : Window :=
  match t.windows[w]? with
  | some x => x
  | none => ⟨0, 0, .input, false, false⟩

/-- A present OUT window (R349); an absent entry's other fields are ignored (R330). -/
def Window.isOut (w : Window) : Bool := w.len != 0 && w.attr == .output

/-! ### Control registers that are views (R30-R32) -/

/-- ORDER: the set bits of MASK (R31). -/
def Stream.order (x : Stream) : Nat := popCount 14 x.subMask.toNat
/-- phys(j): the node-id dimension of logical dimension j (R286). -/
def physDim (mask : BitVec 14) (j : Nat) : Nat := (bitList 14 mask.toNat).getD j 0
/-- A node id compressed to the bits of MASK (R31). -/
def rankOf (mask : BitVec 14) (node : Nat) : Nat :=
  ((bitList 14 mask.toNat).mapIdx fun j d => if bit node d then 2 ^ j else 0).foldl (· + ·) 0
/-- The node id whose bits under MASK are a rank (R287). -/
def nodeOf (mask : BitVec 14) (base : Nat) (rank : Nat) : Nat :=
  base + ((bitList 14 mask.toNat).mapIdx fun j d => if bit rank j then 2 ^ d else 0).foldl (· + ·) 0
def State.rank (s : State) : Nat := rankOf s.stream.subMask s.node.toNat
/-- The die's number in its package, which the mailbox events name (R385): the low four node-id bits (R22). -/
def State.dieNo (s : State) : BitVec 4 := BitVec.ofNat 4 s.node.toNat

/-! ### Mailbox events (R385, R386) -/

/-- Appends an event; the 257th is dropped and counted in LOST, saturating. -/
def State.event (code : Nat) (detail : Nat) (s : State) : State :=
  if s.mbxEvents.length < 256 then
    { s with mbxEvents := s.mbxEvents ++ [⟨BitVec.ofNat 16 code, s.dieNo, BitVec.ofNat 32 detail⟩] }
  else { s with mbxLost := if s.mbxLost = BitVec.allOnes 12 then s.mbxLost else s.mbxLost + 1 }

/-- Appends a message that leaves the die. -/
def State.send (m : OutMsg) (s : State) : State := { s with outbox := m :: s.outbox }

/-! ### Traps (R41, R362-R364) -/

/-- Trap numbers (R362). -/
def trILLEGAL : Nat := 0x01
def trGROUPDEP : Nat := 0x02
def trCALIBRE : Nat := 0x03
def trNONUNIF : Nat := 0x04
def trWINDOW : Nat := 0x05
def trNONCANON : Nat := 0x06
def trALIGN : Nat := 0x07
def trPLATE : Nat := 0x08
def trCALLDEEP : Nat := 0x09
def trRETEMPTY : Nat := 0x0A
def trLOOPIDX : Nat := 0x0B
def trLOOPDEEP : Nat := 0x0C
def trQEND : Nat := 0x0D
def trMSHAPE : Nat := 0x0E
def trXSHAPE : Nat := 0x0F
def trXDIM : Nat := 0x10
def trDETATOM : Nat := 0x11
def trPURITY : Nat := 0x12
def trLANDREAD : Nat := 0x13
def trUNCORR : Nat := 0x14
def trUSER : Nat := 0x15
def trBREAK : Nat := 0x16
def trSTUB : Nat := 0x17

/-- What a trap reports beside the position (R364): number, slot, window, cause, element, word of a routine, INFO. -/
structure Trap where
  num : Nat
  slot : Nat
  win : Nat := 0
  cause : Nat := 0
  elem : Nat := 0
  word : Nat := 0
  info : Nat := 0
  deriving DecidableEq, Repr

/-- The address a pending target stands for (R29): a skip goes to END + 32 (R165), a DONE to ENTRY (R168). -/
def Stream.pendAddr (x : Stream) : Pending → CodeAddr
  | .branch t => t
  | .call t => t
  | .skip e => e + 32
  | .done => BitVec.ofNat 48 x.theTask.entry

/-- The six words of the trap record (R364). -/
def State.trapWords (t : Trap) (s : State) : Vector DWord 6 :=
  let x := s.stream
  let w0 := t.num % 256 + t.slot % 8 * 2 ^ 8 + t.win % 16 * 2 ^ 16 + t.cause % 16 * 2 ^ 20 + t.elem % 4096 * 2 ^ 24 +
    t.word % 16 * 2 ^ 36
  let w1 := x.pc.toNat + (if x.pend.isSome then 2 ^ 48 else 0) + x.loops.length % 8 * 2 ^ 49
  let w2 := match x.pend with
    | some p => (x.pendAddr p).toNat
    | none => 0
  #v[BitVec.ofNat 64 w0, BitVec.ofNat 64 w1, BitVec.ofNat 64 w2, BitVec.ofNat 64 t.info, s.gtime, x.taskid]

/-- Taking a trap (R363, R364): the record is written, the mailbox event raised, and the stream stops with the PC, the
pending target and the loop stack as they stand; nothing of the group has taken effect. -/
def State.takeTrap (t : Trap) (s : State) : State :=
  let s1 := { s with trapRecord := s.trapWords t, stream := { s.stream with status := .trapped } }
  s1.event 0x0008 (t.num + s.part.val * 2 ^ 8)

/-- The return from a trap that a debugger makes (R363): the trapping group issues again from the recorded position. -/
def State.resumeTrap (s : State) : State :=
  { s with stream := { s.stream with status := .running } }

/-- A group that cannot issue yet: nothing changes but the reason (R37, R181). -/
def State.holdFor (h : HoldReason) (s : State) : State := { s with stream := { s.stream with hold := some h } }

/-! ### Windows (R85-R89) -/

/-- The kinds of access a window admits (R89): loads and gathers, stores and scatters, atomics, and the hardware's own
accesses of a SPILL window (MSAVE, MREST). -/
inductive AccessKind where
  | load | store | atomic | save
  deriving DecidableEq, Repr

/-- R89, with MSAVE and MREST as R236 lists their windows. -/
def WinAttr.allows (a : WinAttr) (k : AccessKind) : Bool :=
  match a, k with
  | .input, .load => true
  | .output, .store => true
  | .inout, .load | .inout, .store | .inout, .atomic => true
  | .scratch, _ => true
  | .spill, .save => true
  | .land, .load => true
  | _, _ => false

/-- The virtual address of an offset, exactly (R85). -/
def Window.va (w : Window) (off : Int) : Int := (w.base : Int) + off

/-- The checks of R85 in order: none if the access passes; otherwise the trap (slot to be filled in by the caller). -/
def Task.checkAccess (t : Task) (w : Nat) (off : Int) (size : Nat) (k : AccessKind) : Option Trap :=
  let win := t.win w
  let va := win.va off
  let info := lowBits 64 va
  if va < 0 ∨ (2 ^ 48 : Nat) < va + size then some { num := trNONCANON, slot := 0, win := w, info := info }
  else if win.len = 0 then some { num := trWINDOW, slot := 0, win := w, cause := 2, info := info }
  else if va < win.base ∨ ((win.base + win.len : Nat) : Int) < va + size then
    some { num := trWINDOW, slot := 0, win := w, cause := 0, info := info }
  else if win.attr.allows k = false then some { num := trWINDOW, slot := 0, win := w, cause := 1, info := info }
  else none

/-- The physical address of a virtual one through the extents of a window, 16 for the code (R94). -/
def findExtent (l : List Extent) (w : Nat) (va : Nat) : Option Extent :=
  l.find? fun x => x.win == w && decide (x.vstart ≤ va / 65536) && decide (va / 65536 < x.vstart + x.len)
def Extent.pa (x : Extent) (va : Nat) : Nat := (x.pstart + (va / 65536 - x.vstart)) * 65536 + va % 65536
def Task.resolve (t : Task) (w : Nat) (va : Nat) : Option Nat := (findExtent t.extents w va).map (·.pa va)
/-- The physical address, 0 where no extent holds it (the callers check first). -/
def Task.phys (t : Task) (w : Nat) (va : Nat) : Nat := (t.resolve w va).getD 0

/-- The lowest byte of [va, va + size) that no extent holds. -/
def Task.missing (t : Task) (w va size : Nat) : Option Nat :=
  if size = 0 then none
  else
    let first := va / 65536
    let last := (va + size - 1) / 65536
    ((List.range (last - first + 1)).map fun k => max va ((first + k) * 65536)).find? fun a => (t.resolve w a).isNone

/-! ### Home memory: views of a byte (R310-R316) -/

/-- The main partition's byte. -/
def State.byte (s : State) (a : Nat) : Byte := Cells.get s.mem a

/-- The main partition's bytes of a line. -/
def State.lineBytes (s : State) (line : Nat) : List Byte := (List.range 128).map fun k => s.byte (line * 128 + k)

/-- The key slot under which a task maps a physical address. -/
def Task.keyAt (t : Task) (pa : Nat) : Option Nat :=
  (t.extents.find? fun x => decide (x.pstart ≤ pa / 65536) && decide (pa / 65536 < x.pstart + x.len)).map (·.key)
/-- The key slot under which an access fills a line: the one its own walk or its task's extents give, or else that of a
dispatched task which maps the page, or else the one HBM4E holds the line under (R98; log 18). -/
def State.keyFor (s : State) (p : Option PartNo) (key : Option Nat) (line : Nat) : Nat :=
  (key <|> ((p.bind s.taskOf).bind fun t => t.keyAt (line * 128)) <|>
    (List.finRange 4).findSome? fun q => (s.taskOf q).bind fun t => t.keyAt (line * 128)).getD
      (Cells.get s.lineKeys line).toNat

/-- The pair that a key slot holds, 0 where it is empty (R97). -/
def State.slotKey (s : State) (slot : Nat) : BitVec 512 := (s.keys.find? fun k => k.slot.val == slot).elim 0 (·.key)
/-- The slot under which HBM4E holds a line. -/
def State.lineSlot (s : State) (line : Nat) : Nat := (Cells.get s.lineKeys line).toNat

/-- Whether a fill under a slot deciphers a line with another key than it was written under (R97). A line under slot 0 reads as it
is under every slot: for what the scrub and the host wrote by physical address the spec gives no slot (log 18). -/
def State.wrongSlot (s : State) (line key : Nat) : Bool := s.lineSlot line != 0 && s.lineSlot line != key
/-- What a line reads as when it is filled under a slot. -/
def State.filledBytes (s : State) (line key : Nat) : List Byte :=
  if s.wrongSlot line key then
    openBytes (s.slotKey key) line (sealBytes (s.slotKey (s.lineSlot line)) line (s.lineBytes line))
  else s.lineBytes line
/-- What a read under a slot finds: the stash's byte, or what the fill would bring. -/
def State.readByte (s : State) (key a : Nat) : Byte :=
  if s.wrongSlot (a / 128) key && !(s.stash.any fun x => x.line == a / 128) then (s.filledBytes (a / 128) key).getD (a % 128) 0
  else s.byte a

/-- Whether a reader is not ordered after a write: another path of the same task that no FENCE has ordered after it, or a
reader outside the task (R312, R315). -/
def LooseByte.freeTo (l : LooseByte) (p : Option PartNo) (r : Path) : Bool :=
  if p = some l.part then l.freeFor.contains r else l.freeFor.contains .outside

/-- Whether a write of the task gives way, for a reader of the task, to an earlier one: on one of the bytes that form a single-copy
atomic write with it, the reader is ordered after an earlier write and not after this one (R312 step 1, R321). -/
def State.yields (s : State) (p : Option PartNo) (r : Path) (l : LooseByte) : Bool :=
  p == some l.part && l.path != .outside &&
    s.loose.any fun m => m.acc == l.acc && m.part == l.part &&
      s.loose.any fun k => k.addr == m.addr && decide (k.acc < m.acc) && k.part == l.part && k.path != .outside && !k.freeTo p r

/-- What a reader makes of the writes to a byte, newest first, above a value: a write it is not ordered after may be seen or
not; the choice is the free value of log 4, one for all bytes of a single-copy atomic write (R312, R315, R321). -/
def State.pick (s : State) (p : Option PartNo) (r : Path) : List LooseByte → Byte → Byte
  | [], v => v
  | l :: t, _ =>
    if l.freeTo p r && (s.yields p r l || Config.freeBit s.free l.acc) then s.pick p r t l.old else l.new

/-- The writes to a byte that stand in the ticks of the partitions, newest first. -/
def State.writesTo (s : State) (a : Nat) : List LooseByte := (s.loose.filter fun l => l.addr == a).reverse
/-- What a reader sees of a byte, under the key slot that its own walk has found, if it has. -/
def State.seenBy (s : State) (p : Option PartNo) (r : Path) (key : Option Nat) (a : Nat) : Byte :=
  s.pick p r (s.writesTo a) (s.readByte (s.keyFor p key (a / 128)) a)
/-- What a reader sees of a byte. -/
def State.seen (s : State) (p : Option PartNo) (r : Path) (a : Nat) : Byte := s.seenBy p r none a

/-- Whether an atomic of a task may find a byte without a write: one of its own matrix or copy paths that is not ordered before it
(R312). What an atomic unit made of the word, and every write of another agent, it finds (R262). -/
def LooseByte.atomView (p : PartNo) (l : LooseByte) : LooseByte :=
  if l.part = p ∧ l.path ≠ .outside ∧ l.sum = false then l else { l with freeFor := [] }
/-- The byte that an atomic of a partition's stream finds. -/
def State.atomByte (s : State) (p : PartNo) (a : Nat) : Byte :=
  s.pick (some p) .st ((s.writesTo a).map (LooseByte.atomView p)) (s.readByte (s.keyFor (some p) none (a / 128)) a)

/-- Takes the next free choice. -/
def State.draw (s : State) : State := { s with free := s.free + 1 }

/-- The staged byte of an address, if some staged line holds it under its mask (R103, R314). -/
def State.stagedByte (s : State) (a : Nat) : Option Byte :=
  (s.staged.filterMap fun l => if l.line = a / 128 then (l.bytes.find? fun b => b.1 == a % 128).map (·.2) else none).head?

/-- The merged view that other agents read (R314), under the key slot that their walk has found, if it has. -/
def State.mergedBy (s : State) (key : Option Nat) (a : Nat) : Byte :=
  match s.stagedByte a with
  | some b => b
  | none => s.seenBy none .outside key a
/-- The merged view of a byte. -/
def State.merged (s : State) (a : Nat) : Byte := s.mergedBy none a

def State.mergedBytes (s : State) (a n : Nat) : List Byte := (List.range n).map fun k => s.merged (a + k)
/-- Eight bytes in the merged view as a number: how the walker and the engines read their structures (R93, R314). -/
def State.word64 (s : State) (a : Nat) : Nat := ofBytes (s.mergedBytes a 8)

/-! ### The stash (R100-R105) -/

/-- The set of a line (R100). -/
def lineSet (line : Nat) : Nat := line % 16384
/-- The window of partition p's task in which a physical address lies, if any (R310). -/
def Task.winAt (t : Task) (pa : Nat) : Option Window :=
  (t.extents.find? fun x => decide (x.pstart ≤ pa / 65536) && decide (pa / 65536 < x.pstart + x.len) &&
    decide (x.win < 16) && decide ((t.win x.win).base ≤ (x.vstart + (pa / 65536 - x.pstart)) * 65536 + pa % 65536) &&
    decide ((x.vstart + (pa / 65536 - x.pstart)) * 65536 + pa % 65536 < (t.win x.win).base + (t.win x.win).len)).map
      fun x => t.win x.win
/-- Its attribute. -/
def Task.attrAt (t : Task) (pa : Nat) : Option WinAttr := (t.winAt pa).map (·.attr)
/-- The attributes of the windows that the two 64-byte halves of a line lie in (R88). -/
def Task.lineAttrs (t : Task) (line : Nat) : List WinAttr := [line * 128, line * 128 + 64].filterMap t.attrAt

/-- A dirty line is written back: HBM4E holds it encrypted under the slot that the line carries (R97, R98, R102). -/
def State.sealLine (l : StashLine) (s : State) : State :=
  if l.dirty then { s with lineKeys := s.lineKeys.set l.line (BitVec.ofNat 10 l.key) } else s

/-- Records the eviction of a line that held writes of tasks to INOUT windows (R370). -/
def State.noteEviction (l : StashLine) (s : State) : State :=
  l.inout.foldl (fun s p => s.onCtx p (Stream.onTask fun t => { t with evicted := true })) s

/-- A list of bytes as writes from an address on. -/
def listAt (a : Nat) (l : List Byte) : List (Nat × Byte) := l.mapIdx fun k b => (a + k, b)

/-- A line leaves the main partition: it is written back if it is dirty; a clean one leaves HBM4E's bytes standing. -/
def State.leave (l : StashLine) (s : State) : State :=
  if l.dirty then s.sealLine l
  else if l.image.isEmpty then s else { s with mem := Cells.setMany s.mem (listAt (l.line * 128) (l.image.take 128)) }

/-- Puts a line first in recency order; the least recently used line of a set with more than 12 leaves (R101). -/
def State.place (l : StashLine) (s : State) : State :=
  let rest := s.stash.filter fun x => x.line != l.line
  let mates := rest.filter fun x => lineSet x.line == lineSet l.line
  match if mates.length < 12 then none else mates.getLast? with
  | none => { s with stash := l :: rest }
  | some old => (({ s with stash := l :: rest.filter fun x => x.line != old.line }).leave old).noteEviction old

/-- A fill of an absent line under a slot; a line that HBM4E holds under another comes in deciphered with the wrong key (R97). -/
def State.fill (line key : Nat) (s : State) : State × StashLine :=
  if s.wrongSlot line key then
    ({ s with mem := Cells.setMany s.mem (listAt (line * 128) ((s.filledBytes line key).take 128)) },
      ⟨line, key, false, s.lineBytes line, [], []⟩)
  else (s, ⟨line, key, false, [], [], []⟩)

/-- A read of a line: it becomes the most recently used, and is filled if it was absent (R101). -/
def State.touch (line key : Nat) (s : State) : State :=
  match s.stash.find? fun x => x.line == line with
  | some l => s.place l
  | none => (s.fill line key).1.place (s.fill line key).2

/-- A prefetch fills an absent line, and does nothing to a present one (R101). -/
def State.prefetch (line key : Nat) (s : State) : State :=
  if s.stash.any fun x => x.line == line then s else s.touch line key

/-- Marks a line as about to be written, before the bytes change: a clean line keeps the HBM4E bytes; a line that is dirty
from landings is written back before a write of a task's own path (R104, R369). `inout` says that the task writes to an INOUT window
(R370). -/
def State.dirty (owner : Option PartNo) (inout : Bool) (line key : Nat) (s : State) : State :=
  let io := if inout then owner.toList else []
  match s.stash.find? fun x => x.line == line with
  | none => (s.fill line key).1.place ⟨line, key, true, s.lineBytes line, owner.toList, io⟩
  | some l =>
    if l.dirty && (owner.isNone || !l.owners.isEmpty) then
      s.place { l with owners := l.owners ++ owner.toList.filter (fun p => !l.owners.contains p),
                       inout := l.inout ++ io.filter fun p => !l.inout.contains p }
    else
      (s.sealLine l).place { l with
        dirty := true, image := if l.dirty || l.image.isEmpty then s.lineBytes line else l.image, owners := owner.toList,
        inout := io }

/-- The lines that a list of addresses touches, each once. -/
def linesOf (l : List Nat) : List Nat := (l.map (· / 128)).eraseDups

/-- An uncorrectable error stands in the 64-bit word of a byte (R105). -/
def State.poisoned (s : State) (a : Nat) : Bool := s.poison.contains (a / 8)
/-- The words of an aligned block. -/
def wordsOf (a n : Nat) : List Nat := (List.range (n / 8)).map fun k => a / 8 + k
/-- Poisons words. -/
def State.poisonWords (l : List Nat) (s : State) : State := { s with poison := (s.poison ++ l).eraseDups }

/-! ### Repeater watch ranges (R357) -/

def RepEntry.watches (e : RepEntry) (a : Nat) : Bool := e.watch.any fun w => decide (w.1 ≤ a) && decide (a < w.1 + w.2)

/-- Adds to a counter of a tenant, saturating at 64 bits (R361). -/
def State.count (tenant : BitVec 12) (k : Fin 6) (s : State) : State :=
  let bump (c : RepCounters) : RepCounters :=
    { c with counts := c.counts.set k (min (c.counts[k] + 1) (2 ^ 64 - 1)) }
  if s.repCounters.any fun c => c.tenant == tenant then
    { s with repCounters := s.repCounters.map fun c => if c.tenant = tenant then bump c else c }
  else { s with repCounters := bump ⟨tenant, Vector.replicate 6 0⟩ :: s.repCounters }

/-- Removes the entries that satisfy a test: a VALID one counts in INVALIDATED (4), a PENDING one in ABANDONED (3). -/
def State.dropEntries (f : RepEntry → Bool) (s : State) : State :=
  let gone := s.repEntries.filter f
  let s1 := { s with repEntries := s.repEntries.filter fun e => !f e }
  gone.foldl (fun s e => s.count e.tenant (if e.state = .valid then 4 else 3)) s1

/-- A write strikes every entry that watches one of its bytes (R357). -/
def State.strike (l : List Nat) (s : State) : State :=
  if s.repEntries.any fun e => l.any e.watches then s.dropEntries fun e => l.any e.watches else s

/-! ### Home memory: writes -/

/-- The readers that are not ordered after a write of a path (R312, R315); of the copy path's own reads only those of the same
queue are (R128). -/
def Path.others : Path → List Path
  | .st => [.mx, .cp, .outside]
  | .mx => [.st, .cp, .outside]
  | .cp => [.st, .mx, .cp, .outside]
  | .outside => []

/-- A write by a path settles, for that path, what it reads of the byte (R312 step 1). -/
def settlePath (p : PartNo) (path : Path) (l : List (Nat × Byte)) (loose : List LooseByte) : List LooseByte :=
  loose.map fun b =>
    if b.part = p ∧ l.any (fun ab => ab.1 == b.addr) then { b with freeFor := b.freeFor.filter (· != path) } else b

/-- What stands in the tick's list of writes for a write of other agents: an entry beside those of each partition whose task
has written the byte, whose paths may read the byte old or new (R310). -/
def foreignLoose (s : State) (unit : Nat) (l : List (Nat × Byte)) : List LooseByte :=
  (l.mapIdx fun k ab => (k, ab)).flatMap fun x =>
    (List.finRange 4).filterMap fun p =>
      if s.loose.any fun b => b.part == p && b.addr == x.2.1 then
        some ⟨p, .outside, x.2.1, s.byte x.2.1, x.2.2, s.accNo + x.1 / unit, none, [.st, .mx, .cp], false⟩
      else none

/-- The images of lines that tasks have dirtied take over what other agents write: no landed byte is lost when such a line is
discarded (R369). -/
def patchImages (l : List (Nat × Byte)) (stash : List StashLine) : List StashLine :=
  stash.map fun x =>
    if x.owners.isEmpty then x
    else { x with image := x.image.mapIdx fun k b => ((l.reverse.find? fun ab => ab.1 == x.line * 128 + k).map (·.2)).getD b }

/-- Whether one of some bytes of a line lies in an INOUT window of the task that writes them (R370). -/
def State.intoInout (s : State) (who : Option Writer) (l : List (Nat × Byte)) (line : Nat) : Bool :=
  who.any fun w => (s.taskOf w.part).any fun t => l.any fun ab => ab.1 / 128 == line && t.attrAt ab.1 == some .inout

/-- Writes bytes into the main partition in order; the last write of an address wins. `who` is the writer
for a write of a task's own path, none for any other agent; `unit` is how many bytes on end form one single-copy atomic write
(R321), `sum` whether an atomic unit made them of the word it found; `key` gives the key slot of a line where the access's own walk
found it. -/
def State.writeBytes (who : Option Writer) (unit : Nat) (key : Nat → Option Nat) (l : List (Nat × Byte)) (s : State)
    (sum : Bool := false) : State :=
  let p := who.map (·.part)
  let lines := linesOf (l.map (·.1))
  let s1 := lines.foldl (fun s k => s.dirty p (s.intoInout who l k) k (s.keyFor p (key k) k)) s
  let s2 := match who with
    | none => { s1 with loose := s1.loose ++ foreignLoose s1 unit l, stash := patchImages l s1.stash }
    | some w =>
      { s1 with loose := settlePath w.part w.path l s1.loose ++
          (l.mapIdx fun k (ab : Nat × Byte) =>
            LooseByte.mk w.part w.path ab.1 (s1.byte ab.1) ab.2 (s1.accNo + k / unit) w.pkt w.path.others sum) }
  { s2 with mem := Cells.setMany s2.mem l, accNo := s2.accNo + l.length, poison := s2.poison.filter fun k =>
    !((List.range 8).all fun j => l.any fun ab => ab.1 == k * 8 + j) }

/-- A write, which strikes the Repeater's entries (R357). -/
def State.writeMain (who : Option Writer) (unit : Nat) (key : Nat → Option Nat) (l : List (Nat × Byte)) (s : State) :
    State :=
  (s.writeBytes who unit key l).strike (l.map (·.1))

/-- A read by a partition's task touches its lines (R101). -/
def State.touchAll (p : PartNo) (l : List Nat) (s : State) : State :=
  (linesOf l).foldl (fun s k => s.touch k (s.keyFor (some p) none k)) s
/-- A read by any other agent. -/
def State.touchLines (l : List Nat) (s : State) : State :=
  (linesOf l).foldl (fun s k => s.touch k (s.keyFor none none k)) s

/-- The bytes of a number as writes from an address on. -/
def bytesAt (a n x : Nat) : List (Nat × Byte) := (toBytes n x).mapIdx fun k b => (a + k, b)
/-- No walk has found the key slot. -/
def noKey (_line : Nat) : Option Nat := none

/-! ### The walker (R91-R93, R99) -/

inductive WalkResult where
  | ok (pa : Nat) (key : Nat) (large : Bool)
  | notMapped | denied | key | poisoned
  deriving DecidableEq, Repr

/-- Whether a slot may serve a page (R93, R97): loaded, and owned by the tenant, or by the system for a page of the system
half (slot 0). -/
def State.keyOk (s : State) (tenant : BitVec 12) (slot va : Nat) : Bool :=
  if slot = 0 then decide (2 ^ 47 ≤ va) && s.keys.any fun k => k.slot.val == 0
  else s.keys.any fun k => k.slot.val == slot && k.tenant == tenant

/-- Whether a table is poisoned (R99). -/
def State.tablePoisoned (s : State) (a : Nat) : Bool := s.poisonTables.any fun t => t.1 == a

/-- Whether an entry of the root or of the directory is valid, its reserved bits zero (R92, R93). -/
def topOk (t : Nat) : Bool := bit t 0 && bits t 1 15 == 0 && bits t 36 28 == 0
def dirOk (d : Nat) : Bool := bit d 0 && bits d 2 3 == 0 && bits d 36 28 == 0 && (bit d 1 || bits d 5 5 == 0)

/-- One translation (R93). Tables whose uncorrectable entries were consumed are poisoned as a whole (R99). -/
def State.walk (s : State) (root : Nat) (tenant : BitVec 12) (va : Nat) (rd wr : Bool) : WalkResult :=
  if s.tablePoisoned root ∨ s.poisoned (root + 8 * bits va 36 12) then .poisoned
  else
    let t := s.word64 (root + 8 * bits va 36 12)
    if topOk t = false then .notMapped
    else
      let dirTab := bits t 16 20 * 2 ^ 16
      if s.tablePoisoned dirTab ∨ s.poisoned (dirTab + 8 * bits va 23 13) then .poisoned
      else
        let d := s.word64 (dirTab + 8 * bits va 23 13)
        let large := bit d 1
        if dirOk d = false then .notMapped
        else
          let leafTab := bits d 5 31 * 2 ^ 5
          let leafAt := leafTab + 8 * if large then bits va 21 2 else bits va 16 7
          if s.tablePoisoned leafTab ∨ s.poisoned leafAt then .poisoned
          else
            let l := s.word64 leafAt
            if bit l 0 = false ∨ bit l 3 ∨ bits l 14 2 ≠ 0 ∨ bits l 36 28 ≠ 0 ∨ (large ∧ bits l 16 5 ≠ 0) then .notMapped
            else if (rd ∧ bit l 1 = false) ∨ (wr ∧ bit l 2 = false) then .denied
            else if s.keyOk tenant (bits l 4 10) va = false then .key
            else .ok (bits l 16 20 * 2 ^ 16 + if large then bits va 0 21 else bits va 0 16) (bits l 4 10) large

/-- The entries that a walk reads, as far as it gets: the address of each, with its table and the table's size in bytes (R92, R93). -/
def State.walkTrace (s : State) (root va : Nat) : List (Nat × Nat × Nat) :=
  let a := root + 8 * bits va 36 12
  let stops (table at' : Nat) : Bool := s.tablePoisoned table || s.poisoned at'
  if stops root a || !topOk (s.word64 a) then [(a, root, 32768)]
  else
    let dirTab := bits (s.word64 a) 16 20 * 2 ^ 16
    let b := dirTab + 8 * bits va 23 13
    if stops dirTab b || !dirOk (s.word64 b) then [(a, root, 32768), (b, dirTab, 65536)]
    else
      let d := s.word64 b
      let leafTab := bits d 5 31 * 2 ^ 5
      [(a, root, 32768), (b, dirTab, 65536),
        (leafTab + 8 * (if bit d 1 then bits va 21 2 else bits va 16 7), leafTab, if bit d 1 then 32 else 1024)]

/-- The table whose entry a walk has just found uncorrectable, and its size in bytes (R92). -/
def State.badTable (s : State) (root va : Nat) : Option (Nat × Nat) :=
  ((s.walkTrace root va).find? fun e => s.poisoned e.1).map (·.2)

/-- An uncorrectable entry read by a walk poisons its whole table, and the host is told (R99). -/
def State.poisonTable (root va : Nat) (s : State) : State :=
  match s.badTable root va with
  | none => s
  | some t =>
    if s.tablePoisoned t.1 then s
    else { s with poisonTables := t :: s.poisonTables }.event 0x0003 (bits t.1 5 31)

/-- A walk through a partition's page table. -/
def State.walkPart (s : State) (p : PartNo) (va : Nat) (rd wr : Bool) : WalkResult :=
  s.walk (s.pt p).bind.root.toNat (s.pt p).bind.tenant va rd wr

/-- What a walk does beside its answer: it reads its entries through the stash (R93, R100), and a table it finds
uncorrectable is poisoned (R99). -/
def State.afterWalk (p : PartNo) (va : Nat) (s : State) : State :=
  let root := (s.pt p).bind.root.toNat
  (s.touchLines ((s.walkTrace root va).map (·.1))).poisonTable root va

/-- Where a byte of a partition's virtual space lies, if it is mapped for the access. An address with bits [63:48] set is
walked by its low 48 bits (log 77). -/
def State.vphys (s : State) (p : PartNo) (va : Nat) (rd wr : Bool) : Option Nat :=
  match s.walkPart p va rd wr with
  | .ok pa _ _ => some pa
  | _ => none
/-- The key slot of its page. -/
def State.vkey (s : State) (p : PartNo) (va : Nat) (rd wr : Bool) : Option Nat :=
  match s.walkPart p va rd wr with
  | .ok _ key _ => some key
  | _ => none

/-- A byte at a virtual address of a partition, in the merged view; none where its page cannot be read. -/
def State.vbyte (s : State) (p : PartNo) (va : Nat) : Option Byte :=
  match s.walkPart p va true false with
  | .ok pa key _ => some (s.mergedBy (some key) pa)
  | _ => none
/-- n bytes at a virtual address; none where a page cannot be read. -/
def State.vread (s : State) (p : PartNo) (va n : Nat) : Option (List Byte) := (List.range n).mapM fun k => s.vbyte p (va + k)
/-- Eight bytes at an aligned virtual address; none where the page cannot be read. -/
def State.vread64 (s : State) (p : PartNo) (va : Nat) : Option Nat :=
  match s.walkPart p va true false with
  | .ok pa key _ => some (ofBytes ((List.range 8).map fun k => s.mergedBy (some key) (pa + k)))
  | _ => none

/-- What reading n bytes of a structure at a virtual address does beside its answer: the walks of its lines, and the lines
themselves pass through the stash (R99-R101). -/
def State.visit (p : PartNo) (va n : Nat) (s : State) : State :=
  ((List.range ((va + n + 127) / 128 - va / 128)).map fun k => max va ((va / 128 + k) * 128)).foldl (fun s a =>
    let s1 := s.afterWalk p a
    match s1.walkPart p a true false with
    | .ok pa key _ => s1.touch (pa / 128) key
    | _ => s1) s

/-- Writes bytes at a virtual address of a partition (the device's own structures); does nothing where a page cannot be
written. -/
def State.vwrite (p : PartNo) (va : Nat) (l : List Byte) (s : State) : State :=
  match (List.range l.length).mapM fun k => (s.vphys p (va + k) false true).map fun pa => (pa, s.vkey p (va + k) false true) with
  | none => s.afterWalk p va
  | some pas =>
    (s.afterWalk p va).writeMain none 8 (fun line => (pas.find? fun x => x.1 / 128 == line).bind (·.2)) ((pas.map (·.1)).zip l)

def State.vput64 (p : PartNo) (va x : Nat) (s : State) : State := s.vwrite p va (toBytes 8 x)

/-! ### Extents that a first touch adds (R94, R95) -/

/-- The rights a window needs of its pages (R93). -/
def WinAttr.needs : WinAttr → Bool × Bool
  | .input | .land => (true, false)
  | .output => (false, true)
  | .inout | .scratch | .spill => (true, true)

/-- The order in which the table is kept (R94): windows rising, then the code; virtual starts rising. -/
def Extent.before (a b : Extent) : Bool := decide (a.win < b.win) || (a.win == b.win && decide (a.vstart < b.vstart))
def insertExtent (x : Extent) : List Extent → List Extent
  | [] => [x]
  | y :: t => if x.before y then x :: y :: t else y :: insertExtent x t

/-- Two extents that stand side by side in virtual and in physical address under one key slot (R94). -/
def Extent.joins (a b : Extent) : Bool :=
  a.win == b.win && a.key == b.key && a.vstart + a.len == b.vstart && a.pstart + a.len == b.pstart
/-- Joins neighbours of a kept table. -/
def joinExtents : List Extent → List Extent
  | [] => []
  | x :: t =>
    match joinExtents t with
    | [] => [x]
    | y :: u => if x.joins y then { x with len := x.len + y.len } :: u else x :: y :: u

/-- The page that holds an address: 64 KiB, or 2 MiB under a large leaf (R91). -/
def pageExtent (win va pa key : Nat) (large : Bool) : Extent :=
  if large then ⟨win, va / 2097152 * 32, pa / 2097152 * 32, 32, key⟩ else ⟨win, va / 65536, pa / 65536, 1, key⟩
/-- The table with one more page; none when it would need more than 256 entries. -/
def addPage (l : List Extent) (win va pa key : Nat) (large : Bool) : Option (List Extent) :=
  let r := joinExtents (insertExtent (pageExtent win va pa key large) l)
  if r.length ≤ 256 then some r else none

/-! ### Plates (R106, R107) -/

/-- The cell of byte o of a partition's share in a slab (R106): the share's rows follow one another through the banks. -/
def State.plateCell (s : State) (p : PartNo) (slab o : Nat) : Nat :=
  slab * 4194304 + (s.pt p).bind.pbase * 65536 + o
def State.plate (s : State) (p : PartNo) (slab o : Nat) : Byte := s.plates.get (s.plateCell p slab o)
def State.plateBytes (s : State) (p : PartNo) (slab o n : Nat) : List Byte :=
  (List.range n).map fun k => s.plate p slab (o + k)
/-- A little-endian number of n bytes in a share. -/
def State.plateNum (s : State) (p : PartNo) (slab o n : Nat) : Nat := ofBytes (s.plateBytes p slab o n)
/-- Whether n bytes of a slab's share hold a 64-bit word with an uncorrectable error (R105). -/
def State.platesBad (s : State) (p : PartNo) (slab o n : Nat) : Bool :=
  decide (0 < n) && s.platePoison.any fun w => decide (s.plateCell p slab o < 8 * w + 8) && decide (8 * w < s.plateCell p slab o + n)
/-- A word written over as a whole is sound again. -/
def State.mendPlates (written : Nat → Bool) (s : State) : State :=
  { s with platePoison := s.platePoison.filter fun w => !((List.range 8).all fun j => written (8 * w + j)) }
/-- Writes bytes of shares, (slab, offset, byte), in order. -/
def State.putPlates (p : PartNo) (l : List (Nat × Nat × Byte)) (s : State) : State :=
  let cells := l.map fun x => (s.plateCell p x.1 x.2.1, x.2.2)
  { s with plates := s.plates.setMany cells }.mendPlates fun c => cells.any fun x => x.1 == c
/-- Writes a run of bytes of one slab's share. -/
def State.putPlateRun (p : PartNo) (slab o : Nat) (l : List Byte) (s : State) : State :=
  let c := s.plateCell p slab o
  { s with plates := s.plates.blit c l.length fun k => l.getD k 0 }.mendPlates fun x => decide (c ≤ x) && decide (x < c + l.length)
/-- Changes n bytes from an offset on in every slab's share. -/
def State.putEverySlab (p : PartNo) (o n : Nat) (f : Cells 8 → Nat → Cells 8) (s : State) : State :=
  { s with plates := (List.range 16).foldl (fun c slab => f c (s.plateCell p slab o)) s.plates }.mendPlates fun x =>
    (List.range 16).any fun slab => decide (s.plateCell p slab o ≤ x) && decide (x < s.plateCell p slab o + n)
/-- Whether [o, o + n) lies in the share (R107). -/
def State.inShare (s : State) (p : PartNo) (o : Int) (n : Nat) : Bool := decide (0 ≤ o) && decide (o + n ≤ s.share p)

/-! ### Barriers (R175) -/

/-- n arrivals at a barrier; COUNT saturates. -/
def Stream.arrive (b : Fin 64) (n : Nat) (x : Stream) : Stream :=
  { x with bars := x.bars.set b { x.bars[b] with count := BitVec.ofNat 16 (min (x.bars[b].count.toNat + n) 0xFFFF) } }

/-- An engine's arrival for a partition: applied at once, or held while the partition is parked (R135, R307). -/
def State.arriveAt (p : PartNo) (b : Fin 64) (s : State) : State :=
  if s.holder = some p then s.onStream (Stream.arrive b 1)
  else s.onPart p fun t => { t with heldBars := t.heldBars ++ [b] }

/-! ### Segments (R172, R173, R371) -/

/-- Closes the open segment (R173). -/
def Stream.closeSeg (x : Stream) : Stream := { x with seg := none }
/-- Marks the open segment unrewindable (R371). -/
def Stream.spoil (x : Stream) : Stream := { x with seg := x.seg.map fun g => { g with overwritten := true } }
def State.spoil : State → State := State.onStream Stream.spoil
def State.closeSeg : State → State := State.onStream Stream.closeSeg

/-! ### Scratch lists -/

/-- Runs a list of updates in order. -/
def runAll (l : List (State → State)) (s : State) : State := l.foldl (fun s f => f s) s

/-- The first trap of a list of checks. -/
def firstTrap (l : List (Option Trap)) : Option Trap := l.findSome? id

end Sys2Proof.Machine
end

