-- ==== Sys2Proof/Machine/Fetch.lean ====
section
/-!
DEFINITION. Fetch: the words of the bundle at the PC, and the group that issues next (R29, R34-R36, R40).
-/
namespace Sys2Proof.Machine

/-- The bundle and the slot that a PC names (R29). -/
def pcSlot (pc : CodeAddr) : Nat := bits pc.toNat 2 3
def pcBundle (pc : CodeAddr) : Nat := pc.toNat / 32 * 32

/-- The eight words of the bundle at a virtual address, if it lies in the task's code extent (R40): the bytes of the main
partition through the code's extents. -/
def State.bundle (s : State) (va : Nat) : Option (List Nat) :=
  let t := s.stream.theTask
  if t.codeBase ≤ va ∧ va + 32 ≤ t.codeBase + t.codeLen then
    match t.resolve 16 va with
    | none => none
    | some pa => some ((List.range 8).map fun k => ofBytes ((List.range 4).map fun j => s.byte (pa + 4 * k + j)))
  else none

/-- The last slot of the group that starts in slot k: the first whose S bit is set, or slot 7 (R36). -/
def groupEnd (ws : List Nat) : Nat → Nat → Nat
  | 0, k => k
  | fuel + 1, k => if 7 ≤ k then 7 else if stopBit (ws.getD k 0) then k else groupEnd ws fuel (k + 1)

/-- The slots and words of the group that starts in slot k. -/
def groupWords (ws : List Nat) (k : Nat) : List (Nat × Nat) :=
  ((List.range (groupEnd ws 8 k + 1)).drop k).map fun j => (j, ws.getD j 0)

/-- Whether a word is a NOP (R35). -/
def isNop (w : Nat) : Bool := field w 0 31 == 0

end Sys2Proof.Machine
end

