-- ==== Sys2Proof/Machine/Flags.lean ====
section
/-!
DEFINITION. The flag computations of the scalar and vector instructions beyond those of Float (R81, R154, R188): which
operations raise NV on which NaN, and how a result and its flags reach the state.
-/
namespace Sys2Proof.Machine

/-- FEQ and the equality compares: NV only for a signalling NaN (R154, R189). -/
def eqFlags (a b : FVal) : Flags := a.snan ||| b.snan
/-- FLT, FLE and the ordered compares: NV for any NaN (R154, R189). -/
def ltFlags (a b : FVal) : Flags := flagIf (a.isNan || b.isNan) flNV

/-- The OR of a list of flags (R81). -/
def orFlags (l : List Flags) : Flags := l.foldl (· ||| ·) flNone

/-- Absolute value and negation of a floating code: a NaN gives the canonical NaN, a signalling one NV (R154, R185). -/
def signOp (f : Fmt) (g : Nat → Nat) (c : Nat) : Nat × Flags :=
  match f.decode c with
  | .nan sig => (f.canon, flagIf sig flNV)
  | _ => (g c, flNone)
def absCode (f : Fmt) (c : Nat) : Nat := c % 2 ^ (f.width - 1)
def negCode (f : Fmt) (c : Nat) : Nat := if bit c (f.width - 1) then c - 2 ^ (f.width - 1) else c + 2 ^ (f.width - 1)

/-- The class of an FP32 code, one bit of ten (R154). -/
def classOf (c : Nat) : Nat :=
  match fmtF32.decode c with
  | .nan sig => if sig then 2 ^ 8 else 2 ^ 9
  | .inf neg => if neg then 2 ^ 0 else 2 ^ 7
  | .fin neg m _ =>
    if m = 0 then (if neg then 2 ^ 3 else 2 ^ 4)
    else if m < 2 ^ 23 then (if neg then 2 ^ 2 else 2 ^ 5)
    else (if neg then 2 ^ 1 else 2 ^ 6)

end Sys2Proof.Machine
end

