-- ==== Sys2Proof/Machine/Operands.lean ====
section
/-!
DEFINITION. Operand forms: elements of a lane (R44, R71, R182), integer elements (R68, R69, R186), the sources of V3 and C
words with their hold latches (R47, R48), and the writing of active lanes (R183).
-/
namespace Sys2Proof

/-- The width in bits of an element (R44). -/
def ElemType.bits : ElemType → Nat
  | .f32 | .i32 | .n32 => 32
  | .bf16 | .f16 | .i16 => 16
  | .i8 | .n8 => 8
/-- Elements of a lane (R182). -/
def ElemType.perLane (t : ElemType) : Nat := 32 / t.bits
/-- Whether integer elements are signed (R68). -/
def ElemType.signed : ElemType → Bool
  | .i32 | .i16 | .i8 => true
  | _ => false

end Sys2Proof

namespace Sys2Proof.Machine

/-- The floating-point format of a type, if it is one. -/
def elemFmt : ElemType → Option Fmt
  | .f32 => some fmtF32
  | .bf16 => some fmtBf16
  | .f16 => some fmtF16
  | _ => none

/-! ### Elements of a lane -/

/-- Element j of a lane for elements of w bits. -/
def elemAt (w : Nat) (x : Word) (j : Nat) : Nat := bits x.toNat (w * j) w
/-- The lane whose elements are given, element 0 lowest. -/
def packElems (w : Nat) : List Nat → Nat
  | [] => 0
  | x :: t => x % 2 ^ w + 2 ^ w * packElems w t
/-- A lane computed element by element, with the OR of the flags (R81). -/
def mapElems (t : ElemType) (f : Nat → Nat × Flags) : Word × Flags :=
  let r := (List.range t.perLane).map f
  (BitVec.ofNat 32 (packElems t.bits (r.map (·.1))), orFlags (r.map (·.2)))

/-! ### Integer elements -/

/-- The number an integer element holds. -/
def elemInt (t : ElemType) (x : Nat) : Int := if t.signed then signedOf t.bits x else (x % 2 ^ t.bits : Nat)
/-- The range of an integer type (R68). -/
def intLo (t : ElemType) : Int := if t.signed then -(2 ^ (t.bits - 1) : Nat) else 0
def intHi (t : ElemType) : Int := if t.signed then (2 ^ (t.bits - 1) : Nat) - 1 else (2 ^ t.bits : Nat) - 1
/-- An exact integer result: wrapped, or clamped with SAT (R186). -/
def intResult (t : ElemType) (sat : Bool) (x : Int) : Nat × Flags :=
  if sat then
    let r := clampInt (intLo t) (intHi t) x
    (lowBits t.bits r.1, r.2)
  else (lowBits t.bits x, flNone)
/-- Integer division (R69, R186). -/
def intDiv (t : ElemType) (a b : Nat) : Nat :=
  if b = 0 then 2 ^ t.bits - 1 else lowBits t.bits ((elemInt t a).tdiv (elemInt t b))

/-! ### Vector sources and the latches of slots 2 and 3 -/

/-- The slot of a V word. -/
def vSlot (pipe1 : Bool) : Nat := if pipe1 then 3 else 2
def pipeNo (pipe1 : Bool) : Fin 2 := if pipe1 then 1 else 0
/-- Whether a hold control takes its operand from an empty latch. -/
def starved {α : Type} (h : Hold) (latch : Option α) : Bool :=
  match h with
  | .held _ => latch.isNone
  | _ => false

/-- A vector source: the register, or the latch when the position is held (R47). -/
def State.srcV (s : State) (pipe1 : Bool) (h : Hold) (pos : Bool) (r : RegNo) (k : Nat) : Word :=
  if h = .held pos then Cells.get ((s.stream.latchV[pipeNo pipe1]).getD []) k else s.lane r k
/-- The copy of a latching word (R48): va at position 0, vb at position 1. -/
def State.latchVec (pipe1 : Bool) (h : Hold) (va vb : RegNo) (s : State) : State :=
  match h with
  | .latch pos =>
    let c := Cells.block 0 1024 (s.lane (if pos then vb else va))
    s.onStream fun x => { x with latchV := x.latchV.set (pipeNo pipe1) (some c) }
  | _ => s
/-- A V word: ILLEGAL where it needs an empty latch (R47), otherwise its effect, then its latching. -/
def State.vword (pipe1 : Bool) (h : Hold) (va vb : RegNo) (f : State → State) (s : State) : State :=
  if starved h s.stream.latchV[pipeNo pipe1] then s.takeTrap { num := trILLEGAL, slot := vSlot pipe1 }
  else
    let c := s.latchVec pipe1 h va vb
    f s |>.onStream fun x => { x with latchV := c.stream.latchV }

/-- Writes the active lanes of vd with the OR of their flags (R81, R183). -/
def State.putLanes (vd : RegNo) (pg : Fin 8) (res : Nat → Word × Flags) (s : State) : State :=
  let g := s.preg pg
  (s.setV vd fun k => if g.getLsbD k then (res k).1 else s.lane vd k).raise
    (orFlags ((List.range 1024).map fun k => if g.getLsbD k then (res k).2 else flNone))
/-- Lane values without flags. -/
def State.putWords (vd : RegNo) (pg : Fin 8) (res : Nat → Word) (s : State) : State :=
  s.setV vd fun k => if (s.preg pg).getLsbD k then res k else s.lane vd k
/-- A predicate from its bits. -/
def predOf (f : Nat → Bool) : PredReg :=
  BitVec.ofNat 1024 (((List.range 1024).reverse).foldl (fun n k => 2 * n + if f k then 1 else 0) 0)
def State.setP (n : Fin 8) (v : PredReg) : State → State := State.onStream (Stream.setP n v)

/-! ### Scalar sources of C words and the latches of slots 6 and 7 -/

/-- The latch of a C slot: false slot 6, true slot 7. -/
def latchNo (slot7 : Bool) : Fin 2 := if slot7 then 1 else 0
def cSlot (slot7 : Bool) : Nat := if slot7 then 7 else 6
/-- A scalar source of a C word. -/
def State.srcC (s : State) (slot7 : Bool) (h : Hold) (pos : Bool) (r : RegNo) : DWord :=
  if h = .held pos then (s.stream.latchC[latchNo slot7]).getD 0 else s.sreg r
/-- The copy of a latching C word. -/
def State.latchScalar (slot7 : Bool) (h : Hold) (sA sB : RegNo) (s : State) : State :=
  match h with
  | .latch pos =>
    let v := s.sreg (if pos then sB else sA)
    s.onStream fun x => { x with latchC := x.latchC.set (latchNo slot7) (some v) }
  | _ => s
/-- Whether a state has stopped its group: trapped, or holding. -/
def State.blocked (s : State) : Bool := s.stream.status == .trapped || s.stream.hold.isSome
/-- A C word: ILLEGAL where it needs an empty latch, otherwise its effect on the two operands, then its latching if the
group goes on. -/
def State.cword (slot7 : Bool) (h : Hold) (sA sB : RegNo) (f : DWord → DWord → State → State) (s : State) : State :=
  if starved h s.stream.latchC[latchNo slot7] then s.takeTrap { num := trILLEGAL, slot := cSlot slot7 }
  else
    let c := s.latchScalar slot7 h sA sB
    let r := f (s.srcC slot7 h false sA) (s.srcC slot7 h true sB) s
    if r.blocked then r else r.onStream fun x => { x with latchC := c.stream.latchC }

/-! ### Elements of a vector access (R86, R182) -/

/-- The elements of the active lanes, lowest first, for `per` elements in a lane. -/
def activeElems (g : PredReg) (per : Nat) : List Nat := (List.range (1024 * per)).filter fun e => g.getLsbD (e / per)
/-- Element e of a vector register. -/
def State.elem (s : State) (r : RegNo) (t : ElemType) (e : Nat) : Nat :=
  elemAt t.bits (s.lane r (e / t.perLane)) (e % t.perLane)
/-- A scalar as a signed offset (R85, R247). -/
def State.offset (s : State) (r : RegNo) : Int := (s.sreg r).toInt

/-! ### Packed arrays in a run of bytes (R71) -/

/-- Element n of width w of a little-endian bit string held as a number. -/
def packedAt (str w n : Nat) : Nat := bits str (w * n) w

/-! ### Pseudo-random words (R196, R210) -/

def mix64 (z : DWord) : DWord :=
  let a := (z ^^^ (z >>> 30)) * 0xBF58_476D_1CE4_E5B9#64
  let b := (a ^^^ (a >>> 27)) * 0x94D0_49BB_1331_11EB#64
  b ^^^ (b >>> 31)
def Stream.rngword (x : Stream) (c : DWord) : DWord := mix64 (x.seedsnap ^^^ mix64 c)
/-- The counter that the stochastic conversion at code address a draws from (R196). -/
def Stream.drawBase (x : Stream) (a : DWord) : DWord :=
  let two (k j : Fin 6) : DWord := x.i[k].zeroExtend 64 ||| (x.i[j].zeroExtend 64 <<< 32)
  let h := mix64 (a ^^^ (x.tickno <<< 48))
  let h := mix64 (h ^^^ x.iter)
  let h := mix64 (h ^^^ two 0 1)
  let h := mix64 (h ^^^ two 2 3)
  mix64 (h ^^^ two 4 5)
/-- r[k] of a word at slot n of the bundle at the PC. -/
def State.draw16 (s : State) (slot k : Nat) : Nat :=
  let a := BitVec.ofNat 64 (s.stream.pc.toNat / 32 * 32 + 4 * slot)
  (s.stream.rngword (s.stream.drawBase a ^^^ BitVec.ofNat 64 k)).toNat % 65536

end Sys2Proof.Machine
end

