-- ==== Sys2Proof/Machine/Dot.lean ====
section
/-!
DEFINITION. The dot product of a cell under a calibre and the reading of operands (R215, R220-R224, R229).
-/
namespace Sys2Proof.Machine

/-! ### Calibres (R222) -/

/-- The group; none for the whole instruction. -/
def calGroup : Calibre → Option Nat
  | .c1 | .c2 => some 16
  | .c3 | .c5 => none
  | .c4 => some 1
  | .c6 => some 64
/-- The alignment; none for exact. -/
def calAlign : Calibre → Option Nat
  | .c1 => some 26
  | _ => none
/-- Whether subnormals are flushed. -/
def calFtz : Calibre → Bool
  | .c1 | .c5 => true
  | _ => false

/-- The format of an accumulation view (R215). -/
def accFmt : AccFmt → Fmt
  | .f32 => fmtF32
  | .bf16 => fmtBf16
  | .f16 => fmtF16

/-! ### One cell (R224) -/

/-- Truncation of the finite terms toward zero at W bits below the largest (R224). -/
def truncTerms (w : Nat) (l : List FVal) : List FVal :=
  match l.filterMap FVal.log2 with
  | [] => l
  | t :: ts =>
    let q := ts.foldl max t - w
    l.map fun v =>
      match v with
      | .fin neg m e => if e < q then .fin neg (m / 2 ^ (q - e).toNat) q else v
      | _ => v

/-- A rounded cell under FTZ. -/
def flushCell (f : Fmt) (ftz : Bool) (r : Nat × Flags) : Nat × Flags :=
  if ftz && f.isSub r.1 then (f.zeroLike r.1, r.2 ||| flUF ||| flNX) else r

/-- The groups of a dot product from group g on: products carry their position k. -/
def dotGroups (cal : Calibre) (f : Fmt) (size : Nat) : Nat → Nat → List (Nat × FVal) → Nat × Flags → Nat × Flags
  | 0, _, _, c => c
  | n + 1, g, ps, c =>
    let mine := ps.takeWhile fun p => decide (p.1 < (g + 1) * size)
    let rest := ps.drop mine.length
    let terms := f.decode c.1 :: mine.map (·.2)
    let t := match calAlign cal with
      | some w => truncTerms w terms
      | none => terms
    let r := flushCell f (calFtz cal) (f.sumOf t)
    dotGroups cal f size n (g + 1) rest (r.1, c.2 ||| r.2)

/-- dot(c, a, b, K, cal, F): the products present, by rising position, with the flags of R223. -/
def dot (cal : Calibre) (f : Fmt) (k : Nat) (c : Nat) (ps : List (Nat × FVal × Flags)) : Nat × Flags :=
  let size := match calGroup cal with
    | some g => g
    | none => max k 1
  let c0 := if calFtz cal && f.isSub c then f.zeroLike c else c
  dotGroups cal f size ((k + size - 1) / size) 0 (ps.map fun p => (p.1, p.2.1)) (c0, orFlags (ps.map (·.2.2)))

/-! ### Element formats (R220) -/

/-- The float format of a code, if it is one. -/
def mFmt : Nat → Option Fmt
  | 0 => some fmtBf16
  | 1 => some fmtF16
  | 2 => some fmtE4m3
  | 3 => some fmtE5m2
  | 4 => some fmtE2m3
  | 5 => some fmtE3m2
  | 6 => some fmtE2m1
  | _ => none
/-- Class in bits; 0 for I8 and T2. -/
def mClass : Nat → Nat
  | 0 | 1 => 16
  | 2 | 3 => 8
  | 4 | 5 => 6
  | 6 => 4
  | _ => 0
/-- k0. -/
def mStep : Nat → Nat
  | 0 | 1 => 16
  | 6 => 64
  | 7 | 8 => 128
  | _ => 32
/-- Row slot in bytes. -/
def mSlot (fm : Nat) : Nat := if fm = 7 then 128 else 32
/-- Element width in bits. -/
def mBits : Nat → Nat
  | 0 | 1 => 16
  | 4 | 5 => 6
  | 6 => 4
  | 8 => 2
  | _ => 8

/-- The value of an element with its MX scale, if it has one (R65, R67, R68, R70, R221, R224). -/
def mElem (fm : Nat) (ftz : Bool) (scale : Option Nat) (code : Nat) : FVal × Flags :=
  match mFmt fm with
  | some f =>
    if ftz && f.isSub code then (f.decode (f.zeroLike code), flNone)
    else
      match scale with
      | none => (f.decode code, flNone)
      | some sc =>
        if sc = 0xFF then (.nan false, flNone)
        else
          match f.decode code with
          | .fin neg m e => (.fin neg m (e + (sc : Int) - 127), flNone)
          | v => (v, flNone)
  | none =>
    let r := if fm = 7 then (signedOf 8 code, flNone) else ofT2 code
    (.fin (decide (r.1 < 0)) r.1.natAbs 0, r.2)

end Sys2Proof.Machine
end

