-- ==== Sys2Proof/Machine/MemOps.lean ====
section
/-!
DEFINITION. What the memory side does beside plain reads and writes: atomics and the deterministic path (R261-R267),
landings, staging and pending marks (R103, R310-R319), and the merge that closes a tick (R104, R179, R266).
-/
namespace Sys2Proof

/-- Width in bytes of a size (R44). -/
def MemSize.width : MemSize → Nat
  | .i8 | .n8 => 1
  | .i16 | .n16 => 2
  | .i32 | .n32 | .f32 => 4
  | .i64 => 8
/-- Whether a loaded value is sign-extended (R252). -/
def MemSize.signed : MemSize → Bool
  | .i8 | .i16 | .i32 | .i64 => true
  | _ => false

open Machine

/-- The fields of CTL (R125). -/
def Packet.kind (k : Packet) : Nat := bits k.ctl.toNat 0 4
def Packet.dir (k : Packet) : Bool := bit k.ctl.toNat 4
def Packet.srcSp (k : Packet) : Nat := bits k.ctl.toNat 5 2
def Packet.dstSp (k : Packet) : Nat := bits k.ctl.toNat 7 2
def Packet.flagEn (k : Packet) : Bool := bit k.ctl.toNat 9
def Packet.barEn (k : Packet) : Bool := bit k.ctl.toNat 10
def Packet.flagSp (k : Packet) : Bool := bit k.ctl.toNat 11
def Packet.bar (k : Packet) : Fin 64 := Fin.ofNat 64 (bits k.ctl.toNat 12 6)
def Packet.srcWin (k : Packet) : Nat := bits k.ctl.toNat 18 4
def Packet.dstWin (k : Packet) : Nat := bits k.ctl.toNat 22 4
def Packet.flagWin (k : Packet) : Nat := bits k.ctl.toNat 26 4
def Packet.dim (k : Packet) : Nat := bits k.ctl.toNat 30 4
def Packet.remote (k : Packet) : Bool := bit k.ctl.toNat 34
def Packet.length (k : Packet) : Nat := bits k.len.toNat 0 40

end Sys2Proof

namespace Sys2Proof.Machine

/-! ### Atomic updates (R261) -/

/-- The new contents of a word of the size and the flags (R261). -/
def atomResult (op : AtomOp) (z : MemSize) (m x : Nat) : Nat × Flags :=
  let w := 8 * z.width
  match z with
  | .f32 =>
    match op with
    | .add => fmtF32.addOp .rne false m (x % 2 ^ 32)
    | .min => fmtF32.minMax false m (x % 2 ^ 32)
    | .max => fmtF32.minMax true m (x % 2 ^ 32)
    | _ => (x % 2 ^ 32, flNone)
  | _ =>
    let less (a b : Nat) : Bool := if z.signed then decide (signedOf w a < signedOf w b) else decide (a < b)
    let y := x % 2 ^ w
    match op with
    | .add => ((m + y) % 2 ^ w, flNone)
    | .min => (if less y m then y else m, flNone)
    | .max => (if less m y then y else m, flNone)
    | .and => (Nat.land m y, flNone)
    | .or => (Nat.lor m y, flNone)
    | .xor => (Nat.xor m y, flNone)
    | .swp => (y, flNone)
    | .cas new => (if m = y then new.toNat % 2 ^ w else m, flNone)

/-- A word of n bytes as an access to its line finds it, by a partition's task or by another agent, under the key slot that its walk
has found, if it has. -/
def State.wordBy (s : State) (p : Option PartNo) (key : Option Nat) (pa n : Nat) : Nat :=
  ofBytes ((List.range n).map fun k => s.readByte (s.keyFor p key ((pa + k) / 128)) (pa + k))
/-- The word of n bytes that an atomic of a partition's stream finds (R262, R312). -/
def State.atomWord (s : State) (p : PartNo) (pa n : Nat) : Nat := ofBytes ((List.range n).map fun k => s.atomByte p (pa + k))

/-- A word that an atomic unit makes for a partition's stream: one single-copy atomic write of the stream path (R262, R321), and the
choices that its reading took are spent. -/
def State.putWord (p : PartNo) (pa n x : Nat) (s : State) : State :=
  ((s.writeBytes (some ⟨p, .st, none⟩) n noKey (bytesAt pa n x) (sum := true)).strike ((bytesAt pa n x).map (·.1))).draw

/-- A loaded number as a scalar (R252). -/
def loadedAs (z : MemSize) (x : Nat) : DWord :=
  if z.signed then BitVec.ofInt 64 (signedOf (8 * z.width) x) else BitVec.ofNat 64 x

/-- The word that a returning update has found reaches its register (R262); s0 takes none. -/
def Stream.returned (z : MemSize) (m : Nat) (x : Stream) : AtomReturn → Stream
  | .scalar rd => if rd = 0 then x else { x with s := x.s.set rd (loadedAs z m) }
  | .lane vd k => { x with v := x.v.set (1024 * vd.val + k) (BitVec.ofNat 32 m) }

/-- Applies one update (R261): the word, the flags into the stream's FLAGS (R33), and the word it found into its register. -/
def State.applyUpdate (u : AtomUpdate) (s : State) : State :=
  let n := u.size.width
  let m := s.atomWord u.part u.pa n
  let r := atomResult u.op u.size m u.operand.toNat
  (s.putWord u.part u.pa n r.1).onCtx u.part fun x => u.ret.elim (x.raise r.2) ((x.raise r.2).returned u.size m)

/-- The updates that may come next: of each instruction the first on each word, since only the lanes on one word keep their order
(R262). -/
def firstOnWord : List AtomUpdate → List AtomUpdate
  | [] => []
  | u :: t => u :: (firstOnWord t).filter fun v => !(v.instr == u.instr && v.pa == u.pa)

/-- Whether a 64-byte line is held by another partition's deterministic tick (R266, R267). -/
def State.heldByOther (s : State) (p : PartNo) (pa : Nat) : Bool :=
  s.detLines.any fun x => x.2 == pa / 64 && x.1 != p

/-- A deterministic line update that still stands somewhere (R264). -/
def State.detPending (s : State) : List DetUpdate := s.detSent ++ s.detOutbox ++ s.detBuf

/-- Adds the addends of one line update into memory, each rounded on its own (R264). -/
def State.applyDet (u : DetUpdate) (s : State) : State :=
  let addOne (s : State) (wa : Nat × Word) : State :=
    let pa := u.line * 64 + 4 * wa.1
    let r := fmtF32.addOp .rne false (s.atomWord u.part pa 4) wa.2.toNat
    (s.putWord u.part pa 4 r.1).onCtx u.part (Stream.raise r.2)
  let s1 := ((List.range 16).flatMap fun w => u.addends.filter fun x => x.1 == w).foldl addOne s
  if s1.detLines.contains (u.part, u.line) then s1 else { s1 with detLines := (u.part, u.line) :: s1.detLines }

/-- The updates of an instruction in increasing slab, then line (R264). -/
def bySlab (l : List DetUpdate) : List DetUpdate :=
  (List.range 16).flatMap fun k => l.filter fun u => u.slab.val == k

/-- Whether an update's line is held by another partition's tick: the update waits at its unit until that tick closes
(R266, R267). -/
def State.detHeld (s : State) (u : DetUpdate) : Bool := s.heldByOther u.part (u.line * 64)
/-- close(I): the entries of instruction I whose lines no other partition's tick holds are applied in slab and lane order
(R264, R266). -/
def State.closeDet (instr : Nat) (s : State) : State :=
  let goes (u : DetUpdate) : Bool := u.instr == instr && !s.detHeld u
  (bySlab (s.detBuf.filter goes)).foldl (fun s u => s.applyDet u) { s with detBuf := s.detBuf.filter fun u => !goes u }

/-- Inserts a number into a rising list without repeats. -/
def insertUp (x : Nat) : List Nat → List Nat
  | [] => [x]
  | y :: t => if x < y then x :: y :: t else if x = y then y :: t else y :: insertUp x t

/-- The bytes of the words that a line update adds into. -/
def DetUpdate.covers (u : DetUpdate) (pa : Nat) : Bool := u.line == pa / 64 && u.addends.any fun a => a.1 == pa % 64 / 4
/-- The bytes of the word of an update. -/
def AtomUpdate.covers (u : AtomUpdate) (pa : Nat) : Bool := decide (u.pa ≤ pa) && decide (pa < u.pa + u.size.width)

/-- Whether an atomic of a partition's stream that has not been applied yet will change one of some bytes (R256). -/
def State.pendingOn (s : State) (p : PartNo) (l : List Nat) : Bool :=
  (s.atoms.any fun u => u.part == p && l.any u.covers) || (s.detPending.any fun u => u.part == p && l.any u.covers)

/-- An update of an earlier instruction of the same partition on the same word is still on the deterministic path
(R263). -/
def State.behindDet (s : State) (u : AtomUpdate) : Bool :=
  s.detPending.any fun d => d.part == u.part && decide (d.instr < u.instr) && d.line == u.pa / 64 &&
    d.addends.any fun a => decide (d.line * 64 + 4 * a.1 < u.pa + u.size.width) && decide (u.pa < d.line * 64 + 4 * a.1 + 4)

/-- Whether an instruction of a partition before a given number still has updates to come. -/
def State.atomsBefore (s : State) (p : PartNo) (n : Nat) : Bool :=
  (s.atoms.any fun u => u.part == p && decide (u.instr < n)) || (s.detPending.any fun u => u.part == p && decide (u.instr < n))

/-! ### Streams: outbound writes (R113, R117) -/

/-- Bits of a pattern (R112). -/
def QReg.offset (q : QReg) : Nat := bits q.pb.toNat 0 47
def QReg.win (q : QReg) : Nat := bits q.pb.toNat 48 4
def QReg.outbound (q : QReg) : Bool := bit q.pb.toNat 52
def QReg.count (q : QReg) (k : Nat) : Nat := bits q.pc.toNat (12 * k) 12
def QReg.slabStride (q : QReg) : Nat := bits q.pc.toNat 48 16
def QReg.stride (q : QReg) (k : Nat) : Int :=
  signedOf 32 (bits (if k < 2 then q.ps1 else q.ps2).toNat (32 * (k % 2)) 32)
/-- N (R113). -/
def QReg.total (q : QReg) : Nat := q.count 0 * q.count 1 * q.count 2 * q.count 3
/-- a(n, s) (R113). -/
def QReg.chunkOff (q : QReg) (n slab : Nat) : Int :=
  let c0 := q.count 0
  let c1 := q.count 1
  let c2 := q.count 2
  (q.offset : Int) + (n % c0 : Nat) * q.stride 0 + (n / c0 % c1 : Nat) * q.stride 1 +
    (n / (c0 * c1) % c2 : Nat) * q.stride 2 + (n / (c0 * c1 * c2) : Nat) * q.stride 3 + (slab * 64 * q.slabStride : Nat)

/-- The physical address of byte b of chunk (n, slab) of a bound stream. -/
def QReg.phys (q : QReg) (t : Task) (n slab b : Nat) : Nat :=
  t.phys q.win ((t.win q.win).va (q.chunkOff n slab + b)).toNat

/-- Writes the active lanes of one pushed item to its addresses (R117, R212). -/
def State.writeItem (p : PartNo) (q : QReg) (n : Nat) (item : QItem) (s : State) : State :=
  let t := (s.taskOf p).getD Task.empty
  s.writeMain (some ⟨p, .st, none⟩) 4 noKey (((List.range 1024).filter item.act.getLsbD).flatMap fun k =>
    (toBytes 4 (Cells.get item.data k).toNat).mapIdx fun b x => (q.phys t n (k / 64) (4 * (k % 64) + b), x))

/-- Writes every item an outbound stream holds, in item order. -/
def State.drainQ (p : PartNo) (q : QReg) (s : State) : State :=
  (q.items.mapIdx fun k it => (q.fetched + k, it)).foldl (fun s x => s.writeItem p q x.1 x.2) s

/-- The bytes that an item writes. -/
def State.itemBytes (s : State) (p : PartNo) (q : QReg) (n : Nat) (item : QItem) : List Nat :=
  let t := (s.taskOf p).getD Task.empty
  ((List.range 1024).filter item.act.getLsbD).flatMap fun (k : Nat) =>
    (List.range 4).map fun b => q.phys t n (k / 64) (4 * (k % 64) + b)
/-- Whether the next item of an outbound stream waits for an earlier atomic of its stream on one of its bytes: the stream's writes of
a byte keep their order (R312). -/
def State.itemBlocked (s : State) (p : PartNo) (q : QReg) : Bool :=
  q.items.head?.any fun it => s.pendingOn p (s.itemBytes p q q.fetched it)
/-- Whether an item of a partition's outbound streams is still to be written to one of some bytes (R312 step 1). -/
def State.pushedOn (s : State) (p : PartNo) (l : List Nat) : Bool :=
  (List.finRange 8).any fun k => ((s.ctx p).bind fun x => x.q[k]).any fun q =>
    q.outbound && (q.items.mapIdx fun j it => s.itemBytes p q (q.fetched + j) it).any fun x => x.any l.contains

/-- Whether an outbound stream of a partition still holds one of the items pushed before a count per q register. -/
def State.pushesBefore (s : State) (p : PartNo) (counts : List Nat) : Bool :=
  (List.finRange 8).any fun k =>
    ((s.ctx p).bind fun x => x.q[k]).any fun q => q.outbound && !q.items.isEmpty && decide (q.fetched < counts.getD k.val 0)

/-- Items that a context has pushed to each q register. -/
def Stream.pushed (x : Stream) : List Nat := x.q.toList.map fun q => q.elim 0 (·.moved)

/-- Every access that a partition's stream has issued has been performed (R177, R179): no atomic and no outbound item is
left. -/
def State.accessesDone (s : State) (p : PartNo) : Bool :=
  (s.atoms.all fun u => u.part != p) && (s.detPending.all fun u => u.part != p) && !s.pushesBefore p (((s.ctx p).map Stream.pushed).getD [])

/-- The home bytes of an operand. -/
def homesOf (l : List Place) : List Nat := l.filterMap fun | .home a _ => some a | .plate _ _ => none

/-! ### Landings (R103, R310, R317, R319) -/

/-- How a landing on an address is treated (R310): staged under a tag, marked pending under a tag, or written at once. -/
inductive Treatment where
  | staged (tag : PartNo)
  | land (tag : PartNo)
  | direct
  deriving DecidableEq, Repr

/-- Whether an address lies in the code of a task: CODELEN bytes from CODEBASE on (R328). -/
def Task.inCode (t : Task) (pa : Nat) : Bool :=
  t.extents.any fun x =>
    let va := (x.vstart + (pa / 65536 - x.pstart)) * 65536 + pa % 65536
    x.win == 16 && decide (x.pstart ≤ pa / 65536) && decide (pa / 65536 < x.pstart + x.len) && decide (t.codeBase ≤ va) &&
      decide (va < t.codeBase + t.codeLen)

/-- R310, by the lowest-numbered partition whose dispatched task has the line in a window or in its code. -/
def State.treatment (s : State) (pa : Nat) : Treatment :=
  ((List.finRange 4).findSome? fun p =>
    match s.taskOf p with
    | none => none
    | some t =>
      match t.attrAt pa with
      | some .land => some (Treatment.land p)
      | some _ => some (.staged p)
      | none => if t.inCode pa then some (.staged p) else none).getD .direct

/-- Whether no landing may reach an address: it lies in an OUT, SCRATCH or SPILL window or in the code of a dispatched task
(R89, R130, R310). -/
def State.refusesLanding (s : State) (pa : Nat) : Bool :=
  (List.finRange 4).any fun p => (s.taskOf p).any fun t =>
    match t.attrAt pa with
    | some .output | some .scratch | some .spill => true
    | some _ => false
    | none => t.inCode pa

/-- Bytes of one line under its mask: a later landing overwrites earlier bytes (R103). -/
def overlay (old new : List (Nat × Byte)) : List (Nat × Byte) :=
  new ++ old.filter fun b => !(new.any fun c => c.1 == b.1)

/-- Whether a set has room for a new staged line (R103). -/
def State.roomFor (s : State) (line : Nat) : Bool :=
  decide ((s.staged.filter fun l => lineSet l.line == lineSet line).length < 4)

/-- Whether a landing on an address would find its way (R103). -/
def State.canLand (s : State) (a : Nat) : Bool :=
  match s.treatment a with
  | .staged tag => s.staged.any (fun l => l.line == a / 128 && l.tag == tag) || s.roomFor (a / 128)
  | _ => true

/-- The words of a staged line that stay poisoned under landed bytes: those that are not written as a whole (R105, R130). -/
def badUnder (bad : List Nat) (new : List (Nat × Byte)) : List Nat :=
  bad.filter fun w => !((List.range 8).all fun j => new.any fun b => b.1 == 8 * w + j)
/-- A staged line after a landing on its line: under its own tag it takes the bytes and the poisoned words; under another tag it
gives up the bytes that have been overwritten. -/
def StagedLine.landed (tag : PartNo) (bytes : List (Nat × Byte)) (bad : List Nat) (key : Option Nat) (x : StagedLine) : StagedLine :=
  if x.tag = tag then
    { x with bytes := overlay x.bytes bytes, bad := (badUnder x.bad bytes ++ bad).eraseDups, key := x.key <|> key }
  else { x with bytes := x.bytes.filter (fun b => !bytes.any fun c => c.1 == b.1), bad := badUnder x.bad bytes }
/-- Stages bytes of one line, and poisoned words of it, under a tag (R103, R310). -/
def State.stageLine (line : Nat) (tag : PartNo) (bytes : List (Nat × Byte)) (bad : List Nat) (key : Option Nat) (s : State) :
    State :=
  let l := s.staged.map fun x => if x.line = line then x.landed tag bytes bad key else x
  { s with staged := if s.staged.any fun x => x.line == line && x.tag == tag then l else l ++ [⟨line, tag, bytes, bad, key⟩] }

/-- What a landing on a LAND line leaves for the tag's packets: their sources may read its bytes old or new (R318). -/
def landLoose (s : State) (tag : PartNo) (unit : Nat) (l : List (Nat × Byte)) : List LooseByte :=
  l.mapIdx fun k (ab : Nat × Byte) => LooseByte.mk tag .outside ab.1 (s.byte ab.1) ab.2 (s.accNo + k / unit) none [.cp] false

/-- Where a part of a landing lies: its first byte, or its first poisoned word. -/
def partAt (l : List (Nat × Byte)) (bad : List Nat) : Nat := (l.map Prod.fst ++ bad.map (8 * ·)).headD 0
/-- The bytes of words. -/
def bytesOfWords (bad : List Nat) : List Nat := bad.flatMap fun w => (List.range 8).map (8 * w + ·)

/-- Places a part of a landing that lies in one half of a line (R88, R103, R310, R317): its bytes, and the words of it that land as
poisoned (R130); `whole` if the bytes are one single-copy atomic write (R321). `pkt` names the packet, whose marks stand already. -/
def State.placeLanding (pkt : Option (PartNo × Fin 8 × Nat)) (whole : Bool) (key : Option Nat) (bad : List Nat)
    (l : List (Nat × Byte)) (s : State) : State :=
  let a := partAt l bad
  let unit := if whole then 8 else 1
  let main (s : State) : State := ((s.writeMain none unit (fun _ => key) l).poisonWords bad).strike (bytesOfWords bad)
  match s.treatment a with
  | .staged tag =>
    (s.stageLine (a / 128) tag (l.map fun ab => (ab.1 % 128, ab.2)) (bad.map (· % 16)) key).strike
      ((l.map fun (ab : Nat × Byte) => ab.1) ++ bytesOfWords bad)
  | .land tag =>
    let s1 := main s
    let s2 := { s1 with loose := s1.loose ++ landLoose s tag unit l }
    if pkt.isSome then s2 else { s2 with marks := s2.marks ++ [⟨a / 128, tag, none, true⟩] }
  | .direct => main s

/-- The bytes from an address on, cut at the 64-byte boundaries: windows begin and end there (R88). -/
def cutHalves : Nat → Nat → List Byte → List (List (Nat × Byte))
  | 0, _, _ => []
  | _ + 1, _, [] => []
  | k + 1, a, l =>
    let n := 64 - a % 64
    listAt a (l.take n) :: cutHalves k (a + n) (l.drop n)
def inHalves (a : Nat) (l : List Byte) : List (List (Nat × Byte)) := cutHalves (l.length + 1) a l

/-- The packet of a landing. -/
def LandAgent.packet? : LandAgent → Option (PartNo × Fin 8 × Nat)
  | .host => none
  | .packet part ch idx => some (part, ch, idx)

/-- Whether a packet that has been read may still hand on a landing: its bytes, or its flag (R129). -/
def ActivePacket.mayLand (a : ActivePacket) : Bool :=
  a.origin != .stream &&
    if a.stage == .done then a.pkt.flagEn && a.status.toNat % 256 == 1
    else a.pkt.flagEn || (a.pkt.length != 0 && (a.pkt.kind == 2 || a.pkt.kind == 4 ||
      ((a.pkt.kind == 1 || a.pkt.kind == 3) && a.pkt.dstSp != 2) || (a.pkt.kind == 5 && a.pkt.dir)))
/-- Whether an earlier packet of a queue still has a landing to come (R313): one that it has not handed on, or one that waits. -/
def State.landsBefore (s : State) (p : PartNo) (ch : Fin 8) (idx : Nat) : Bool :=
  ((s.pt p).queues[ch]).active.any fun b =>
    decide (b.idx < idx) && (b.mayLand || s.landings.any fun w => w.agent == .packet p ch b.idx)
/-- Whether a part of a landing waits for an earlier packet of its queue: where ticks govern it, a queue's landings keep their order
(R313), and in every half line they do (R128). -/
def State.landBehind (s : State) (agent : LandAgent) (a : Nat) : Bool :=
  match agent with
  | .host => false
  | .packet p ch idx =>
    (s.treatment a != .direct && s.landsBefore p ch idx) ||
      (((s.pt p).queues[ch]).active.any fun b => decide (b.idx < idx) &&
        s.landings.any fun w => w.agent == .packet p ch b.idx && partAt w.bytes w.bad / 64 == a / 64)

/-- Adds a part of landing number n to those that have not reached the stash. -/
def State.keepWaiting (w : WaitingLanding) (s : State) : State :=
  if w.bytes.isEmpty && w.bad.isEmpty then s else { s with landings := s.landings ++ [w] }

/-- Lands one part: it is placed if it finds room and nothing goes before it, and waits otherwise (R103, R313, R319). -/
def State.landPart (w : WaitingLanding) (s : State) : State :=
  let a := partAt w.bytes w.bad
  if w.bytes.isEmpty && w.bad.isEmpty then s
  else if s.canLand a && !s.landBehind w.agent a then s.placeLanding w.agent.packet? w.whole w.key w.bad w.bytes
  else s.keepWaiting w

/-- The bytes of a packet that stay behind at first, or those that do not: any of them may land later than the others (R313);
which is free (log 4). -/
def splitBytes (s : State) (later : Bool) (l : List (Nat × Byte)) : List (Nat × Byte) :=
  ((l.zip (List.range l.length)).filter fun (x : (Nat × Byte) × Nat) =>
    Config.freeBit s.free (s.accNo + x.2) == later).map (·.1)

/-- A landing of bytes on end: each part is placed on its own, and those that find no room wait (R103, R319). A host write
waits behind an earlier one that waits. Of a packet's bytes any may land later than the others (R313), unless they are its
flag. `key` gives the key slot of a line where the landing's check has found it. -/
def State.landBytes (agent : LandAgent) (whole : Bool) (key : Nat → Option Nat) (a : Nat) (l : List Byte) (s : State) : State :=
  let n := s.landingNo
  let queued := agent == .host && s.landings.any fun w => w.agent == agent
  (inHalves a l).foldl (fun s x =>
    let part (y : List (Nat × Byte)) : WaitingLanding := ⟨agent, n, y, whole, [], key (partAt x [] / 128)⟩
    if queued then s.keepWaiting (part x)
    else if whole || agent.packet?.isNone then s.landPart (part x)
    else ((s.landPart (part (splitBytes s false x))).keepWaiting (part (splitBytes s true x))).draw)
      { s with landingNo := n + 1 }

/-- Words of one granule of 64 bytes land as poisoned (R130), by the rules of a landing. -/
def State.landPoison (agent : LandAgent) (key : Option Nat) (words : List Nat) (s : State) : State :=
  { s with landingNo := s.landingNo + 1 }.landPart ⟨agent, s.landingNo, [], false, words, key⟩

/-- Landings that waited proceed (R319): in order, a host write behind an earlier one that still waits, a packet's part behind those
of the earlier packets of its queue (R313). -/
def State.retryLandings (s0 : State) : State :=
  s0.landings.foldl (fun s w =>
    if (w.agent == .host && s.landings.any fun x => x.agent == .host && x.num != w.num) ||
        s0.landBehind w.agent (partAt w.bytes w.bad) then
      s.keepWaiting w
    else s.landPart w) { s0 with landings := [] }

/-- Whether an agent outside the task that reads a byte meets a word that cannot be corrected (R105, R314). -/
def State.badView (s : State) (a : Nat) : Bool :=
  match s.staged.find? fun l => l.line == a / 128 && (l.bad.contains (a % 128 / 8) || l.bytes.any fun b => b.1 == a % 128) with
  | some l => l.bad.contains (a % 128 / 8)
  | none => s.poisoned a

/-! ### Held accumulates (R132, R266) -/

/-- What an accumulate into a LAND line leaves for the tag's packets, as a landing of bytes does (R318). -/
def sumLoose (s : State) (who : Option Writer) (l : List (Nat × Byte)) : List LooseByte :=
  match who, s.treatment (partAt l []) with
  | none, .land tag => landLoose s tag 4 l
  | _, _ => []

/-- Adds one FP32 addend into memory for a packet; its flags go into the packet's STATUS.FL (R132). The Repeater's entries
have been struck when the element was accepted (R357). -/
def State.accumulate (a : HeldAcc) (s : State) : State :=
  let who : Option Writer := if a.cls = 0 then some ⟨a.part, .cp, some (a.ch, a.idx)⟩ else none
  let r := fmtF32.addOp .rne false (s.wordBy (who.map (·.part)) a.key a.pa 4) a.addend.toNat
  let l := bytesAt a.pa 4 r.1
  let s1 := s.writeBytes who 4 (fun _ => a.key) l (sum := true)
  { s1 with loose := s1.loose ++ sumLoose s who l }.onPart a.part fun (t : Partition) =>
    { t with queues := t.queues.set a.ch { t.queues[a.ch] with active := t.queues[a.ch].active.map fun (x : ActivePacket) =>
        if x.idx = a.idx then { x with status := x.status ||| (r.2.zeroExtend 64 <<< 8) } else x } }

/-- The order of held updates: class, channel, transfer identifier, then address (R266). -/
def HeldAcc.before (a b : HeldAcc) : Bool :=
  let k (x : HeldAcc) : List Nat := [x.cls, x.ch.val, x.idx]
  decide (k a < k b)
def insertAcc (a : HeldAcc) : List HeldAcc → List HeldAcc
  | [] => [a]
  | b :: t => if a.before b then a :: b :: t else b :: insertAcc a t

/-! ### The merge (R104, R179, R266, R306, R317) -/

/-- A line that has been written back; a clean one still covers what HBM4E holds (R97). -/
def StashLine.cleaned (l : StashLine) : StashLine :=
  { l with dirty := false, image := if l.dirty then [] else l.image, owners := [], inout := [] }

/-- Writes back every line a partition's task dirtied since its last TICK (R102). -/
def State.writeBack (p : PartNo) (s : State) : State :=
  let s1 := (s.stash.filter fun l => l.owners.contains p).foldl (fun s l => s.sealLine l) s
  { s1 with stash := s1.stash.map fun l => if l.owners.contains p then l.cleaned else l }

/-- The lines that a partition's writes have dirtied are no longer its task's: the task is over, or its tick's updates stand
(R369). -/
def State.disown (p : PartNo) (s : State) : State :=
  { s with stash := s.stash.map fun l => { l with owners := l.owners.filter (· != p), inout := l.inout.filter (· != p) } }

/-- Whether every update of a line by the instructions of a partition up to this one's stands at the unit (R264). -/
def State.arrived (s : State) (u : DetUpdate) : Bool :=
  !(s.detSent ++ s.detOutbox).any fun v => v.part == u.part && v.line == u.line && decide (v.instr ≤ u.instr)

/-- The updates that other partitions' streams had sent to lines under deterministic reduction are applied in the merge that closes
the tick (R266), after the accumulates, in the order of their instructions (log 66): line updates of the deterministic path in slab
and lane order, other updates in lane order. What does not stand at its unit yet comes later. -/
def State.releaseHeld (freed : List Nat) (s : State) : State :=
  let instrs := (((s.detBuf.filter fun u => freed.contains u.line).map (·.instr)) ++
    ((s.atoms.filter fun u => freed.contains (u.pa / 64)).map (·.instr))).foldl (fun l n => insertUp n l) []
  instrs.foldl (fun s n =>
    let us := bySlab (s.detBuf.filter fun u => u.instr == n && freed.contains u.line && s.arrived u && !s.detHeld u)
    let s1 := us.foldl (fun s u => ({ s with detBuf := s.detBuf.erase u }).applyDet u) s
    (s1.atoms.filter fun u => u.instr == n && freed.contains (u.pa / 64)).foldl (fun s u =>
      if s.behindDet u || s.heldByOther u.part u.pa then s else ({ s with atoms := s.atoms.erase u }).applyUpdate u) s1) s

/-- The merge of a partition's tick, which strikes no Repeater entry again (R357): landed bytes replace the main partition's, then the accumulates that waited for it
are applied, then the lines under deterministic reduction are released with the updates held on them, the pending marks whose
landing has retired go, the complications installed in the tick become current, and the tick's write order is settled. -/
def State.merge (p : PartNo) (s : State) : State :=
  let mine := s.staged.filter fun l => l.tag == p
  let s1 := { s with staged := s.staged.filter fun l => l.tag != p }
  let s2 := mine.foldl (fun s l =>
    (s.writeBytes none 1 (fun _ => l.key) (l.bytes.map fun b => (l.line * 128 + b.1, b.2))).poisonWords
      (l.bad.map fun w => l.line * 16 + w)) s1
  let accs := s2.heldAccs.filter fun a => a.tag == p
  let freed := (s2.detLines.filter fun x => x.1 == p).map (·.2)
  let s3 := { s2 with heldAccs := s2.heldAccs.filter fun a => a.tag != p,
                      detLines := s2.detLines.filter fun x => x.1 != p }
  let order (l : List HeldAcc) := l.foldl (fun acc a => insertAcc a acc) []
  let s4 := (order (accs.filter fun a => !a.det)).foldl (fun s a => s.accumulate a) s3
  let s5 := ((order (accs.filter fun a => a.det)).foldl (fun s a => s.accumulate a) s4).releaseHeld freed
  let s6 := { s5 with marks := s5.marks.filter fun m => !(m.tag == p && m.retired),
                      loose := s5.loose.filter fun l => l.part != p }
  s6.onPart p fun t =>
    { t with comps := t.compsNext.foldl (fun l c => c :: l.filter fun x => x.1 != c.1) t.comps, compsNext := [] }

end Sys2Proof.Machine
end

