-- ==== Sys2Proof/Machine/Home.lean ====
section
/-!
DEFINITION. Slot 5, class M1: loads, stores, gathers and scatters through windows (R252-R257), and the checks that every M1
instruction shares (R255).
-/
namespace Sys2Proof.Machine

/-! ### Checks and holds of M1 instructions -/

/-- A slab's outbox with four line updates holds every group that uses slot 5 (R265). -/
def State.outboxFull (s : State) : Bool :=
  (List.finRange 16).any fun k => decide (4 ≤ (s.detOutbox.filter fun u => u.slab == k).length)

/-- Steps 3 to 5 of R255 for an access of n bytes at an offset through window w, by element e. -/
def State.m1Check (s : State) (w n : Nat) (k : AccessKind) (e : Nat) (off : Int) : Option Trap :=
  let t := s.stream.theTask
  let va := (t.win w).va off
  match t.checkAccess w off n k with
  | some tr => some { tr with slot := 5, elem := e }
  | none =>
    if off % (n : Int) ≠ 0 then some { num := trALIGN, slot := 5, win := w, elem := e, info := lowBits 64 va }
    else if k = .load ∧ (List.range n).any fun b => (t.resolve w (va.toNat + b)).any fun pa =>
        s.marks.any fun m => m.tag == s.part && m.line == pa / 128 then
      some { num := trLANDREAD, slot := 5, win := w, elem := e, info := lowBits 64 va }
    else none

/-- Step 1 of R255 for an instruction that writes home memory through window w. -/
def State.pureTrap (s : State) (w : Nat) : Option Trap :=
  if s.stream.pure ∧ (s.stream.theTask.win w).isOut = false then some { num := trPURITY, slot := 5 } else none

/-- What stops an M1 instruction with given elements (number and offset): the first trap, a lazy page still to be translated
(R95), a poisoned word that a read consumes (R105), an earlier atomic on one of the bytes of a load or store that has not been
applied (R256), or an item pushed to an outbound stream that is still to be written to one of them (R312 step 1); none lets it
act. -/
def State.m1Block (first : Option Trap) (w n : Nat) (k : AccessKind) (els : List (Nat × Int)) (s : State) : Option State :=
  let t := s.stream.theTask
  let va (off : Int) : Nat := ((t.win w).va off).toNat
  match first with
  | some tr => some (s.takeTrap tr)
  | none =>
    match els.findSome? fun x => s.m1Check w n k x.1 x.2 with
    | some tr => some (s.takeTrap tr)
    | none =>
      match els.findSome? fun x => t.missing w (va x.2) n with
      | some a => some (s.holdFor (.lazyPage w a))
      | none =>
        if k ≠ .store ∧ els.any fun x => (List.range n).any fun b => s.poisoned (t.phys w (va x.2 + b)) then
          some (s.takeTrap { num := trUNCORR, slot := 5 })
        else
          let l := els.flatMap fun x => (List.range n).map fun b => t.phys w (va x.2 + b)
          if (k ≠ .atomic ∧ s.pendingOn s.part l) ∨ s.pushedOn s.part l then some (s.holdFor .stall) else none

/-- The physical address of byte b of the access at an offset through window w. -/
def State.m1Phys (s : State) (w : Nat) (off : Int) (b : Nat) : Nat :=
  let t := s.stream.theTask
  t.phys w (((t.win w).va off).toNat + b)
/-- The number that n bytes at an offset hold, as the stream sees them (R312). -/
def State.m1Read (s : State) (w n : Nat) (off : Int) : Nat :=
  ofBytes ((List.range n).map fun b => s.seen (some s.part) .st (s.m1Phys w off b))
/-- The physical addresses that accesses touch. -/
def State.m1Lines (s : State) (w n : Nat) (offs : List Int) : List Nat :=
  offs.flatMap fun off => (List.range n).map fun b => s.m1Phys w off b

/-- Writes numbers of n bytes at offsets through window w, in order, on the stream path. -/
def State.m1Write (w n : Nat) (l : List (Int × Nat)) (s : State) : State :=
  s.writeMain (some ⟨s.part, .st, none⟩) n noKey
    (l.flatMap fun x => (toBytes n x.2).mapIdx fun b v => (s.m1Phys w x.1 b, v))

/-- An M1 word acts unless an outbox is full (R265). -/
def State.m1word (f : State → State) (s : State) : State := if s.outboxFull then s.holdFor .stall else f s

/-! ### Scalar words (R252, R253) -/

/-- sa + imm · size. -/
def State.msOff (s : State) (sa : RegNo) (imm : BitVec 8) (n : Nat) : Int := s.offset sa + imm.toInt * n
/-- LDH. -/
def opLdh (o : MsOp) (s : State) : State :=
  s.m1word fun s =>
    let n := o.size.width
    let off := s.msOff o.sa o.imm n
    match s.m1Block none o.win.val n .load [(0, off)] with
    | some b => b
    | none =>
      ((s.setS o.sd (loadedAs o.size (s.m1Read o.win.val n off))).draw).touchAll s.part (s.m1Lines o.win.val n [off])
def execLdh (o : MsOp) (s : State) : Out := .next (opLdh o s)

/-- STH. -/
def opSth (o : MsOp) (s : State) : State :=
  s.m1word fun s =>
    let n := o.size.width
    let off := s.msOff o.sa o.imm n
    match s.m1Block (s.pureTrap o.win.val) o.win.val n .store [(0, off)] with
    | some b => b
    | none => s.m1Write o.win.val n [(off, (s.sreg o.sd).toNat)]
def execSth (o : MsOp) (s : State) : Out := .next (opSth o s)

/-- PREF fills the line, or does nothing (R101, R253). -/
def opPref (o : PrefOp) (s : State) : State :=
  if s.outboxFull then s.holdFor .stall
  else
    let t := s.stream.theTask
    let off := s.msOff o.sa o.imm 1
    if (t.checkAccess o.win.val off 1 .load).isSome ∨ (t.missing o.win.val ((t.win o.win.val).va off).toNat 1).isSome then s
    else
      let pa := s.m1Phys o.win.val off 0
      s.prefetch (pa / 128) (s.keyFor (some s.part) none (pa / 128))
def execPref (o : PrefOp) (s : State) : Out := .next (opPref o s)

/-! ### Vector words (R254) -/

/-- Offsets of element e: contiguous, strided, indexed by a vector as I32. They are formed exactly; the spec does not say
whether a sum that leaves 64 bits wraps first (R85; log 65). -/
def State.vecOff (s : State) (sa : RegNo) (t : ElemType) (e : Nat) : Int := s.offset sa + (e * (t.bits / 8) : Nat)
def State.vecStride (s : State) (sa sb : RegNo) (e : Nat) : Int := s.offset sa + (e : Int) * s.offset sb
def State.vecIndex (s : State) (sa vb : RegNo) (e : Nat) : Int := s.offset sa + (s.lane vb e).toInt

/-- The active elements with their offsets. -/
def State.elemOffs (s : State) (pg : Fin 8) (t : ElemType) (off : Nat → Int) : List (Nat × Int) :=
  (activeElems (s.preg pg) t.perLane).map fun e => (e, off e)

/-- A vector load. -/
def vecLoad (vd : RegNo) (pg : Fin 8) (t : ElemType) (w : Nat) (off : State → Nat → Int) (s : State) : State :=
  s.m1word fun s =>
    let n := t.bits / 8
    let els := s.elemOffs pg t (off s)
    match s.m1Block none w n .load els with
    | some b => b
    | none =>
      ((s.putWords vd pg fun k => BitVec.ofNat 32 (packElems t.bits ((List.range t.perLane).map fun j =>
        s.m1Read w n (off s (k * t.perLane + j))))).draw).touchAll s.part (s.m1Lines w n (els.map (·.2)))

/-- A vector store: elements in increasing order (R254). -/
def vecStore (vd : RegNo) (pg : Fin 8) (t : ElemType) (w : Nat) (off : State → Nat → Int) (s : State) : State :=
  s.m1word fun s =>
    let n := t.bits / 8
    let els := s.elemOffs pg t (off s)
    match s.m1Block (s.pureTrap w) w n .store els with
    | some b => b
    | none => s.m1Write w n (els.map fun x => (x.2, s.elem vd t x.1))

def opVldh (o : M1Op) (s : State) : State := vecLoad o.vd o.pg o.ty o.win.val (fun s => s.vecOff o.sa o.ty) s
def execVldh (o : M1Op) (s : State) : Out := .next (opVldh o s)
def opVsth (o : M1Op) (s : State) : State := vecStore o.vd o.pg o.ty o.win.val (fun s => s.vecOff o.sa o.ty) s
def execVsth (o : M1Op) (s : State) : Out := .next (opVsth o s)
def opVldhs (o : M1sOp) (s : State) : State := vecLoad o.vd o.pg o.ty o.win.val (fun s => s.vecStride o.sa o.sb) s
def execVldhs (o : M1sOp) (s : State) : Out := .next (opVldhs o s)
def opVsths (o : M1sOp) (s : State) : State := vecStore o.vd o.pg o.ty o.win.val (fun s => s.vecStride o.sa o.sb) s
def execVsths (o : M1sOp) (s : State) : Out := .next (opVsths o s)
def opVgth (o : M1sOp) (s : State) : State := vecLoad o.vd o.pg o.ty o.win.val (fun s => s.vecIndex o.sa o.sb) s
def execVgth (o : M1sOp) (s : State) : Out := .next (opVgth o s)
def opVsct (o : M1sOp) (s : State) : State := vecStore o.vd o.pg o.ty o.win.val (fun s => s.vecIndex o.sa o.sb) s
def execVsct (o : M1sOp) (s : State) : Out := .next (opVsct o s)

end Sys2Proof.Machine
end

