-- ==== Sys2Proof/Machine/Matrix.lean ====
section
/-!
DEFINITION. Slot 6, class E: the matrix unit (R215-R246). An instruction acts on tiles, buffers, plates and memory when it
issues, in issue order (log 11); an entry of the matrix queue then carries its flags and its arrival to its completion.
-/
namespace Sys2Proof.Machine

/-! ### Tiles and A buffers (R215-R217) -/

/-- The bank of a tile in a view, and the place of its bits in a cell. -/
def tileBank (af : AccFmt) (t : Nat) : Nat := if af = .f32 then t else t / 2
def tileShift (af : AccFmt) (t : Nat) : Nat := if af = .f32 then 0 else 16 * (t % 2)
/-- The cell number of bank, slab, and 64·row + column. -/
def accCell (bank slab ij : Nat) : Nat := (bank * 16 + slab) * 4096 + ij
/-- Cell 64·row + column of tile t of a slab in a view. -/
def State.tile (s : State) (af : AccFmt) (t slab ij : Nat) : Nat :=
  bits (s.stream.acc.get (accCell (tileBank af t) slab ij)).toNat (tileShift af t) (accFmt af).width
/-- Writes every cell of tile t of one slab; a narrow view leaves the other half of the bank. -/
def State.putTile (af : AccFmt) (t slab : Nat) (f : Nat → Nat) (s : State) : State :=
  s.onStream fun x => { x with acc := (x.acc.blit (accCell (tileBank af t) slab 0) 4096 fun ij =>
    BitVec.ofNat 32 (setBits (x.acc.get (accCell (tileBank af t) slab ij)).toNat (tileShift af t) (accFmt af).width (f ij))) }

/-- The first byte of an A buffer of a slab; data rows of 384 bytes, then scale rows of 32 (R217). -/
def abufBase (b slab : Nat) : Nat := (b * 16 + slab) * 26624
def State.abufNum (s : State) (b slab o n : Nat) : Nat := ofBytes (s.abuf.read (abufBase b slab + o) n)

/-! ### What an E word acts with -/

/-- The engine registers e48-e54 (R219). -/
structure Geo where
  fmt : Nat
  scl : Nat
  drn : Nat
  spr : Nat
  gth : Nat
  gsc : Nat
  sv : Nat
  deriving DecidableEq, Repr

/-- The geometry at issue. -/
def State.geo (s : State) : Geo :=
  let r (n : Fin 64) : Nat := (s.stream.ereg n).toNat
  ⟨r 48, r 49, r 50, r 51, r 52, r 53, r 54⟩

/-- The three products. -/
inductive MmaKind where
  | dense | sparse | ternary
  deriving DecidableEq, Repr

/-- An E word that can stand in a routine, with its operands' values: tile, view, calibre, flags (R225, R239). -/
inductive EOp where
  | mma (k : MmaKind) (t : Nat) (af : AccFmt) (cal : Calibre) (bc ip : Bool)
  | mzero (t : Nat) (af : AccFmt)
  | mdecay (t : Nat) (af : AccFmt) (cal : Calibre) (bc row : Bool)
  | mdrain (t : Nat) (af : AccFmt) (cal : Calibre) (bar clr : Bool)
  | mgath (ab : Nat) (bc idx : Bool)
  deriving DecidableEq, Repr

/-- One accepted word: the operation, sA and sB, the geometry, the address it draws from (R234), and the gather indices
read at issue (R235), per source slab. -/
structure EWork where
  op : EOp
  a : DWord
  b : DWord
  geo : Geo
  addr : DWord
  idx : List (List Nat)
  deriving DecidableEq, Repr

def eTrap (num : Nat) : Trap := { num := num, slot := 6 }

/-- The fields of MFMT and MSCL. -/
def Geo.afmt (g : Geo) : Nat := bits g.fmt 0 4
def Geo.bfmt (g : Geo) : Nat := bits g.fmt 4 4
def Geo.amx (g : Geo) : Bool := bit g.fmt 8
def Geo.bmx (g : Geo) : Bool := bit g.fmt 9
def Geo.asrc (g : Geo) : Nat := bits g.fmt 10 2
def Geo.k (g : Geo) : Nat := bits g.fmt 16 13
def Geo.asb (g : Geo) : Nat := bits g.scl 0 22
def Geo.bsb (g : Geo) : Nat := bits g.scl 32 22
/-- Scale bytes of a row and step. -/
def Geo.perStep (g : Geo) : Nat := mStep g.afmt / 32
def Geo.steps (g : Geo) : Nat := g.k / mStep g.afmt
def Geo.mbase (g : Geo) : Nat := bits g.spr 0 22
/-- N of R229. -/
def Geo.present (g : Geo) : Nat := if bit g.spr 32 then 12 else 24
/-- The slot of a column's values of one group (R229). -/
def Geo.sparseSlot (g : Geo) : Nat := alignUp 16 (g.present * (mBits g.bfmt / 8))

/-! ### Checks of the products (R226, R230) -/

/-- Formats, source and length. -/
def mmaShapeOk (k : MmaKind) (g : Geo) : Bool :=
  let formats := match k with
    | .dense => decide (g.afmt ≤ 6) && decide (g.bfmt ≤ 6) && mClass g.afmt == mClass g.bfmt &&
        (!(g.amx || g.bmx) || mClass g.afmt != 16)
    | .sparse => decide (g.afmt ≤ 3) && decide (g.bfmt ≤ 3) && mClass g.afmt == mClass g.bfmt && !g.amx && !g.bmx
    | .ternary => g.afmt == 7 && g.bfmt == 8 && !g.amx && !g.bmx
  formats && g.asrc != 1 && decide (g.k ≤ 4096) && g.k % mStep g.afmt == 0 && (k != .sparse || g.k % 48 == 0) &&
    (g.asrc == 0 || decide (g.steps * mSlot g.afmt ≤ 384))

/-- The plate ranges that a product reads whole: base, bytes, and the alignment of the base. Of compressed B only the alignment
stands here: which values are read depends on the metadata (R229). -/
def mmaRanges (k : MmaKind) (g : Geo) (a b : Int) : List (Int × Nat × Nat) :=
  (if g.asrc = 0 then [(a, 64 * mSlot g.afmt * g.steps, 2048)] else []) ++
  (if k = .sparse then [(b, 0, 1024), ((g.mbase : Int), 512 * (g.k / 48), 512)]
   else [(b, 64 * mSlot g.bfmt * g.steps, 2048)]) ++
  (if g.amx ∧ g.asrc = 0 then [((g.asb : Int), 64 * g.perStep * g.steps, 64 * g.perStep)] else []) ++
  (if g.bmx then [((g.bsb : Int), 64 * g.perStep * g.steps, 64 * g.perStep)] else [])

/-- ALIGN of any range, then PLATE of any range. -/
def State.checkRanges (s : State) (l : List (Int × Nat × Nat)) : Option Trap :=
  if l.any fun r => decide (r.1 % (r.2.2 : Int) ≠ 0) then some (eTrap trALIGN)
  else (l.find? fun r => decide (r.2.1 ≠ 0) && !s.inShare s.part r.1 r.2.1).map fun r =>
    { eTrap trPLATE with info := lowBits 64 r.1 }

/-- Values that SMMA reads of group q, column j: as many as its metadata has set bits, up to N (R229). -/
def State.sparseCount (s : State) (g : Geo) (slab q j : Nat) : Nat :=
  min (popCount 48 (s.plateNum s.part slab (g.mbase + 512 * q + 8 * j) 6)) g.present
/-- The values of compressed B that a slab reads: offset and bytes of each group and column. -/
def State.sparseReads (s : State) (g : Geo) (b : Int) (slab : Nat) : List (Int × Nat) :=
  (List.range (g.k / 48)).flatMap fun q => (List.range 64).map fun j =>
    (b + (64 * g.sparseSlot * q + g.sparseSlot * j : Nat), mBits g.bfmt / 8 * s.sparseCount g slab q j)
/-- PLATE of a value that SMMA reads. -/
def State.checkSparse (s : State) (g : Geo) (b : Int) (bc : Bool) : Option Trap :=
  if (List.range (if bc then 1 else 16)).any fun slab => (s.sparseReads g b slab).any fun r =>
      decide (r.2 ≠ 0) && !s.inShare s.part r.1 r.2 then some { eTrap trPLATE with info := lowBits 64 b } else none

/-! ### Checks of the other words (R232, R233, R235) -/

/-- Fields of MDRN. -/
def Geo.ofmt (g : Geo) : Nat := bits g.drn 0 3
def Geo.drainMx (g : Geo) : Bool := decide (3 ≤ g.ofmt)
/-- Width in bits of a drained element. -/
def Geo.drainBits (g : Geo) : Nat := match g.ofmt with
  | 0 => 32
  | 1 | 2 => 16
  | 5 => 4
  | _ => 8
def Geo.pitch (g : Geo) : Nat := bits g.drn 16 16
def Geo.spitch (g : Geo) : Nat := bits g.drn 32 16

def State.checkDrain (s : State) (g : Geo) (a b : Int) : Option Trap :=
  if 6 ≤ g.ofmt ∨ 5 ≤ bits g.drn 3 3 then some (eTrap trMSHAPE)
  else if a % 32 ≠ 0 ∨ g.pitch % 32 ≠ 0 ∨ (g.drainMx ∧ (b % 2 ≠ 0 ∨ g.spitch % 2 ≠ 0)) then some (eTrap trALIGN)
  else s.checkRanges (((List.range 64).map fun i => (a + (i * g.pitch : Nat), 8 * g.drainBits, 1)) ++
    if g.drainMx then (List.range 64).map fun i => (b + (i * g.spitch : Nat), 2, 1) else [])

/-- Fields of MGTH and MGSC. -/
def Geo.gPitch (g : Geo) : Nat := bits g.gth 0 16
def Geo.gLen (g : Geo) : Nat := bits g.gth 16 9
def Geo.gSlen (g : Geo) : Nat := bits g.gth 25 6
def Geo.gSpitch (g : Geo) : Nat := bits g.gth 32 16
def Geo.scb (g : Geo) : Nat := bits g.gsc 0 22

/-- The row numbers that a gather takes from a source slab. -/
def State.gatherRows (s : State) (idx : Bool) (b : Int) (slab : Nat) : List Nat :=
  (List.range 64).map fun i => if idx then s.plateNum s.part slab (b.toNat + 4 * i) 4 else i

def State.checkGather (s : State) (g : Geo) (bc idx : Bool) (a b : Int) : Option Trap :=
  if g.gLen % 32 ≠ 0 ∨ 384 < g.gLen ∨ g.gSlen % 8 ≠ 0 ∨ 32 < g.gSlen then some (eTrap trMSHAPE)
  else if a % 32 ≠ 0 ∨ g.gPitch % 32 ≠ 0 ∨ g.scb % 8 ≠ 0 ∨ g.gSpitch % 8 ≠ 0 ∨ (idx ∧ b % 4 ≠ 0) then
    some (eTrap trALIGN)
  else
    match if idx then s.checkRanges [(b, 256, 1)] else none with
    | some t => some t
    | none =>
      (List.range (if bc then 1 else 16)).findSome? fun slab =>
        s.checkRanges ((s.gatherRows idx b slab).flatMap fun q =>
          [(a + (q * g.gPitch : Nat), g.gLen, 1), ((g.scb + q * g.gSpitch : Nat), g.gSlen, 1)])

/-- The checks of R226 for one word. -/
def State.checkE (s : State) (w : EWork) : Option Trap :=
  match w.op with
  | .mma k _ _ _ bc _ =>
    if mmaShapeOk k w.geo = false then some (eTrap trMSHAPE)
    else if w.geo.k = 0 then none
    else s.checkRanges (mmaRanges k w.geo w.a.toInt w.b.toInt) <|>
      if k = .sparse then s.checkSparse w.geo w.b.toInt bc else none
  | .mzero _ _ => none
  | .mdecay _ _ _ _ row => if row then s.checkRanges [(w.a.toInt, 256, 4)] else none
  | .mdrain _ _ _ _ _ => s.checkDrain w.geo w.a.toInt w.b.toInt
  | .mgath _ bc idx => s.checkGather w.geo bc idx w.a.toInt w.b.toInt

/-- A word with the gather indices read at issue. -/
def State.capture (s : State) (w : EWork) : EWork :=
  match w.op with
  | .mgath _ bc idx => { w with idx := (List.range 16).map fun slab => s.gatherRows idx w.b.toInt (if bc then 0 else slab) }
  | _ => w

/-! ### MMA, SMMA, TMMA (R221, R227-R229) -/

/-- The elements of one slot held as a number, with their scales. -/
def slotElems (fm : Nat) (ftz : Bool) (n str : Nat) (scale : Nat → Option Nat) : List (FVal × Flags) :=
  (List.range n).map fun q => mElem fm ftz (scale (q / 32)) (packedAt str (mBits fm) q)

/-- Row i of A in a slab, all K elements. -/
def State.rowA (s : State) (g : Geo) (ftz : Bool) (a slab i : Nat) : List (FVal × Flags) :=
  (List.range g.steps).flatMap fun p =>
    let n := mSlot g.afmt
    let scale (c : Nat) : Option Nat :=
      if g.amx = false then none
      else if g.asrc = 0 then some (s.plateNum s.part slab (g.asb + 64 * g.perStep * p + g.perStep * i + c) 1)
      else some (s.abufNum (g.asrc - 2) slab (24576 + 32 * i + g.perStep * p + c) 1)
    slotElems g.afmt ftz (mStep g.afmt)
      (if g.asrc = 0 then s.plateNum s.part slab (a + 64 * n * p + n * i) n else s.abufNum (g.asrc - 2) slab (384 * i + n * p) n)
      scale

/-- Column j of dense B. -/
def State.colB (s : State) (g : Geo) (ftz : Bool) (b slab j : Nat) : List (Nat × FVal × Flags) :=
  ((List.range g.steps).flatMap fun p =>
    let n := mSlot g.bfmt
    slotElems g.bfmt ftz (mStep g.bfmt) (s.plateNum s.part slab (b + 64 * n * p + n * j) n) fun c =>
      if g.bmx then some (s.plateNum s.part slab (g.bsb + 64 * g.perStep * p + g.perStep * j + c) 1) else none).mapIdx
    fun k v => (k, v.1, v.2)

/-- Column j of compressed B: only the positions present (R229). -/
def State.colSparse (s : State) (g : Geo) (ftz : Bool) (b slab j : Nat) : List (Nat × FVal × Flags) :=
  (List.range (g.k / 48)).flatMap fun q =>
    let posMap := s.plateNum s.part slab (g.mbase + 512 * q + 8 * j) 6
    let n := mBits g.bfmt / 8
    ((bitList 48 posMap).take g.present).mapIdx fun k pos =>
      let v := mElem g.bfmt ftz none (s.plateNum s.part slab (b + 64 * g.sparseSlot * q + g.sparseSlot * j + k * n) n)
      (48 * q + pos, v.1, v.2)

/-- One cell: the products of a row and the present terms of a column. -/
def cellDot (cal : Calibre) (f : Fmt) (k c : Nat) (row : Array (FVal × Flags)) (col : List (Nat × FVal × Flags)) :
    Nat × Flags :=
  dot cal f k c (col.map fun t =>
    let x := row.getD t.1 (.fin false 0 0, flNone)
    let p := FVal.mul x.1 t.2.1
    (t.1, p.1, p.2 ||| x.2 ||| t.2.2))

/-- A product in one slab: the new cells with their flags. -/
def State.mmaSlab (s : State) (k : MmaKind) (t : Nat) (af : AccFmt) (cal : Calibre) (bc ip : Bool) (w : EWork)
    (slab : Nat) : List (Nat × Flags) :=
  let g := w.geo
  let from' := if bc then 0 else slab
  let b := w.b.toInt.toNat
  let rows := (List.range 64).map fun i => (s.rowA g (calFtz cal) w.a.toInt.toNat slab i).toArray
  let cols := (List.range 64).map fun j =>
    if k = .sparse then s.colSparse g (calFtz cal) b from' j else s.colB g (calFtz cal) b from' j
  (rows.mapIdx fun i row => cols.mapIdx fun j col =>
    cellDot cal (accFmt af) g.k (if ip then s.tile af t slab (64 * i + j) else 0) row col).flatten

/-- Every slab in turn: the new tiles and the OR of the flags. -/
def runSlabs (f : State → Nat → List (Nat × Flags)) (af : AccFmt) (t : Nat) (s : State) : State × Flags :=
  (List.range 16).foldl (fun r slab =>
    let out := f s slab
    let a := (out.map (·.1)).toArray
    (r.1.putTile af t slab fun ij => a.getD ij 0, r.2 ||| orFlags (out.map (·.2)))) (s, flNone)

/-! ### MZERO, MDECAY, MDRAIN, MGATH -/

/-- One cell of MDECAY (R232). -/
def decayCell (cal : Calibre) (f : Fmt) (factor c : Nat) : Nat × Flags :=
  let g := if calFtz cal && fmtF32.isSub factor then fmtF32.zeroLike factor else factor
  let c0 := if calFtz cal && f.isSub c then f.zeroLike c else c
  let p := FVal.mul (fmtF32.decode g) (f.decode c0)
  let r := f.sumOf [p.1]
  flushCell f (calFtz cal) (r.1, r.2 ||| p.2)

def State.decaySlab (s : State) (t : Nat) (af : AccFmt) (cal : Calibre) (bc row : Bool) (a : DWord) (slab : Nat) :
    List (Nat × Flags) :=
  (List.range 4096).map fun ij =>
    let factor := if row then s.plateNum s.part (if bc then 0 else slab) (a.toInt.toNat + 4 * (ij / 64)) 4 else a.toNat % 2 ^ 32
    decayCell cal (accFmt af) factor (s.tile af t slab ij)

/-- The value of a tile cell for a drain, flushed in its own view (R233). -/
def State.drainVal (s : State) (af : AccFmt) (cal : Calibre) (t slab ij : Nat) : FVal :=
  let c := s.tile af t slab ij
  (accFmt af).decode (if calFtz cal && (accFmt af).isSub c then (accFmt af).zeroLike c else c)

/-- The formats of MDRN.OFMT (R219). -/
def drainFmt : Nat → Fmt
  | 0 => fmtF32
  | 1 => fmtBf16
  | 2 => fmtF16
  | 3 => fmtE4m3
  | 4 => fmtE5m2
  | _ => fmtE2m1
def roundFrom (n : Nat) : RoundMode :=
  match n with
  | 0 => .rne
  | 1 => .rz
  | 2 => .ru
  | 3 => .rd
  | _ => .sr

/-- A block of an MX drain (R82). Of a block with a NaN cell R233 says otherwise than R82: a quiet NaN raises no NV, and into E4M3
a NaN is the canonical NaN; which of the two holds is one free constant (log 71). -/
def drainBlock (f : Fmt) (rm : RoundMode) (r16 : Nat → Nat) (vals : List FVal) : Nat × List Nat × Flags :=
  let r := mxBlock f rm r16 vals
  let loud (x : FVal) : Bool := match x with
    | .nan signalling => signalling
    | .inf _ => true
    | .fin _ _ _ => false
  if vals.any FVal.isNan && !Config.nanDrainByR82 then
    (r.1, vals.map fun x => if x.isNan ∧ f = fmtE4m3 then f.canon else 0, flagIf (vals.any loud) flNV)
  else r

/-- Row i of a drain in one slab: writes (slab, offset, byte) in order, and the flags. -/
def State.drainRow (s : State) (w : EWork) (t : Nat) (af : AccFmt) (cal : Calibre) (slab i : Nat) :
    List (Nat × Nat × Byte) × Flags :=
  let g := w.geo
  let f := drainFmt g.ofmt
  let rm := roundFrom (bits g.drn 3 3)
  let place (j : Nat) : Nat := if bit g.drn 7 then 64 * j + i else 64 * i + j
  let h := s.stream.drawBase w.addr
  let r16 (j : Nat) : Nat := if rm = .sr then (s.stream.rngword (h ^^^ BitVec.ofNat 64 (slab * 4096 + place j))).toNat % 65536 else 0
  let val (j : Nat) : FVal := s.drainVal af cal t slab (place j)
  let base := w.a.toInt.toNat + i * g.pitch
  let run (o : Nat) (l : List Byte) : List (Nat × Nat × Byte) := l.mapIdx fun k x => (slab, o + k, x)
  if g.drainMx then
    let blocks := (List.range 2).map fun blk =>
      (blk, drainBlock f rm (fun k => r16 (32 * blk + k)) ((List.range 32).map fun k => val (32 * blk + k)))
    (blocks.flatMap fun x =>
      run (base + x.1 * 4 * g.drainBits) (toBytes (4 * g.drainBits) (packElems g.drainBits x.2.2.1)) ++
        run (w.b.toInt.toNat + i * g.spitch + x.1) [BitVec.ofNat 8 x.2.1],
      orFlags (blocks.map fun x => x.2.2.2))
  else
    let out := (List.range 64).map fun j => convert f rm (r16 j) (bit g.drn 6) (val j)
    (run base (out.flatMap fun x => toBytes (g.drainBits / 8) x.1), orFlags (out.map (·.2)))

/-- MDRAIN. -/
def runDrain (w : EWork) (t : Nat) (af : AccFmt) (cal : Calibre) (clr : Bool) (s : State) : State × Flags :=
  let rows := (List.range 16).flatMap fun slab => (List.range 64).map fun i => s.drainRow w t af cal slab i
  let s1 := s.putPlates s.part (rows.flatMap (·.1))
  let s2 := if clr then (List.range 16).foldl (fun s slab => s.putTile af t slab fun _ => 0) s1 else s1
  (s2, orFlags (rows.map (·.2)))

/-- MGATH (R235). -/
def runGather (w : EWork) (ab : Nat) (bc : Bool) (s : State) : State :=
  let g := w.geo
  (List.range 16).foldl (fun r slab =>
    let from' := if bc then 0 else slab
    let qs := (w.idx.getD slab []).toArray
    { r with abuf := r.abuf.blit (abufBase ab slab) 26624 fun o =>
        if o < 24576 then
          (if o % 384 < g.gLen then s.plate s.part from' ((w.a.toInt.toNat) + qs.getD (o / 384) 0 * g.gPitch + o % 384) else 0)
        else if (o - 24576) % 32 < g.gSlen then
          s.plate s.part from' (g.scb + qs.getD ((o - 24576) / 32) 0 * g.gSpitch + (o - 24576) % 32)
        else 0 }) s

/-- The effect of one word, with its flags. -/
def runE (w : EWork) (s : State) : State × Flags :=
  match w.op with
  | .mma k t af cal bc ip => runSlabs (fun s slab => s.mmaSlab k t af cal bc ip w slab) af t s
  | .mzero t af => ((List.range 16).foldl (fun s slab => s.putTile af t slab fun _ => 0) s, flNone)
  | .mdecay t af cal bc row => runSlabs (fun s slab => s.decaySlab t af cal bc row w.a slab) af t s
  | .mdrain t af cal _ clr => runDrain w t af cal clr s
  | .mgath ab bc _ => (runGather w ab bc s, flNone)

/-- The barrier of a word, where it arrives at one. -/
def EWork.bar (w : EWork) : Option (Fin 64) :=
  match w.op with
  | .mdrain _ _ _ true _ => some (Fin.ofNat 64 (bits w.geo.drn 8 6))
  | _ => none
/-- The plate bytes that a word reads: slab, offset, count. A row slot and a metadata word are read whole, the bytes of them that
are ignored with the others (R220, R229); of compressed B the values that the metadata names (log 86). -/
def State.readsOf (s : State) (w : EWork) : List (Nat × Nat × Nat) :=
  let g := w.geo
  let a := w.a.toInt
  match w.op with
  | .mma k _ _ _ bc _ =>
    let every (l : List (Int × Nat × Nat)) (only : Bool) : List (Nat × Nat × Nat) :=
      (List.range 16).flatMap fun slab => l.map fun r => (if only then 0 else slab, r.1.toNat, r.2.1)
    let nA := (if g.asrc = 0 then 1 else 0)
    let l := mmaRanges k g a w.b.toInt
    let scaleA := if g.amx ∧ g.asrc = 0 then [((g.asb : Int), 64 * g.perStep * g.steps, 64 * g.perStep)] else []
    every (l.take nA ++ scaleA) false ++ every ((l.drop nA).filter fun r => !scaleA.contains r) bc ++
      if k = .sparse then
        (List.range (if bc then 1 else 16)).flatMap fun slab =>
          (s.sparseReads g w.b.toInt slab).map fun r => (slab, r.1.toNat, r.2)
      else []
  | .mdecay _ _ _ bc row => if row then (List.range 16).map fun slab => (if bc then 0 else slab, a.toNat, 256) else []
  | .mgath _ bc idx =>
    (List.range 16).flatMap fun slab =>
      let home := if bc then 0 else slab
      (if idx then [(home, w.b.toInt.toNat, 256)] else []) ++ (w.idx.getD slab []).flatMap fun q =>
        [(home, a.toNat + q * g.gPitch, g.gLen), (home, g.scb + q * g.gSpitch, g.gSlen)]
  | _ => []
/-- Whether a word consumes a plate word that cannot be corrected (R105). -/
def State.consumesBad (s : State) (w : EWork) : Bool :=
  !s.platePoison.isEmpty && (s.readsOf w).any fun r => s.platesBad s.part r.1 r.2.1 r.2.2

/-- Whether a word writes a tile or an A buffer (R246, R371). -/
def EWork.spoils (w : EWork) : Bool :=
  match w.op with
  | .mdrain _ _ _ _ clr => clr
  | _ => true

/-! ### The queue (R242, R243) -/

/-- A queue of 8 instructions not yet begun. -/
def State.matrixFull (s : State) : Bool := decide (8 ≤ (s.matrix.filter fun e => !e.begun).length)

def State.enqueue (fl : Flags) (bar : Option (Fin 64)) (s : State) : State :=
  { s with matrix := s.matrix ++ [⟨s.part, false, fl, bar, none, true⟩], matrixCount := s.matrixCount + 1 }

/-- One queued word of the stream: full queue, checks, effect, entry. -/
def acceptE (w : EWork) (s : State) : State :=
  match s.checkE w with
  | some t => s.takeTrap t
  | none =>
    if s.consumesBad (s.capture w) then s.takeTrap (eTrap trUNCORR)
    else if s.matrixFull then s.holdFor .stall
    else
      let r := runE (s.capture w) s
      let s1 := r.1.enqueue r.2 w.bar
      if w.spoils then s1.spoil else s1

/-- The address of the E word of the bundle at the PC. -/
def State.eAddr (s : State) : DWord := BitVec.ofNat 64 (s.stream.pc.toNat / 32 * 32 + 24)
def State.work (s : State) (op : EOp) (a b : DWord) : EWork := ⟨op, a, b, s.geo, s.eAddr, []⟩

/-- A product of the stream; where ASRC is not 0 the sA field is zero (R225; log 12). -/
def opMma (k : MmaKind) (o : MmaOp) (s : State) : State :=
  if s.geo.asrc ≠ 0 ∧ (o.sa ≠ 0 ∨ o.hold = .latch false ∨ o.hold = .held false) then s.takeTrap (eTrap trILLEGAL)
  else s.cword false o.hold o.sa o.sb fun a b s => acceptE (s.work (.mma k o.tile.val o.af o.cal o.bc o.ip) a b) s
def execMma (o : MmaOp) (s : State) : Out := .next (opMma .dense o s)
def execSmma (o : MmaOp) (s : State) : Out := .next (opMma .sparse o s)
def execTmma (o : MmaOp) (s : State) : Out := .next (opMma .ternary o s)

def opMzero (o : MzeroOp) (s : State) : State := acceptE (s.work (.mzero o.tile.val o.af) 0 0) s
def execMzero (o : MzeroOp) (s : State) : Out := .next (opMzero o s)
def opMdecay (o : MdecayOp) (s : State) : State :=
  s.cword false o.hold o.sa 0 fun a _ s => acceptE (s.work (.mdecay o.tile.val o.af o.cal o.bc o.row) a 0) s
def execMdecay (o : MdecayOp) (s : State) : Out := .next (opMdecay o s)
def opMdrain (o : MdrainOp) (s : State) : State :=
  s.cword false o.hold o.sa o.sb fun a b s => acceptE (s.work (.mdrain o.tile.val o.af o.cal o.bar o.clr) a b) s
def execMdrain (o : MdrainOp) (s : State) : Out := .next (opMdrain o s)
def opMgath (o : MgathOp) (s : State) : State :=
  s.cword false o.hold o.sa o.sb fun a b s => acceptE (s.work (.mgath o.ab.val o.bc o.idx) a b) s
def execMgath (o : MgathOp) (s : State) : Out := .next (opMgath o s)

/-! ### MSAVE and MREST (R236) -/

/-- The selected items with their sizes: 0-7 banks, 8 and 9 A buffers. -/
def saveItems (mask : DWord) : List (Nat × Nat) :=
  (bitList 10 mask.toNat).map fun k => (k, if k < 8 then 262144 else 425984)
def saveSize (mask : DWord) : Nat := ((saveItems mask).map (·.2)).foldl (· + ·) 0
/-- The items with their first byte in the span. -/
def saveStarts (mask : DWord) : List (Nat × Nat × Nat) :=
  ((saveItems mask).foldl (fun (r : List (Nat × Nat × Nat) × Nat) x => (r.1 ++ [(x.1, r.2, x.2)], r.2 + x.2)) ([], 0)).1

/-- The checks of R236, in order. -/
def State.checkSave (s : State) (write : Bool) (a : Int) (mask : DWord) : Option Trap :=
  let t := s.stream.theTask
  let w := bits s.geo.sv 0 4
  if write ∧ s.stream.pure then some (eTrap trPURITY)
  else if a % 64 ≠ 0 then some (eTrap trALIGN)
  else
    match t.checkAccess w a (saveSize mask) .save with
    | some tr => some { tr with slot := 6 }
    | none =>
      if (t.win w).attr = .spill ∧ a < 524288 then
        some { eTrap trWINDOW with win := w, cause := 0, info := lowBits 64 ((t.win w).va a) }
      else none

/-- Byte o of an item. -/
def State.saveByte (s : State) (item o : Nat) : Byte :=
  if item < 8 then BitVec.ofNat 8 (bits (s.stream.acc.get (item * 65536 + o / 4)).toNat (8 * (o % 4)) 8)
  else s.abuf.get ((item - 8) * 425984 + o)
/-- Writes an item from its bytes. -/
def State.restoreItem (item n : Nat) (f : Nat → Byte) (s : State) : State :=
  if item < 8 then
    s.onStream fun x => { x with acc := (x.acc.blit (item * 65536) (n / 4) fun k =>
      BitVec.ofNat 32 (ofBytes ((List.range 4).map fun b => f (4 * k + b)))) }
  else { s with abuf := s.abuf.blit ((item - 8) * 425984) n f }

/-- What stops MSAVE and MREST. -/
def State.saveBlock (write : Bool) (a : Int) (mask : DWord) (s : State) : Option State :=
  let t := s.stream.theTask
  let w := bits s.geo.sv 0 4
  match s.checkSave write a mask with
  | some tr => some (s.takeTrap tr)
  | none =>
    match t.missing w ((t.win w).va a).toNat (saveSize mask) with
    | some va => some (s.holdFor (.lazyPage w va))
    | none => if s.matrixFull then some (s.holdFor .stall) else none

/-- The barrier of `.bar`. -/
def State.saveBar (s : State) (bar : Bool) : Option (Fin 64) :=
  if bar then some (Fin.ofNat 64 (bits s.geo.sv 4 6)) else none

def opMsave (o : MsaveOp) (s : State) : State :=
  s.cword false o.hold o.sa o.sb fun a b s =>
    match s.saveBlock true a.toInt b with
    | some r => r
    | none =>
      let w := bits s.geo.sv 0 4
      let l := (saveStarts b).flatMap fun x => (List.range x.2.2).map fun k =>
        (s.m1Phys w (a.toInt + (x.2.1 : Nat)) k, s.saveByte x.1 k)
      (s.writeMain (some ⟨s.part, .mx, none⟩) 1 noKey l).enqueue flNone (s.saveBar o.bar)
def execMsave (o : MsaveOp) (s : State) : Out := .next (opMsave o s)

def opMrest (o : MsaveOp) (s : State) : State :=
  s.cword false o.hold o.sa o.sb fun a b s =>
    match s.saveBlock false a.toInt b with
    | some r => r
    | none =>
      let w := bits s.geo.sv 0 4
      if (saveStarts b).any fun x => (List.range x.2.2).any fun k => s.poisoned (s.m1Phys w (a.toInt + (x.2.1 : Nat)) k) then
        s.takeTrap (eTrap trUNCORR)
      else
        let s1 := (saveStarts b).foldl (fun r x =>
          r.restoreItem x.1 x.2.2 fun k => s.seen (some s.part) .mx (s.m1Phys w (a.toInt + (x.2.1 : Nat)) k)) s
        let s2 := ((s1.draw).touchAll s.part ((saveStarts b).flatMap fun x =>
          (List.range x.2.2).map fun k => s.m1Phys w (a.toInt + (x.2.1 : Nat)) k)).enqueue flNone (s.saveBar o.bar)
        if (saveItems b).isEmpty then s2 else s2.spoil
def execMrest (o : MsaveOp) (s : State) : Out := .next (opMrest o s)

/-! ### MSET, EWR, ERD, MWAIT (R237, R238, R242) -/

def State.setM (n : Fin 8) (v : DWord) (s : State) : State := s.onStream fun x => { x with m := x.m.set n v }

/-- MSET. -/
def opMset (o : MsetOp) (s : State) : State :=
  if o.get then s.setS o.sa s.stream.m[o.mn]
  else s.cword false o.hold o.sa 0 fun a _ s => (s.setM o.mn a).spoil
def execMset (o : MsetOp) (s : State) : Out := .next (opMset o s)

/-- n ones from bit lo on. -/
def onesAt (lo n : Nat) : Nat := (2 ^ n - 1) * 2 ^ lo
/-- The RW bits of the engine registers that EWR may name (R7, R112, R136, R219, R288). -/
def eMask (n : Nat) : Nat :=
  match n with
  | 0 => onesAt 0 40
  | 1 => onesAt 0 23
  | 48 => onesAt 0 12 + onesAt 16 13
  | 49 => onesAt 0 22 + onesAt 32 22
  | 50 => onesAt 0 14 + onesAt 16 32
  | 51 => onesAt 0 22 + onesAt 32 1
  | 52 => onesAt 0 31 + onesAt 32 16
  | 53 => onesAt 0 22
  | 54 => onesAt 0 10
  | _ =>
    if 16 ≤ n ∧ n < 32 ∧ n % 4 = 0 then onesAt 0 47 + onesAt 48 5
    else if 32 ≤ n ∧ n < 48 then
      (match n % 4 with
       | 0 => onesAt 0 22 + onesAt 32 22
       | 1 => onesAt 0 22 + onesAt 32 16
       | 2 => onesAt 0 7 + onesAt 8 3 + onesAt 13 9
       | _ => onesAt 0 64)
    else onesAt 0 64

/-- EWR. -/
def opEwr (o : EregOp) (s : State) : State :=
  s.cword false o.hold o.sa 0 fun a _ s =>
    s.onStream (Stream.setE o.n (a &&& BitVec.ofNat 64 (eMask o.n.val)))
def execEwr (o : EregOp) (s : State) : Out := .next (opEwr o s)

/-- ERD; of e8-e15 it waits until the channel's packets have claimed their slots (R136). -/
def opErd (o : EregOp) (s : State) : State :=
  let n := o.n.val
  if 8 ≤ n ∧ n < 16 ∧ !((s.pt s.part).queues.toArray.getD (n - 8) CopyQueue.cleared).issued.isEmpty then s.holdFor .stall
  else s.setS o.sa (if 55 ≤ n then 0 else s.stream.ereg o.n)
def execErd (o : EregOp) (s : State) : Out := .next (opErd o s)

/-- MWAIT issues; the next group waits for the matrix instructions before it. -/
def opMwait (s : State) : State := s.onStream fun x => { x with mwait := some s.matrixCount }
def execMwait (s : State) : Out := .next (opMwait s)

/-! ### Routines (R218, R239, R240) -/

/-- Whether a word of a routine carries a calibre. -/
def carriesCal (w : Nat) : Bool := [1, 2, 3, 5, 6].contains (field w 25 6)
/-- A routine word: the instruction, and whether its calibre is the caller's (calibre field 0). -/
def routineWord (w : Nat) : Except DecodeErr (Instr × Bool) :=
  if carriesCal w ∧ field w 5 4 = 0 then (decodeSlot 6 (w + 32)).map fun i => (i, true)
  else (decodeSlot 6 w).map fun i => (i, false)

/-- The operation of an instruction that may stand in a routine, with the numbers of its sA and sB fields; `c` replaces
the calibre. -/
def eopOf (i : Instr) (c : Calibre → Calibre) : Option (EOp × Nat × Nat × Hold) :=
  match i with
  | .mma o => some (.mma .dense o.tile.val o.af (c o.cal) o.bc o.ip, o.sa.val, o.sb.val, o.hold)
  | .smma o => some (.mma .sparse o.tile.val o.af (c o.cal) o.bc o.ip, o.sa.val, o.sb.val, o.hold)
  | .tmma o => some (.mma .ternary o.tile.val o.af (c o.cal) o.bc o.ip, o.sa.val, o.sb.val, o.hold)
  | .mzero o => some (.mzero o.tile.val o.af, 0, 0, .off)
  | .mdecay o => some (.mdecay o.tile.val o.af (c o.cal) o.bc o.row, o.sa.val, 0, o.hold)
  | .mdrain o => some (.mdrain o.tile.val o.af (c o.cal) o.bar o.clr, o.sa.val, o.sb.val, o.hold)
  | .mgath o => some (.mgath o.ab.val o.bc o.idx, o.sa.val, o.sb.val, o.hold)
  | _ => none

/-- Whether an instruction may stand in a routine (R240). -/
def mayStandInRoutine : Instr → Bool
  | .nop => true
  | i =>
    match eopOf i id with
    | none => false
    | some (_, a, b, h) => h == .off && decide (a < 8) && decide (b < 8)
/-- What is wrong with a routine word (R240): ILLEGAL by its other fields, then CALIBRE. -/
def routineFault (w : Nat) : Option DecodeErr :=
  if bit w 31 then some .illegal
  else
    match decodeSlot 6 (if carriesCal w then setBits w 5 4 1 else w) with
    | .error _ => some .illegal
    | .ok i =>
      if mayStandInRoutine i = false then some .illegal
      else if carriesCal w ∧ 7 ≤ field w 5 4 then some .calibre
      else none

/-- The words of a routine; one never installed is all NOP (R218). -/
def Partition.routine (t : Partition) (n : Fin 128) : List Word :=
  ((t.routines.find? fun r => r.1 == n).map (·.2)).getD (List.replicate 16 0)
/-- Installs a routine. -/
def Partition.install (n : Fin 128) (l : List Word) (t : Partition) : Partition :=
  { t with routines := (n, l) :: t.routines.filter fun r => r.1 != n }

/-- The traps of an image: ILLEGAL of any word, then CALIBRE of any word. -/
def imageTrap (l : List Nat) : Option Trap :=
  if l.any fun w => routineFault w == some .illegal then some (eTrap trILLEGAL)
  else if l.any fun w => routineFault w == some .calibre then some (eTrap trCALIBRE)
  else none

/-- MUPD (R240). -/
def opMupd (o : C2Op) (s : State) : State :=
  s.cword false o.hold o.sa o.sb fun a b s =>
    let n : Fin 128 := Fin.ofNat 128 a.toNat
    match s.checkRanges [(b.toInt, 64, 64)] with
    | some t => s.takeTrap t
    | none =>
      let words := toWords 4 (s.plateBytes s.part 0 b.toInt.toNat 64) 16
      match imageTrap words with
      | some t => s.takeTrap t
      | none =>
        if s.platesBad s.part 0 b.toInt.toNat 64 then s.takeTrap (eTrap trUNCORR)
        else if s.matrix.any fun e => e.part == s.part && e.routine == some n && !e.current then s.holdFor .stall
        else
          let s1 := s.onPart s.part (Partition.install n (words.map (BitVec.ofNat 32)))
          { s1 with matrix := s1.matrix.map fun e =>
              if e.part = s.part ∧ e.routine = some n then { e with current := false } else e }
def execMupd (o : C2Op) (s : State) : Out := .next (opMupd o s)

/-- The words of a call with the captured values; NOP words drop out. -/
def callWork (s : State) (m : Vector DWord 8) (cal : Calibre) (l : List Word) : List (Nat × EWork) :=
  (l.mapIdx fun k w => (k, w.toNat)).filterMap fun kw =>
    match routineWord kw.2 with
    | .ok (i, cx) =>
      (eopOf i fun c => if cx then cal else c).map fun e =>
        (kw.1, { op := e.1, a := m.toArray.getD e.2.1 0, b := m.toArray.getD e.2.2.1 0, geo := s.geo,
                 addr := s.eAddr + BitVec.ofNat 64 (2 ^ 48 * (kw.1 + 1)), idx := [] })
    | .error _ => none

/-- The first product of a routine whose sA field is not zero although ASRC is not 0 (R225). -/
def State.badRoutineWord (s : State) (l : List Word) : Option Nat :=
  if s.geo.asrc = 0 then none
  else (l.mapIdx fun k w => (k, w.toNat)).findSome? fun kw =>
    if [1, 2, 3].contains (field kw.2 25 6) ∧ field kw.2 20 5 ≠ 0 then some kw.1 else none

/-- MCALL (R239): all checks at issue, then the words in order as one entry. -/
def opMcall (o : McallOp) (s : State) : State :=
  s.cword false o.hold o.sa o.sb fun a b s =>
    let n : Fin 128 := Fin.ofNat 128 a.toNat
    let work := callWork s (s.stream.m.set 7 b) o.cal ((s.pt s.part).routine n)
    match ((s.badRoutineWord ((s.pt s.part).routine n)).map fun k => { eTrap trILLEGAL with word := k }) <|>
        (work.findSome? fun kw => (s.checkE kw.2).map fun t => { t with word := kw.1 }) with
    | some t => s.takeTrap t
    | none =>
      if work.any fun kw => s.consumesBad (s.capture kw.2) then s.takeTrap (eTrap trUNCORR)
      else if s.matrixFull then s.holdFor .stall
      else
        let ready := work.map fun kw => s.capture kw.2
        let r := ready.foldl (fun (r : State × Flags) w =>
          let q := runE w r.1
          (q.1, r.2 ||| q.2)) (s.setM 7 b, flNone)
        let bars := ready.filterMap EWork.bar
        let entries := (bars.dropLast.map fun x => MatrixEntry.mk s.part true flNone (some x) (some n) true) ++
          [⟨s.part, false, r.2, bars.getLast?, some n, true⟩]
        ({ r.1 with matrix := r.1.matrix ++ entries, matrixCount := r.1.matrixCount + entries.length }).spoil
def execMcall (o : McallOp) (s : State) : Out := .next (opMcall o s)

/-! ### The unit's steps (R242, R243) -/

/-- Begins the first entry that has not begun. -/
def beginFirst : List MatrixEntry → List MatrixEntry
  | [] => []
  | e :: t => if e.begun then e :: beginFirst t else { e with begun := true } :: t
/-- MATRIX_BEGIN: the unit takes the next instruction of its queue. -/
def opMatrixBegin (s : State) : State := { s with matrix := beginFirst s.matrix }
def execMatrixBegin (s : State) : Out := .next (opMatrixBegin s)

/-- MATRIX_COMPLETE: the oldest begun instruction completes: its flags reach FLAGS, its arrival is made (R33, R242). -/
def opMatrixComplete (s : State) : State :=
  match s.matrix with
  | [] => s
  | e :: rest =>
    if e.begun = false then s
    else
      let s1 := ({ s with matrix := rest }).onCtx e.part (Stream.raise e.flags)
      match e.bar with
      | none => s1
      | some b => s1.arriveAt e.part b
def execMatrixComplete (s : State) : Out := .next (opMatrixComplete s)

end Sys2Proof.Machine
end

