-- ==== Sys2Proof/Machine/Rows.lean ====
section
/-!
DEFINITION. The shared landing rows of the slabs, through which every flow delivers into the plates (R115, R118).
-/
namespace Sys2Proof.Machine

/-- The place of a flow in the fixed order of grants (R118). -/
def RowFlow.rank : RowFlow → Nat
  | .exchange d => 9 * d.val
  | .copyDim d ch => 9 * d.val + 1 + ch.val
  | .copyLocal ch => 9 * 14 + ch.val

/-- The flows in the order of grants. -/
def rowFlows : List RowFlow :=
  ((List.finRange 14).flatMap fun d => RowFlow.exchange d :: (List.finRange 8).map fun c => RowFlow.copyDim d c) ++
    (List.finRange 8).map RowFlow.copyLocal

/-- The row that a flow requests first in a slab: slot x0's first, of one slot's the oldest (R118, R299). -/
def State.firstRow (s : State) (slab : Fin 16) (f : RowFlow) : Option RowItem :=
  (List.finRange 4).findSome? fun k => s.rowsWaiting.find? fun r => r.slab == slab && r.flow == f && r.slot == k
/-- The grants of one cycle in one slab: one row to each flow that requests one, in the fixed order, as far as free rows go
(R118). -/
def State.slabGrants (s : State) (slab : Fin 16) : List RowItem :=
  let free := 32 - (s.rowsFull.filter fun r => r.slab == slab).length
  (rowFlows.filterMap (s.firstRow slab)).take free

/-- Removes the first occurrence of each of some rows. -/
def dropRows (gone l : List RowItem) : List RowItem := gone.foldl (fun l r => l.erase r) l

/-- LANDING_ROW_GRANT: one cycle's grants in every slab. -/
def opLandingRowGrant (s : State) : State :=
  let g := (List.finRange 16).flatMap s.slabGrants
  { s with rowsWaiting := dropRows g s.rowsWaiting, rowsFull := s.rowsFull ++ g }
def execLandingRowGrant (s : State) : Out := .next (opLandingRowGrant s)

/-- LANDING_ROW_DRAIN: the oldest full row of a slab is written into its plate bank and freed (R109, R115). -/
def opLandingRowDrain (slab : Fin 16) (s : State) : State :=
  match s.rowsFull.find? fun r => r.slab == slab with
  | none => s
  | some r => { s with rowsFull := s.rowsFull.erase r }.putPlates r.part (r.bytes.map fun (x : Nat × Byte) => (r.slab.val, x.1, x.2))
def execLandingRowDrain (slab : Fin 16) (s : State) : Out := .next (opLandingRowDrain slab s)

/-- Cuts a run of bytes of one slab's share at the rows of 256 bytes. -/
def cutRows : Nat → Nat → List Byte → List (Nat × List Byte)
  | 0, _, _ => []
  | _ + 1, _, [] => []
  | k + 1, o, l =>
    let n := 256 - o % 256
    (o, l.take n) :: cutRows k (o + n) (l.drop n)

/-- Requests rows for a run of bytes that begins at offset o of a slab's share. -/
def State.requestRows (f : RowFlow) (p : PartNo) (slab : Fin 16) (o : Nat) (l : List Byte) (s : State) : State :=
  { s with rowsWaiting := s.rowsWaiting ++ ((cutRows (l.length + 1) o l).map fun (x : Nat × List Byte) =>
      RowItem.mk f 0 p slab (x.2.mapIdx fun k b => (x.1 + k, b))) }

/-- Whether a flow of a partition has rows that are not yet drained. -/
def State.flowBusy (s : State) (f : RowFlow) (p : PartNo) : Bool :=
  (s.rowsWaiting ++ s.rowsFull).any fun r => r.flow == f && r.part == p

end Sys2Proof.Machine
end

