-- ==== Sys2Proof/Machine/Queues.lean ====
section
/-!
DEFINITION. Queues in home memory, copy queues and task queues alike: headers, rings and claims (R121, R122); the packet's
fields and what makes a packet valid (R124-R126).
-/
namespace Sys2Proof.Machine

/-! ### Headers and rings -/

/-- What a header says (R121). -/
structure QueueView where
  hdr : Nat
  wr : Nat
  done : Nat
  ring : Nat
  size : Nat
  deriving DecidableEq, Repr

/-- The header at a virtual address of a partition. -/
def State.queueAt (s : State) (p : PartNo) (hdr : Nat) : Option QueueView := do
  let wr ← s.vread64 p hdr
  let done ← s.vread64 p (hdr + 8)
  let w ← s.vread64 p (hdr + 16)
  pure ⟨hdr, wr, done, bits w 6 42 * 64, 2 ^ bits w 48 4⟩

/-- The header of channel c of a partition (R120, R341). -/
def State.copyHdr (s : State) (p : PartNo) (ch : Fin 8) : Nat := (s.pt p).bind.cqhdr.toNat + 64 * ch.val
def State.copyView (s : State) (p : PartNo) (ch : Fin 8) : Option QueueView := s.queueAt p (s.copyHdr p ch)
/-- The header of a partition's task queue. -/
def State.taskView (s : State) (p : PartNo) : Option QueueView := s.queueAt p (s.pt p).bind.tqhdr.toNat

/-- Where slot n mod S lies. -/
def QueueView.slot (v : QueueView) (n : Nat) : Nat := v.ring + 64 * (n % v.size)
/-- The phase of the lap of n. -/
def QueueView.phase (v : QueueView) (n : Nat) : Bool := bit (n / v.size) 0
/-- Whether a claim would find room (R122). -/
def QueueView.room (v : QueueView) : Bool := decide (v.wr < v.done + v.size)

/-- The eight words of slot n once they may be read and carry the lap's phase (R122). -/
def State.readySlot (s : State) (p : PartNo) (v : QueueView) (n : Nat) : Option (List Nat) :=
  if n + 1 ≤ v.done + v.size then
    match (List.range 8).mapM fun k => s.vread64 p (v.slot n + 8 * k) with
    | none => none
    | some ws => if bit (ws.getD 0 0) 63 == v.phase n then some ws else none
  else none

/-- A claim by the device: WRIDX advances, the slot is filled, its first word last (R122). -/
def State.claimSlot (p : PartNo) (v : QueueView) (ws : List Nat) (s : State) : State :=
  let n := v.wr
  let w0 := setBits (ws.getD 0 0) 63 1 (if v.phase n then 1 else 0)
  (((s.vput64 p v.hdr (n + 1)).vwrite p (v.slot n + 8) ((ws.drop 1).flatMap (toBytes 8))).vput64 p (v.slot n) w0)

/-- What reading a header and one of its slots does beside its answer (R99, R100). -/
def State.visitSlot (p : PartNo) (v : QueueView) (n : Nat) (s : State) : State := (s.visit p v.hdr 24).visit p (v.slot n) 64

/-- What a try to read a slot does where the header or the slot cannot be read: the walks and the lines as far as they come; a table
they find uncorrectable is poisoned (R99). -/
def State.tryQueue (p : PartNo) (hdr n : Nat) (s : State) : State :=
  match s.queueAt p hdr with
  | none => s.visit p hdr 24
  | some v => if (s.vread p (v.slot n) 64).isNone then s.visitSlot p v n else s
/-- Whether such a try would find a table uncorrectable that is not poisoned yet. -/
def State.freshlyBad (s : State) (p : PartNo) (va : Nat) : Bool :=
  (s.badTable (s.pt p).bind.root.toNat va).any fun t => !s.tablePoisoned t.1
/-- The same for the header of a queue or its slot n. -/
def State.queueBad (s : State) (p : PartNo) (hdr n : Nat) : Bool :=
  !s.poison.isEmpty && (s.freshlyBad p hdr || (s.queueAt p hdr).any fun v => s.freshlyBad p (v.slot n))

end Sys2Proof.Machine

namespace Sys2Proof

open Machine

/-- The packet in eight words of a slot. -/
def Packet.ofWords (ws : List Nat) : Packet :=
  let w (k : Nat) : DWord := BitVec.ofNat 64 (ws.getD k 0)
  { ctl := BitVec.ofNat 64 (setBits (ws.getD 0 0) 63 1 0), src := w 1, dst := w 2, len := w 3, flagAddr := w 4, flagVal := w 5,
    rsv := w 6 }
/-- Its image with STATUS zero. -/
def Packet.words (k : Packet) : List Nat :=
  [k.ctl.toNat, k.src.toNat, k.dst.toNat, k.len.toNat, k.flagAddr.toNat, k.flagVal.toNat, k.rsv.toNat, 0]

/-- Whether a packet is posted to a partner (R123, R126). -/
def Packet.posts (k : Packet) : Bool := k.kind == 3 || k.kind == 4 || (k.kind == 6 && k.remote)

/-- Reserved fields are zero (R124, R125). -/
def Packet.clean (k : Packet) : Bool := bits k.ctl.toNat 35 28 == 0 && bits k.len.toNat 40 24 == 0 && k.rsv == 0

end Sys2Proof

namespace Sys2Proof.Machine

/-- R124-R126: whether a packet of a writer is valid; otherwise it is BADPKT. -/
def validPacket (o : PacketOrigin) (k : Packet) : Bool :=
  let homeSp : Nat := if o = .host then 1 else 0
  let flagOk := !k.flagEn || o == .host || !k.flagSp
  k.clean &&
    match k.kind with
    | 0 => flagOk
    | 1 => o != .posted && k.srcSp == homeSp && (k.dstSp == homeSp || k.dstSp == 2) && flagOk
    | 2 => o != .posted && k.srcSp == homeSp && k.dstSp == homeSp && flagOk
    | 3 => o != .host && k.srcSp == 0 && (k.dstSp == 0 || k.dstSp == 2) && flagOk
    | 4 => o != .host && k.srcSp == 0 && k.dstSp == 0 && flagOk
    | 5 =>
      o != .posted && decide (k.dstSp < 2) && (if k.dir then k.dstSp == homeSp else k.srcSp == homeSp) && flagOk
    | 6 => (if k.remote then o != .host else o != .posted) && flagOk
    | _ => false

/-- STATUS codes (R127). -/
def stOK : Nat := 1
def stFAULT : Nat := 2
def stDENIED : Nat := 3
def stKEY : Nat := 4
def stRANGE : Nat := 5
def stATTR : Nat := 6
def stLENGTH : Nat := 7
def stALIGN : Nat := 8
def stBADPKT : Nat := 9
def stHOSTERR : Nat := 10
def stCANCEL : Nat := 11
def stUNCORR : Nat := 12
def stNOPART : Nat := 13
def stEXTENTS : Nat := 14
def statusOf (code faddr : Nat) : DWord := BitVec.ofNat 64 (code + faddr % 2 ^ 48 * 2 ^ 16)

/-- A queue of a partition, and a change of one. -/
def State.queue (s : State) (p : PartNo) (ch : Fin 8) : CopyQueue := (s.pt p).queues[ch]
def State.onQueue (p : PartNo) (ch : Fin 8) (f : CopyQueue → CopyQueue) : State → State :=
  State.onPart p fun t => { t with queues := t.queues.set ch (f t.queues[ch]) }

/-- The partition bound to a job (R123, R333); of two, the lower-numbered (log 88). -/
def State.partOfJob (s : State) (job : Word) : Option PartNo :=
  (List.finRange 4).find? fun p => (s.pt p).bound && (s.pt p).bind.job == job

end Sys2Proof.Machine
end

