-- ==== Sys2Proof/Machine/Scalar.lean ====
section
/-!
DEFINITION. Slot 1, class S: scalar integer arithmetic, addresses and the argument block (R144-R152).
-/
namespace Sys2Proof.Machine

/-- sd ← f(sa, sb) (R145, R146). -/
def opA3 (f : DWord → DWord → DWord) (o : A3Op) (s : State) : State := s.setS o.rd (f (s.sreg o.ra) (s.sreg o.rb))
/-- sd ← f(sa) (R147). -/
def opA2 (f : DWord → DWord) (o : A2Op) (s : State) : State := s.setS o.rd (f (s.sreg o.ra))
/-- sd ← f(sa, sext(imm15)) (R149). -/
def opImm (f : DWord → DWord → DWord) (o : ImmOp) (s : State) : State :=
  s.setS o.rd (f (s.sreg o.ra) (o.imm.signExtend 64))
/-- sd ← f(sa, shift) (R149). -/
def opShi (f : DWord → DWord → DWord) (o : ShiOp) (s : State) : State :=
  s.setS o.rd (f (s.sreg o.ra) (o.sh.zeroExtend 64))

/-- 1 or 0. -/
def oneIf (c : Bool) : DWord := if c then 1 else 0
/-- The shifts use bits [5:0] of the count (R145). -/
def shl64 (a b : DWord) : DWord := a <<< (b.toNat % 64)
def shr64 (a b : DWord) : DWord := a >>> (b.toNat % 64)
def sar64 (a b : DWord) : DWord := a.sshiftRight (b.toNat % 64)
/-- R146. -/
def mulHigh (a b : DWord) : DWord := BitVec.ofInt 64 (a.toInt * b.toInt / (2 ^ 64 : Nat))
def mulHighU (a b : DWord) : DWord := BitVec.ofNat 64 (a.toNat * b.toNat / 2 ^ 64)
def divS (a b : DWord) : DWord :=
  if b = 0 then BitVec.allOnes 64 else BitVec.ofInt 64 (a.toInt.tdiv b.toInt)
def divU (a b : DWord) : DWord := if b = 0 then BitVec.allOnes 64 else BitVec.ofNat 64 (a.toNat / b.toNat)
def remS (a b : DWord) : DWord := if b = 0 then a else BitVec.ofInt 64 (a.toInt.tmod b.toInt)
def remU (a b : DWord) : DWord := if b = 0 then a else BitVec.ofNat 64 (a.toNat % b.toNat)

def execAdd (o : A3Op) (s : State) : Out := .next (opA3 (· + ·) o s)
def execSub (o : A3Op) (s : State) : Out := .next (opA3 (· - ·) o s)
def execAnd (o : A3Op) (s : State) : Out := .next (opA3 (· &&& ·) o s)
def execOr (o : A3Op) (s : State) : Out := .next (opA3 (· ||| ·) o s)
def execXor (o : A3Op) (s : State) : Out := .next (opA3 (· ^^^ ·) o s)
def execAndn (o : A3Op) (s : State) : Out := .next (opA3 (fun a b => a &&& ~~~b) o s)
def execSll (o : A3Op) (s : State) : Out := .next (opA3 shl64 o s)
def execSrl (o : A3Op) (s : State) : Out := .next (opA3 shr64 o s)
def execSra (o : A3Op) (s : State) : Out := .next (opA3 sar64 o s)
def execSlt (o : A3Op) (s : State) : Out := .next (opA3 (fun a b => oneIf (a.slt b)) o s)
def execSltu (o : A3Op) (s : State) : Out := .next (opA3 (fun a b => oneIf (a.ult b)) o s)
def execSeq (o : A3Op) (s : State) : Out := .next (opA3 (fun a b => oneIf (a == b)) o s)
def execMin (o : A3Op) (s : State) : Out := .next (opA3 (fun a b => if b.slt a then b else a) o s)
def execMax (o : A3Op) (s : State) : Out := .next (opA3 (fun a b => if a.slt b then b else a) o s)
def execMinu (o : A3Op) (s : State) : Out := .next (opA3 (fun a b => if b.ult a then b else a) o s)
def execMaxu (o : A3Op) (s : State) : Out := .next (opA3 (fun a b => if a.ult b then b else a) o s)
def execMul (o : A3Op) (s : State) : Out := .next (opA3 (· * ·) o s)
def execMulh (o : A3Op) (s : State) : Out := .next (opA3 mulHigh o s)
def execMulhu (o : A3Op) (s : State) : Out := .next (opA3 mulHighU o s)
def execDiv (o : A3Op) (s : State) : Out := .next (opA3 divS o s)
def execDivu (o : A3Op) (s : State) : Out := .next (opA3 divU o s)
def execRem (o : A3Op) (s : State) : Out := .next (opA3 remS o s)
def execRemu (o : A3Op) (s : State) : Out := .next (opA3 remU o s)
def execClz (o : A2Op) (s : State) : Out := .next (opA2 (fun a => BitVec.ofNat 64 (leadZeros 64 a.toNat)) o s)
def execCtz (o : A2Op) (s : State) : Out := .next (opA2 (fun a => BitVec.ofNat 64 (trailZeros 64 a.toNat)) o s)
def execPopc (o : A2Op) (s : State) : Out := .next (opA2 (fun a => BitVec.ofNat 64 (popCount 64 a.toNat)) o s)
def execSext8 (o : A2Op) (s : State) : Out := .next (opA2 (fun a => (a.truncate 8).signExtend 64) o s)
def execSext16 (o : A2Op) (s : State) : Out := .next (opA2 (fun a => (a.truncate 16).signExtend 64) o s)
def execSext32 (o : A2Op) (s : State) : Out := .next (opA2 (fun a => (a.truncate 32).signExtend 64) o s)
def execZext8 (o : A2Op) (s : State) : Out := .next (opA2 (fun a => (a.truncate 8).zeroExtend 64) o s)
def execZext16 (o : A2Op) (s : State) : Out := .next (opA2 (fun a => (a.truncate 16).zeroExtend 64) o s)
def execZext32 (o : A2Op) (s : State) : Out := .next (opA2 (fun a => (a.truncate 32).zeroExtend 64) o s)

/-- SEL compares all 64 bits of sc with zero (R148). -/
def opSel (o : SelOp) (s : State) : State :=
  s.setS o.rd (if s.sreg o.rc = 0 then s.sreg o.rb else s.sreg o.ra)
def execSel (o : SelOp) (s : State) : Out := .next (opSel o s)

def execAddi (o : ImmOp) (s : State) : Out := .next (opImm (· + ·) o s)
def execAndi (o : ImmOp) (s : State) : Out := .next (opImm (· &&& ·) o s)
def execOri (o : ImmOp) (s : State) : Out := .next (opImm (· ||| ·) o s)
def execXori (o : ImmOp) (s : State) : Out := .next (opImm (· ^^^ ·) o s)
def execSlli (o : ShiOp) (s : State) : Out := .next (opShi shl64 o s)
def execSrli (o : ShiOp) (s : State) : Out := .next (opShi shr64 o s)
def execSrai (o : ShiOp) (s : State) : Out := .next (opShi sar64 o s)
def execSlti (o : ImmOp) (s : State) : Out := .next (opImm (fun a b => oneIf (a.slt b)) o s)
def execSltiu (o : ImmOp) (s : State) : Out := .next (opImm (fun a b => oneIf (a.ult b)) o s)

/-- SUI: sext64(imm20) << 15 (R150). -/
def opSui (o : SuiOp) (s : State) : State := s.setS o.rd (o.imm.signExtend 64 <<< 15)
def execSui (o : SuiOp) (s : State) : Out := .next (opSui o s)

/-- The address of the bundle the PC stands in (R29). -/
def bundleOf (pc : CodeAddr) : CodeAddr := pc >>> 5 <<< 5

/-- ADDPC: B + 32·sext(imm15) (R150). -/
def opAddpc (o : AddpcOp) (s : State) : State :=
  s.setS o.rd ((bundleOf s.stream.pc).zeroExtend 64 + 32 * o.imm.signExtend 64)
def execAddpc (o : AddpcOp) (s : State) : Out := .next (opAddpc o s)

/-- LDARG: 8 bytes of dispatch's copy of the argument block (R151). -/
def opLdarg (o : LdargOp) (s : State) : State :=
  let at' := ((s.sreg o.ra).toNat + 8 * o.slot8.toNat) % 256
  if at' % 8 ≠ 0 then s.takeTrap { num := trALIGN, slot := 1 }
  else s.setS o.rd (BitVec.ofNat 64 (ofBytes ((s.stream.theTask.args.drop at').take 8)))
def execLdarg (o : LdargOp) (s : State) : Out := .next (opLdarg o s)

/-- RDI: a loop index, zero-extended (R152). -/
def opRdi (o : RdiOp) (s : State) : State := s.setS o.rd (s.stream.i[o.n].zeroExtend 64)
def execRdi (o : RdiOp) (s : State) : Out := .next (opRdi o s)

end Sys2Proof.Machine
end

