-- ==== Sys2Proof/Machine/Control.lean ====
section
/-!
DEFINITION. Slot 0, class B: branches, calls, loops, DONE, SEG, services, traps, control registers (R158-R173, R366).
-/
namespace Sys2Proof.Machine

/-- NOP does nothing (R35). -/
def execNop (s : State) : Out := .next s

/-- The redirect that takes effect after the bundle's last group (R39). -/
def State.redirect (p : Pending) (s : State) : State := { s with stream := { s.stream with pend := some p } }

/-- B + 32·disp (R158). -/
def branchTarget (pc : CodeAddr) (disp : CodeAddr) : CodeAddr := bundleOf pc + 32 * disp

/-- BR (R159). -/
def opBr (disp : BitVec 25) (s : State) : State :=
  s.redirect (.branch (branchTarget s.stream.pc (disp.signExtend 48)))
def execBr (disp : BitVec 25) (s : State) : Out := .next (opBr disp s)

/-- The conditions of BRC on a signed value (R160). -/
def BrCond.holds (c : BrCond) (v : DWord) : Bool :=
  match c with
  | .eqz => v == 0
  | .nez => v != 0
  | .ltz => v.slt 0
  | .gez => !v.slt 0
  | .gtz => (0 : DWord).slt v
  | .lez => !(0 : DWord).slt v

/-- BRC (R160). -/
def opBrc (o : BrcOp) (s : State) : State :=
  if BrCond.holds o.cond (s.sreg o.ra) then s.redirect (.branch (branchTarget s.stream.pc (o.disp.signExtend 48))) else s
def execBrc (o : BrcOp) (s : State) : Out := .next (opBrc o s)

/-- BRV on a uniform predicate; a mixed one raises NONUNIF (R161). -/
def opBrv (o : BrvOp) (s : State) : State :=
  let p := s.preg o.pn
  if p = BitVec.allOnes 1024 ∨ p = 0 then
    if (decide (p = BitVec.allOnes 1024)) == o.onTrue then
      s.redirect (.branch (branchTarget s.stream.pc (o.disp.signExtend 48)))
    else s
  else s.takeTrap { num := trNONUNIF, slot := 0 }
def execBrv (o : BrvOp) (s : State) : Out := .next (opBrv o s)

/-! ### Loop ends (R166) -/

/-- The evaluation of loop ends at a bundle: the stack, the indices with the numbers of those written, and where fetch
goes if a loop goes round. -/
def loopEnds (addr : CodeAddr) : List LoopEntry → Vector Word 6 → List LoopEntry × Vector Word 6 × Option CodeAddr
  | [], i => ([], i, none)
  | t :: ls, i =>
    if t.stop = addr then
      let n := i[t.idx] + 1
      let i' := i.set t.idx n
      if n < t.count then (t :: ls, i', some t.start) else loopEnds addr ls i'
    else (t :: ls, i, none)

/-- Where fetch goes after a bundle that causes no other redirect. -/
def Stream.nextBundle (x : Stream) (addr : CodeAddr) : CodeAddr := ((loopEnds addr x.loops x.i).2.2).getD (addr + 32)

/-- The stack and indices after that evaluation; a written index is watched (R172). -/
def Stream.endLoops (addr : CodeAddr) (x : Stream) : Stream :=
  let r := loopEnds addr x.loops x.i
  Stream.watch (fun g => (List.finRange 6).any fun k => g.ilive.getLsbD k.val && (r.2.1[k] != x.i[k]))
    { x with loops := r.1, i := r.2.1 }

/-! ### Calls and returns (R162, R163) -/

/-- The lowest-numbered present SPILL window. -/
def Task.spillWin (t : Task) : Option Nat :=
  (List.range 16).find? fun w => (t.win w).len != 0 && (t.win w).attr == .spill

/-- Pushes a return address and redirects (R162): a full store spills its oldest entry into the SPILL window. -/
def opCall (target : CodeAddr) (s : State) : State :=
  let x := s.stream
  let ret := x.nextBundle (bundleOf x.pc)
  let t := x.theTask
  if x.ras.length < 16 then
    { s with stream := { x with ras := ret :: x.ras, pend := some (.call target) } }
  else
    match t.spillWin with
    | none => s.takeTrap { num := trCALLDEEP, slot := 0 }
    | some w =>
      if x.spilled.toNat = 0xFFFF ∨ (t.win w).len < 8 * (x.spilled.toNat + 1) then
        s.takeTrap { num := trCALLDEEP, slot := 0 }
      else
        let oldest := (x.ras.getLast?).getD 0
        let pa := t.phys w ((t.win w).base + 8 * x.spilled.toNat)
        let s1 := s.writeMain (some ⟨s.part, .st, none⟩) 8 noKey (bytesAt pa 8 oldest.toNat)
        { s1 with stream := { s1.stream with ras := ret :: x.ras.dropLast, spilled := x.spilled + 1, pend := some (.call target) } }

def execCall (disp : BitVec 25) (s : State) : Out :=
  .next (opCall (branchTarget s.stream.pc (disp.signExtend 48)) s)

/-- A target whose bits [4:0] are not zero raises ALIGN (R40), before a full store raises CALLDEEP: the spec does not order
the two (log 70). The PC holds 48 bits of the target (log 8). -/
def opCallr (ra : RegNo) (s : State) : State :=
  let t := (s.sreg ra).truncate 48
  if t.toNat % 32 ≠ 0 then s.takeTrap { num := trALIGN, slot := 0 } else opCall t s
def execCallr (ra : RegNo) (s : State) : Out := .next (opCallr ra s)

/-- RET pops the newest address, from the store or from the SPILL window (R163), of which an uncorrectable word raises UNCORR
(R105). -/
def opRet (s : State) : State :=
  let x := s.stream
  match x.ras with
  | a :: rest =>
    if a.toNat % 32 ≠ 0 then s.takeTrap { num := trALIGN, slot := 0 }
    else { s with stream := { x with ras := rest, pend := some (.branch a) } }
  | [] =>
    if x.spilled = 0 then s.takeTrap { num := trRETEMPTY, slot := 0 }
    else
      let t := x.theTask
      let w := (t.spillWin).getD 0
      let pa := t.phys w ((t.win w).base + 8 * (x.spilled.toNat - 1))
      let bytes := (List.range 8).map (pa + ·)
      let a := BitVec.ofNat 48 (ofBytes (bytes.map fun b => s.seen (some s.part) .st b))
      if bytes.any s.poisoned then s.takeTrap { num := trUNCORR, slot := 0 }
      else if a.toNat % 32 ≠ 0 then s.takeTrap { num := trALIGN, slot := 0 }
      else
        (s.draw.touchAll s.part bytes).onStream fun x => { x with spilled := x.spilled - 1, pend := some (.branch a) }
def execRet (s : State) : Out := .next (opRet s)

/-- JR (R163). -/
def opJr (ra : RegNo) (s : State) : State :=
  let t := (s.sreg ra).truncate 48
  if t.toNat % 32 ≠ 0 then s.takeTrap { num := trALIGN, slot := 0 } else s.redirect (.branch t)
def execJr (ra : RegNo) (s : State) : Out := .next (opJr ra s)

/-! ### Loops (R164, R165) -/

/-- LOOP and LOOPI. -/
def opLoop (idx : Fin 6) (count : Word) (len : BitVec 10) (s : State) : State :=
  let x := s.stream
  if x.loops.any fun e => e.idx == idx then s.takeTrap { num := trLOOPIDX, slot := 0 }
  else if x.loops.length = 6 then s.takeTrap { num := trLOOPDEEP, slot := 0 }
  else
    let b := bundleOf x.pc
    let stop := b + 32 * len.zeroExtend 48
    let x1 := x.setI idx 0
    if count = 0 then { s with stream := { x1 with pend := some (.skip stop) } }
    else { s with stream := { x1 with loops := ⟨idx, count, b + 32, stop⟩ :: x.loops } }

def execLoop (o : LoopOp) (s : State) : Out := .next (opLoop o.idx ((s.sreg o.rc).truncate 32) o.len s)
def execLoopi (o : LoopiOp) (s : State) : Out := .next (opLoop o.idx (o.count.zeroExtend 32) o.len s)

/-! ### DONE and SEG (R168, R172) -/

/-- A misuse of a drain stub (R366). -/
def State.inStub (s : State) : Bool := s.stream.stub.isSome
def State.stubTrap (slot : Nat) (s : State) : State := s.takeTrap { num := trSTUB, slot := slot }

/-- DONE ends the point after the bundle's last group (R168); it closes the segment (R173). -/
def opDone (s : State) : State := if s.inStub then s.stubTrap 0 else s.closeSeg.redirect .done
def execDone (s : State) : Out := .next (opDone s)

/-- SEG opens segment k (R172): a bad index or ENTRY makes the word ILLEGAL before a stub makes it STUB
(R41). The position of the group that follows is filled in when the group has issued. -/
def opSeg (k : BitVec 12) (s : State) : State :=
  let x := s.stream
  match x.theTask.segs[k.toNat]? with
  | none => s.takeTrap { num := trILLEGAL, slot := 0 }
  | some e =>
    if e.entry ≠ pcBundle x.pc then s.takeTrap { num := trILLEGAL, slot := 0 }
    else if s.inStub then s.stubTrap 0
    else
      { s with stream := { x with
            latchV := Vector.replicate 2 none, latchC := Vector.replicate 2 none,
            seg := some { stop := e.stop, slive := e.slive, vlive := e.vlive, plive := e.plive, ilive := e.ilive,
                          pc := x.pc, pend := x.pend, loops := x.loops, idxs := x.i, ras := x.ras, spilled := x.spilled,
                          flags := x.flags, overwritten := false, rewinds := 0, mismatched := false } } }
def execSeg (k : BitVec 12) (s : State) : Out := .next (opSeg k s)

/-! ### Services and traps (R169, R170, R366) -/

/-- PARK (R366): the group issues; the stream parks once the accepted E-class instructions are complete and its accesses are
performed. -/
def opPark (rd : RegNo) (s : State) : State :=
  if s.inStub then
    let s1 := (s.setS rd 0).spoil
    { s1 with stream := { s1.stream with wait := some .park } }
  else if s.stream.pure then s.takeTrap { num := trPURITY, slot := 0 }
  else s.stubTrap 0
def execPark (s : State) : Out := .next (opPark 0 s)

/-- Whether a stream may be parked or rewound: no accepted E-class instruction and no access of it is left (R366, R372). -/
def State.quiet (s : State) (p : PartNo) : Bool := !(s.matrix.any fun e => e.part == p) && s.accessesDone p
/-- Settles a PARK. -/
def State.settlePark (s : State) : State :=
  if s.quiet s.part then s.onStream fun x => { x with status := .parked, wait := none } else s.holdFor .stall

/-- UNSTUB (R366): back to the position set aside when the stub began. -/
def opUnstub (rd : RegNo) (s : State) : State :=
  match s.stream.stub with
  | none => if s.stream.pure then s.takeTrap { num := trPURITY, slot := 0 } else s.stubTrap 0
  | some r =>
    if r.calls = s.stream.ras.length ∧ r.spilled = s.stream.spilled then
      let s1 := (s.setS rd 0).spoil
      { s1 with stream := { s1.stream with pc := r.pc, pend := r.pend, loops := r.loops, latchV := r.latchV,
                                           latchC := r.latchC, wait := r.wait, stub := none } }
    else s.stubTrap 0
def execUnstub (s : State) : Out := .next (opUnstub 0 s)

/-- SYS (R169): services 2 to 255 are reserved (R366); for the others the request goes to the Regulator's firmware with the
service number and s1-s4, and the stream stops until it answers. -/
def opSys (o : SysOp) (s : State) : State :=
  if o.imm = 0 then opPark o.rd s
  else if o.imm = 1 then opUnstub o.rd s
  else if s.stream.pure then s.takeTrap { num := trPURITY, slot := 0 }
  else if o.imm.toNat < 256 then (s.setS o.rd (BitVec.allOnes 64)).spoil
  else
    let s1 := s.spoil.send (.sysRequest s.part o.imm ((List.range 4).map fun k => s.sreg (Fin.ofNat 32 (k + 1))))
    { s1 with stream := { s1.stream with wait := some (.sys o.rd o.imm) } }
def execSys (o : SysOp) (s : State) : Out := .next (opSys o s)

/-- The register and the service of a SYS that waits. -/
def Wait.sysReg? : Wait → Option (RegNo × BitVec 20)
  | .sys rd n => some (rd, n)
  | _ => none
/-- Whether a context waits for the firmware. -/
def Stream.waitsSys (x : Stream) : Bool := (x.wait.bind (·.sysReg?)).isSome || x.stub.any fun r => (r.wait.bind (·.sysReg?)).isSome
/-- What a service returns: all ones where the installed firmware does not provide it. -/
def sysAnswer (n : BitVec 20) (v : DWord) : DWord := if Config.firmwareProvides n.toNat then v else BitVec.allOnes 64
/-- The firmware's result, into the register of the oldest SYS that waits. -/
def Stream.answerSys (v : DWord) (x : Stream) : Stream :=
  match x.stub.bind fun r => r.wait.bind (·.sysReg?) with
  | some (rd, n) => { x.setS rd (sysAnswer n v) with stub := x.stub.map fun r => { r with wait := none } }
  | none =>
    match x.wait.bind (·.sysReg?) with
    | some (rd, n) => { x.setS rd (sysAnswer n v) with wait := none }
    | none => x

/-- SYS_SERVICE_COMPLETE: the firmware's result reaches sd and the stream resumes at the next group (R169); a parked
context takes it in its saved state. -/
def opSysServiceComplete (result : BitVec 64) (s : State) : State :=
  match (if s.stream.waitsSys then some s.part else none) <|>
      (List.finRange 4).find? (fun p => (s.ctx p).any fun x => x.waitsSys) with
  | none => s
  | some p => s.onCtx p (Stream.answerSys result)
def execSysServiceComplete (result : BitVec 64) (s : State) : Out := .next (opSysServiceComplete result s)

/-- TRAP raises USER with its immediate (R170). -/
def execTrap (imm : BitVec 20) (s : State) : Out :=
  .next (s.takeTrap { num := trUSER, slot := 0, info := imm.toNat })
/-- BRK raises BREAK (R170). -/
def execBrk (imm : BitVec 20) (s : State) : Out :=
  .next (s.takeTrap { num := trBREAK, slot := 0, info := imm.toNat })

/-! ### Control registers (R30-R32, R171) -/

def b2n (b : Bool) (k : Nat) : Nat := if b then 2 ^ k else 0

/-- What MFC reads from control register n (R30-R32). -/
def State.control (s : State) (n : Nat) : Option DWord :=
  let x := s.stream
  let bind := (s.pt s.part).bind
  match n with
  | 0x0 => some (s.node.zeroExtend 64)
  | 0x1 => some (BitVec.ofNat 64 (x.subMask.toNat + x.subBase.toNat * 2 ^ 16))
  | 0x2 => some (BitVec.ofNat 64 (s.rank + x.order * 2 ^ 16))
  | 0x3 => some x.tickno
  | 0x4 => some s.gtime
  | 0x5 => some s.cycle
  | 0x6 => some x.seedsnap
  | 0x7 => some (x.flags.zeroExtend 64)
  | 0x8 => some 0x007E0100#64
  | 0x9 => some (BitVec.ofNat 64 (s.part.val + bind.tenant.toNat * 2 ^ 8 + bind.plates % 128 * 2 ^ 20))
  | 0xA => some (BitVec.ofNat 64 (b2n bind.checked 0 + b2n x.det 1 + b2n x.pure 2 + b2n x.exch 3 + b2n x.rqsafe 4))
  | 0xB => some x.iter
  | 0xC => some x.domain
  | 0xD => some x.taskid
  | 0xE => some (BitVec.ofNat 64 (x.ras.length + x.loops.length * 2 ^ 5 + x.spilled.toNat * 2 ^ 16))
  | 0xF => some 0x0100#64
  | _ => none

/-- MFC; GTIME, CYCLE and TASKID raise PURITY in a PURE task (R30, R349). -/
def opMfc (o : CtlOp) (s : State) : State :=
  let n := o.num.toNat
  match s.control n with
  | none => s.takeTrap { num := trILLEGAL, slot := 0 }
  | some v =>
    if s.stream.pure ∧ (n = 4 ∨ n = 5 ∨ n = 13) then s.takeTrap { num := trPURITY, slot := 0 }
    else s.setS o.reg v
def execMfc (o : CtlOp) (s : State) : Out := .next (opMfc o s)

/-- MTC: FLAGS takes sa[6:0]; SEED sets the partition's seed for later dispatches; a read-only register is unchanged
(R6, R30, R171). -/
def opMtc (o : CtlOp) (s : State) : State :=
  let v := s.sreg o.reg
  match o.num.toNat with
  | 6 =>
    if s.stream.pure then s.takeTrap { num := trPURITY, slot := 0 }
    else (s.spoil).onPart s.part fun p => { p with seed := v }
  | 7 => s.spoil.onStream fun x => { x with flags := v.truncate 7 }
  | n => if n < 16 then s.spoil else s.takeTrap { num := trILLEGAL, slot := 0 }
def execMtc (o : CtlOp) (s : State) : Out := .next (opMtc o s)

end Sys2Proof.Machine
end

