-- ==== Sys2Proof/Machine/Hash.lean ====
section
/-!
DEFINITION. The two published functions that the manual uses by name: CRC-32C (R305) and BLAKE3, plain and keyed, with
256-bit output (R328, R353). Both are PRESUMED from their published definitions (log 13).
-/
namespace Sys2Proof.Machine

/-! ### CRC-32C -/

/-- One bit of the reflected polynomial 0x1EDC6F41. -/
def crcBit (c : Word) : Word := if c.getLsbD 0 then (c >>> 1) ^^^ 0x82F63B78#32 else c >>> 1
def crcByte (c : Word) (b : Byte) : Word := (List.range 8).foldl (fun c _ => crcBit c) (c ^^^ b.zeroExtend 32)
/-- CRC-32C of a run of bytes. -/
def crc32c (l : List Byte) : Word := ~~~(l.foldl crcByte 0xFFFFFFFF#32)

/-! ### BLAKE3 -/

def b3Iv : Vector Word 8 :=
  #v[0x6A09E667, 0xBB67AE85, 0x3C6EF372, 0xA54FF53A, 0x510E527F, 0x9B05688C, 0x1F83D9AB, 0x5BE0CD19]
/-- The permutation of the message words between rounds. -/
def b3Perm : Vector (Fin 16) 16 := #v[2, 6, 3, 10, 7, 0, 4, 13, 1, 11, 12, 5, 9, 14, 15, 8]

/-- The quarter round. -/
def b3G (v : Vector Word 16) (a b c d : Fin 16) (x y : Word) : Vector Word 16 :=
  let a1 := v[a] + v[b] + x
  let d1 := (v[d] ^^^ a1).rotateRight 16
  let c1 := v[c] + d1
  let b1 := (v[b] ^^^ c1).rotateRight 12
  let a2 := a1 + b1 + y
  let d2 := (d1 ^^^ a2).rotateRight 8
  let c2 := c1 + d2
  let b2 := (b1 ^^^ c2).rotateRight 7
  (((v.set a a2).set d d2).set c c2).set b b2

/-- A round: the columns, then the diagonals. -/
def b3Round (m : Vector Word 16) (v : Vector Word 16) : Vector Word 16 :=
  let v := b3G v 0 4 8 12 m[0] m[1]
  let v := b3G v 1 5 9 13 m[2] m[3]
  let v := b3G v 2 6 10 14 m[4] m[5]
  let v := b3G v 3 7 11 15 m[6] m[7]
  let v := b3G v 0 5 10 15 m[8] m[9]
  let v := b3G v 1 6 11 12 m[10] m[11]
  let v := b3G v 2 7 8 13 m[12] m[13]
  b3G v 3 4 9 14 m[14] m[15]

/-- Seven rounds with the permuted message. -/
def b3Rounds : Nat → Vector Word 16 → Vector Word 16 → Vector Word 16
  | 0, _, v => v
  | n + 1, m, v => b3Rounds n (Vector.ofFn fun i => m[b3Perm[i]]) (b3Round m v)

/-- A node whose output is still to be taken: chaining value, message, counter, length of the block, flags. -/
structure B3Node where
  cv : Vector Word 8
  block : List Byte
  counter : Nat
  flags : Nat
  deriving DecidableEq, Repr

/-- The words of a block, padded with zeros. -/
def b3Words (l : List Byte) : Vector Word 16 :=
  Vector.ofFn fun i => BitVec.ofNat 32 (ofBytes ((l.drop (4 * i.val)).take 4))

/-- The compression of a node, with more flags: the first eight output words. -/
def B3Node.out (n : B3Node) (more : Nat) : Vector Word 8 :=
  let v : Vector Word 16 := Vector.ofFn fun i =>
    if h : i.val < 8 then n.cv[i.val]
    else if i.val < 12 then b3Iv.toArray.getD (i.val - 8) 0
    else if i.val = 12 then BitVec.ofNat 32 n.counter
    else if i.val = 13 then BitVec.ofNat 32 (n.counter / 2 ^ 32)
    else if i.val = 14 then BitVec.ofNat 32 n.block.length
    else BitVec.ofNat 32 (n.flags + more)
  let r := b3Rounds 7 (b3Words n.block) v
  Vector.ofFn fun i => r.toArray.getD i.val 0 ^^^ r.toArray.getD (i.val + 8) 0

def b3Bytes (v : Vector Word 8) : List Byte := v.toList.flatMap fun w => toBytes 4 w.toNat

/-- The last node of a chunk: flag 1 on its first block, 2 on its last. `k` counts the blocks that remain. -/
def b3ChunkNode (key : Vector Word 8) (mode counter : Nat) : Nat → Bool → Vector Word 8 → List Byte → B3Node
  | 0, first, cv, l => ⟨cv, l.take 64, counter, mode + (if first then 1 else 0) + 2⟩
  | k + 1, first, cv, l =>
    if l.length ≤ 64 then ⟨cv, l, counter, mode + (if first then 1 else 0) + 2⟩
    else
      b3ChunkNode key mode counter k false
        ((B3Node.mk cv (l.take 64) counter (mode + if first then 1 else 0)).out 0) (l.drop 64)

/-- The chunks of a message: 1,024 bytes each, at least one. -/
def b3Chunks (key : Vector Word 8) (mode : Nat) : Nat → Nat → List Byte → List B3Node
  | 0, _, _ => []
  | n + 1, c, l =>
    b3ChunkNode key mode c 15 true key (l.take 1024) :: if l.length ≤ 1024 then [] else b3Chunks key mode n (c + 1) (l.drop 1024)

/-- The largest power of two below n. -/
def b3Left : Nat → Nat → Nat → Nat
  | 0, p, _ => p
  | k + 1, p, n => if 2 * p < n then b3Left k (2 * p) n else p

/-- The tree over a list of chunks: the left subtree is complete and as large as it can be. Flag 4 marks a parent. -/
def b3Tree (key : Vector Word 8) (mode : Nat) : Nat → List B3Node → B3Node
  | 0, l => l.headD ⟨key, [], 0, mode⟩
  | k + 1, l =>
    if l.length ≤ 1 then l.headD ⟨key, [], 0, mode⟩
    else
      let n := b3Left l.length 1 l.length
      let a := b3Tree key mode k (l.take n)
      let b := b3Tree key mode k (l.drop n)
      ⟨key, b3Bytes (a.out 0) ++ b3Bytes (b.out 0), 0, mode + 4⟩

def b3Hash (key : Vector Word 8) (mode : Nat) (l : List Byte) : List Byte :=
  let chunks := b3Chunks key mode (l.length / 1024 + 1) 0 l
  b3Bytes ((b3Tree key mode chunks.length chunks).out 8)

/-- BLAKE3 with 256-bit output. -/
def blake3 (l : List Byte) : List Byte := b3Hash b3Iv 0 l
/-- Keyed BLAKE3. -/
def blake3Keyed (key : List Byte) (l : List Byte) : List Byte :=
  b3Hash (Vector.ofFn fun i => BitVec.ofNat 32 (ofBytes ((key.drop (4 * i.val)).take 4))) 16 l

end Sys2Proof.Machine
end

