-- ==== Sys2Proof/Machine/LinkOps.lean ====
section
/-!
DEFINITION. Sending over the dimension links: flits, sequence numbers, lanes and credits, the replay buffer, the detour
(R268-R282).
-/
namespace Sys2Proof.Machine

def State.link (s : State) (d : Nat) : Link := s.links.toArray.getD d Link.cleared
def State.setLink (d : Nat) (l : Link) (s : State) : State :=
  if h : d < 14 then { s with links := s.links.set d l } else s
def State.onLink (d : Nat) (f : Link → Link) (s : State) : State := s.setLink d (f (s.link d))

/-- Whether a link carries ordinary traffic: up, or up on its spare wavelength (R276). -/
def Link.up (l : Link) : Bool := l.state == 2 || l.state == 3
/-- Whether a pair has a path: its own link, or its detour while that link is dead or is coming back (R277, R281, R282). -/
def State.hasPath (s : State) (d : Nat) : Bool :=
  let l := s.link d
  l.up || ((l.state == 4 || l.deton) && !l.lost && l.detv && (s.link l.dete.toNat).up)

/-! ### Flits (R269, R270) -/

/-- The TYPE of a flit that carries something (R270). -/
def OutCargo.ftype : OutCargo → Fin 16
  | .idle | .void _ => 0
  | .chunk _ | .readData _ _ _ _ => 1
  | .token _ _ _ _ | .rdz _ _ | .ready _ | .posted _ _ _ _ | .postResult _ _ _ | .proxyRetire _ _ _ | .readRequest _ _ _
  | .fanout _ _ | .ack _ _ => 2
  | .nak => 3
  | .fence _ => 4
  | .gtime _ => 5
  | .train _ _ => 6
  | .credit _ _ => 7
  | .transit ftype _ _ _ _ _ => ftype

/-- A scope, a counter, a signature, a packet and ranges as numbers. -/
def scopeNum : Scope → Nat
  | .lane | .slab | .die => 0
  | .pack => 1
  | .sub => 2
  | .cube => 3
def counterNum : PairCounter → Nat
  | .dim d => d.val
  | .shift => 14
def signatureNums (g : Signature) : List Nat :=
  [match g.kind with | .xch => 0 | .xcb => 1 | .sib => 2 | .sibc => 3 | .shf => 4 | .shfc => 5, g.len, g.slabs.toNat, g.ety, g.op,
    g.cal, g.crc.toNat, g.bit, g.mask.toNat, g.back.toNat, g.version.toNat]
def packetNums (k : Packet) : List Nat :=
  [k.ctl.toNat, k.src.toNat, k.dst.toNat, k.len.toNat, k.flagAddr.toNat, k.flagVal.toNat, k.rsv.toNat]
def rangeNums (l : List (Nat × Nat)) : List Nat := l.flatMap fun r => [r.1, r.2]

/-- What a flit says, as a number for its meaning and numbers for its contents. -/
def OutCargo.nums : OutCargo → Nat × List Nat
  | .token job seq isTick sc => (0, [job.toNat, seq, isTick.toNat, scopeNum sc])
  | .rdz job seq => (1, [job.toNat, seq])
  | .ready r => (2, [r.job.toNat, r.seq, counterNum r.ctr, r.num, r.src.toNat] ++ signatureNums r.sig)
  | .chunk c =>
    (3, [c.job.toNat, c.seq, counterNum c.ctr, c.num, c.src.toNat, c.slab.val, c.index] ++ c.errBytes.map (·.toNat))
  | .posted job ch pkt src => (4, [job.toNat, ch.val] ++ packetNums pkt ++ rangeNums src)
  | .postResult job ch ok => (5, [job.toNat, ch.val, ok.toNat])
  | .proxyRetire job ch status => (6, [job.toNat, ch.val, status.toNat])
  | .readRequest job ch ranges => (7, [job.toNat, ch.val] ++ rangeNums ranges)
  | .readData job ch _ bad => (8, [job.toNat, ch.val] ++ bad)
  | .fanout entry job => (9, job.toNat :: entry.map (·.toNat))
  | .idle => (10, [])
  | .void _ => (18, [])
  | .nak => (11, [])
  | .credit lane n => (12, [lane.val, n])
  | .fence no => (13, [no])
  | .ack upTo no => (14, upTo :: (no.map (·.toNat)).toList)
  | .gtime sample => (15, [sample.toNat])
  | .train lo hi => (16, [lo.toNat, hi.toNat])
  | .transit _ _ _ _ _ _ => (17, [])

/-- The CARGO word: a FENCE bears its number and the answer to it the same, an IDLE that fills the link zero, and one that stands
for a lost flit ones, but for the last bit where no task is harmed (log 76); what the engines put there is open. -/
def OutCargo.word (c : OutCargo) : DWord :=
  match c with
  | .transit _ _ _ _ cargo _ => cargo
  | .idle => 0
  | .void harm => if harm then BitVec.allOnes 64 else BitVec.allOnes 64 - 1
  | .fence no => BitVec.ofNat 64 no
  | .ack _ (some w) => w
  | _ => Config.flitWord c.nums.1 c.nums.2
/-- The payload bytes in use: the data of an exchange or a copy; how the other flits lay theirs out is open. -/
def OutCargo.payload (c : OutCargo) : List Byte :=
  match c with
  | .transit _ _ _ valid _ payload => payload.take valid
  | .chunk k => k.bytes.take 256
  | .readData _ _ bytes _ => bytes.take 256
  | .idle | .void _ | .nak | .fence _ => []
  | _ => (Config.flitBytes c.nums.1 c.nums.2).take 256

/-- The two ends of the pair a flit belongs to: the sending and the receiving one. -/
def State.endsOf (s : State) (f : OutFlit) : BitVec 14 × BitVec 14 :=
  match f.cargo with
  | .transit _ src dst _ _ _ => (src, dst)
  | _ => (s.node, s.node ^^^ BitVec.ofNat 14 (2 ^ f.dim))

/-- A flit on the wire of a port. -/
def State.flitOf (s : State) (port : Nat) (x : Nat × Fin 4 × OutFlit) : Flit :=
  let f := x.2.2
  { ftype := f.cargo.ftype, lane := x.2.1, dim := f.dim, src := (s.endsOf f).1, dst := (s.endsOf f).2,
    lseq := BitVec.ofNat 32 x.1, lack := BitVec.ofNat 32 (s.link port).lseqIn, pseq := BitVec.ofNat 32 f.pseq,
    valid := f.cargo.payload.length, word := f.cargo.word, payload := f.cargo.payload, what := f.cargo }

/-- The header as a number of 224 bits. -/
def Flit.header (f : Flit) : Nat :=
  f.ftype.val + f.lane.val * 2 ^ 4 + f.dim % 16 * 2 ^ 6 + f.src.toNat * 2 ^ 10 + f.dst.toNat * 2 ^ 24 + f.lseq.toNat * 2 ^ 40 +
    f.lack.toNat * 2 ^ 72 + f.pseq.toNat * 2 ^ 104 + f.valid % 512 * 2 ^ 136 + f.word.toNat * 2 ^ 160
/-- The 288 bytes of a flit: header, payload, and the CRC-32C over both; payload bytes that are not in use are sent as zeros. -/
def Flit.wire (f : Flit) : List Byte :=
  let body := toBytes 28 f.header ++ (f.payload ++ List.replicate 256 0).take 256
  body ++ toBytes 4 (crc32c body).toNat

/-! ### A port and its lanes (R271, R279) -/

/-- Puts a flit on the wire of a port. -/
def State.wireOut (port : Nat) (x : Nat × Fin 4 × OutFlit) (s : State) : State := s.send (.flit port (s.flitOf port x))
/-- The same if the link is up: how the replay buffer is resent. -/
def State.emit (port : Nat) (x : Nat × Fin 4 × OutFlit) (s : State) : State :=
  if (s.link port).up then s.wireOut port x else s

/-- A flit of the link itself, which takes no number: it carries LSEQ and LACK as they stand. -/
def State.bareOut (port : Nat) (c : OutCargo) (s : State) : State :=
  s.wireOut port ((s.link port).lseqOut, 0, ⟨port, 0, c, false⟩)
/-- IDLE, NAK and CREDIT; nothing goes out on a dead link (R280), nor while one trains (R272). -/
def State.sendBare (port : Nat) (c : OutCargo) (s : State) : State := if (s.link port).up then s.bareOut port c else s
/-- TRAIN, on a link that trains (R284): version 0x0100 is the lowest and the highest. -/
def State.sendTrain (port : Nat) (s : State) : State :=
  if (s.link port).state == 1 then s.bareOut port (.train 0x0100 0x0100) else s

/-- How many flits the replay buffer of a link holds (R268). -/
def replaySize (port : Nat) : Nat := if port < 4 then 256 else 1024

/-- Whether an ordinary flit waits at a link, with a credit or without. -/
def Link.ordinaryWaits (l : Link) : Bool := l.waiting.any fun x => x.1 == 0
/-- The waiting flit that goes out next: one whose lane has a credit, a detour flit before an ordinary one, but after three of them in
a row none while an ordinary one waits (R279). -/
def Link.nextOut (l : Link) : Option (Fin 4 × OutFlit) :=
  let ready := l.waiting.filter fun x => l.credits[x.1] != 0
  let ordinary := ready.find? fun x => x.1 == 0
  let detoured := ready.find? fun x => x.1 != 0
  if 3 ≤ l.turn && l.ordinaryWaits then ordinary else detoured <|> ordinary

/-- The next waiting flit of a port takes the hop's next LSEQ and leaves; it stays in the replay buffer until the hop
acknowledges it (R269, R271). A slot that detour flits must leave, and for which the waiting ordinary ones have no credit, is filled
with IDLE (R270, R279). -/
def State.putNext (port : Nat) (s : State) : State :=
  let l := s.link port
  match if l.up && decide (l.hop.length < replaySize port) then l.nextOut else none with
  | none =>
    if l.up && decide (3 ≤ l.turn) && l.ordinaryWaits && decide (l.hop.length < replaySize port) then
      (s.onLink port fun l => { l with turn := 0 }).sendBare port .idle
    else s
  | some x =>
    let n := l.lseqOut + 1
    (s.setLink port { l with
      lseqOut := n, hop := l.hop ++ [(n, x.1, x.2)], waiting := l.waiting.erase x,
      credits := l.credits.set x.1 (l.credits[x.1] - 1),
      turn := if x.1 = 0 then 0 else if l.ordinaryWaits then l.turn + 1 else 0 }).wireOut port (n, x.1, x.2)
/-- As many as can go. -/
def State.pump (port : Nat) (s : State) : State :=
  (List.range (2 * (s.link port).waiting.length)).foldl (fun s _ => s.putNext port) s

/-- Gives a flit to a lane of a hop. -/
def State.putFlit (port : Nat) (lane : Fin 4) (f : OutFlit) (s : State) : State :=
  (s.onLink port fun l => { l with waiting := l.waiting ++ [(lane, f)] }).pump port

/-! ### A pair and its path (R270, R277-R282) -/

/-- The port and the lane of a pair's path: the detour's first hop on lane D1 while the detour is on, else the direct link
unless it is dead or down (R277, R279-R282). -/
def State.route (s : State) (d : Nat) : Option (Nat × Fin 4) :=
  let l := s.link d
  if l.deton then some (l.dete.toNat, 1) else if l.state == 4 || l.state == 0 then none else some (d, 0)

/-- Sends a numbered flit of a pair on the path in use, or leaves it in the replay buffer: while the pair returns from its detour
(R281), and behind an earlier flit that has not set out. -/
def State.forwardFlit (f : OutFlit) (s : State) : State :=
  match if (s.link f.dim).returning || (s.link f.dim).sent + 1 != f.pseq then none else s.route f.dim with
  | none => s
  | some (port, lane) => (s.onLink f.dim fun l => { l with sent := f.pseq }).putFlit port lane f

/-- The clock of R282: it runs from the moment a flit of the pair of a link that has died waits with no path, also while the link
trains again, and stops when a path is found. -/
def State.clockPath (d : Nat) (s : State) : State :=
  let waits := (s.link d).fallen && !s.hasPath d && !(s.link d).replay.isEmpty
  s.onLink d fun l => { l with noPathSince := if waits then some (l.noPathSince.getD s.gtime.toNat) else none }
/-- The same for every pair. -/
def State.clockPaths (s : State) : State := (List.range 14).foldl (fun s d => s.clockPath d) s

/-- A flit of the pair across node-id dimension d takes the pair's next PSEQ and stays in the replay buffer until it is acknowledged
(R270, R271). -/
def State.admitFlit (d : Nat) (c : OutCargo) (s : State) : State :=
  let f : OutFlit := ⟨d, (s.link d).pseqOut + 1, c, false⟩
  ((s.onLink d fun l => { l with pseqOut := l.pseqOut + 1, replay := l.replay ++ [f] }).forwardFlit f).clockPath d
/-- Whether the replay buffer of a pair is full: it holds new flits at the engines (R268, R271). -/
def State.pairFull (s : State) (d : Nat) : Bool := decide (replaySize d ≤ (s.link d).replay.length)
/-- An engine hands over a flit of the pair, or holds it behind those it holds already. -/
def State.sendPair (d : Nat) (c : OutCargo) (s : State) : State :=
  if s.pairFull d || !(s.link d).held.isEmpty then s.onLink d fun l => { l with held := l.held ++ [c] } else s.admitFlit d c
/-- What the engines hold for a pair goes on as far as there is room. -/
def State.admitHeld (d : Nat) (s : State) : State :=
  (s.link d).held.foldl (fun s c => if s.pairFull d then s else (s.onLink d fun l => { l with held := l.held.drop 1 }).admitFlit d c) s

/-- Sends every flit of a pair that has not yet set out on the path in use. -/
def State.flushPair (d : Nat) (s : State) : State :=
  ((s.link d).replay.filter fun f => decide ((s.link d).sent < f.pseq)).foldl (fun s f => s.forwardFlit f) s

/-- The lowest PSEQ of a pair that is not acknowledged (R280). -/
def Link.lowest (l : Link) : Nat := (l.replay.head?).elim (l.pseqOut + 1) (·.pseq)

/-- A FENCE of a pair along its detour, or an end-to-end acknowledgement: they take no PSEQ of their own (R280). -/
def State.sendMark (d pseq : Nat) (c : OutCargo) (s : State) : State :=
  match s.route d with
  | none => s
  | some (port, lane) => s.putFlit port lane ⟨d, pseq, c, false⟩
/-- The pair's next FENCE: its PSEQ is the lowest that is not acknowledged. -/
def State.sendFence (d : Nat) (s : State) : State :=
  let no := (s.link d).fenceNo + 1
  (s.onLink d fun l => { l with fenceNo := no }).sendMark d (s.link d).lowest (.fence no)
/-- An end-to-end acknowledgement: it bears a PSEQ that the partner has acknowledged, so that it is never taken for a flit of the pair
(log 41). -/
def State.sendAck (d : Nat) (fence : Option DWord) (s : State) : State :=
  s.sendMark d ((s.link d).lowest - 1) (.ack (s.link d).pseqIn fence)

/-- What a lane's buffer takes when its link comes up (R279). -/
def freshCredits (port : Nat) : Vector Nat 4 := Vector.ofFn fun k => Config.laneCredits (4 * port + k.val) + 1

end Sys2Proof.Machine
end

