-- ==== Sys2Proof/Machine/Sync.lean ====
section
/-!
DEFINITION. Slot 0, class B: rendezvous, barriers, fences, ticks and cross-die synchronisation (R174-R181). A BWAIT holds its
own group; FENCE, TICK, SYNCP, SYNCC and RDZ issue with their group and hold the next one: what is awaited stands in the
stream's `wait`, and each later try of the stream settles it as far as it can.
-/
namespace Sys2Proof.Machine

/-- Holds the group at a wait point (R181). -/
def State.waitHere (s : State) : State := s.holdFor .waitPoint
/-- The next group waits. -/
def State.waitNext (w : Wait) (s : State) : State := s.onStream fun x => { x with wait := some w }
/-- It waits no longer. -/
def State.goOn (s : State) : State := s.onStream fun x => { x with wait := none }

/-! ### Named barriers (R176) -/

/-- BARR: n arrivals. -/
def opBarr (o : BarOp) (s : State) : State := s.spoil.onStream (Stream.arrive o.b o.n.toNat)
def execBarr (o : BarOp) (s : State) : Out := .next (opBarr o s)

/-- BSET: TARGET takes the operand, COUNT 0. -/
def opBset (o : BarOp) (s : State) : State :=
  s.spoil.onStream fun x => { x with bars := x.bars.set o.b ⟨0, o.n⟩ }
def execBset (o : BarOp) (s : State) : Out := .next (opBset o s)

/-- BWAIT and BWAIT.keep: the group waits until COUNT ≥ TARGET. -/
def opBwait (o : BwaitOp) (s : State) : State :=
  let b := s.stream.bars[o.b]
  if b.count < b.target then s.waitHere
  else if o.keep then s.spoil
  else s.spoil.onStream fun x => { x with bars := x.bars.set o.b { b with count := b.count - b.target } }
def execBwait (o : BwaitOp) (s : State) : Out := .next (opBwait o s)

/-! ### FENCE (R177) -/

/-- The packets of the partition's streams that a queue still holds: in the buffer, or in a slot of the ring until they retire. -/
def CopyQueue.ownLeft (q : CopyQueue) : Nat := q.issued.length + (q.notes.filter fun n => n.origin == .stream).length
/-- Those of them that have retired. -/
def CopyQueue.ownRetired (q : CopyQueue) : Nat := q.sent - q.ownLeft

/-- Whether packets of the partition's own stream have not all retired. -/
def Partition.ownPackets (t : Partition) : Bool := t.queues.toList.any fun q => q.ownLeft != 0

/-- Whether an exchange slot of the partition is occupied. -/
def Partition.exchanging (t : Partition) : Bool := t.xslots.toList.any (·.isSome)

/-- How many matrix instructions have completed; they complete in order (R243). -/
def State.matrixDone (s : State) : Nat := s.matrixCount - s.matrix.length

/-- The paths that a class mask names. -/
def fencePaths (mask : BitVec 5) : List Path :=
  (if mask.getLsbD 0 then [.st] else []) ++ (if mask.getLsbD 1 then [.mx] else []) ++
    (if mask.getLsbD 2 then [.cp] else [])

/-- The readers that a FENCE orders after a write of a path: those of the paths it names with it (R312); after the stream's
writes, which it has performed, also every later access of the task, and with no packet of the stream left in a queue those
are all that the copy path will make (R177, R315, R327; log 69). -/
def fenceReaders (named : List Path) (quiet : Bool) (path : Path) : List Path :=
  if named.contains path then named ++ if path = .st then (if quiet then [.mx, .cp] else [.mx]) else [] else []

/-- The readers of the task are ordered after its writes as a FENCE orders them. -/
def orderPaths (p : PartNo) (named : List Path) (quiet : Bool) (l : List LooseByte) : List LooseByte :=
  l.map fun b =>
    if b.part = p then { b with freeFor := b.freeFor.filter fun r => !(fenceReaders named quiet b.path).contains r } else b

/-- What a FENCE that issues now waits for. -/
def State.fenceOf (s : State) (mask : BitVec 5) : FenceWait :=
  { mask := mask, atoms := s.atomInstr, pushed := s.stream.pushed, matrix := s.matrixCount,
    packets := (s.pt s.part).queues.toList.map (·.sent),
    slots := (List.finRange 4).filter fun k => (s.pt s.part).xslots[k].isSome, landing := s.landingNo }

/-- Whether what a FENCE waits for has come about (R177). For hs these are the writes that the host makes itself; packets of the host
are not among them (log 99). -/
def State.fenceMet (s : State) (f : FenceWait) : Bool :=
  let p := s.part
  let t := s.pt p
  !s.atomsBefore p f.atoms && !s.pushesBefore p f.pushed &&
    (!f.mask.getLsbD 1 || decide (f.matrix ≤ s.matrixDone)) &&
    (!f.mask.getLsbD 2 || (List.finRange 8).all fun c => decide (f.packets.getD c.val 0 ≤ t.queues[c].ownRetired)) &&
    (!f.mask.getLsbD 3 || f.slots.all fun k => t.xslots[k].isNone) &&
    (!f.mask.getLsbD 4 || s.landings.all fun w => w.agent != .host || decide (f.landing ≤ w.num))

/-- A FENCE that has been met: the next group may issue. -/
def State.endFence (f : FenceWait) (s : State) : State :=
  { s.goOn with loose := orderPaths s.part (fencePaths f.mask) (!(s.pt s.part).ownPackets) s.loose }
/-- Settles a FENCE. -/
def State.settleFence (f : FenceWait) (s : State) : State := if s.fenceMet f then s.endFence f else s.waitHere

/-- FENCE issues; the next group waits. -/
def opFence (mask : BitVec 5) (s : State) : State := s.waitNext (.fence (s.fenceOf mask))
def execFence (mask : BitVec 5) (s : State) : Out := .next (opFence mask s)

/-! ### Checks that the forms reaching other dies share (R174, R178, R349, R366) -/

/-- PURITY, then STUB, then XDIM where it applies; the spec gives STUB no place beside XDIM (log 70). -/
def State.reachTrap (s : State) (wide : Bool) (badDim : Bool) : Option Trap :=
  if wide ∧ s.stream.pure then some { num := trPURITY, slot := 0 }
  else if s.inStub then some { num := trSTUB, slot := 0 }
  else if wide ∧ (s.stream.exch = false ∨ badDim) then some { num := trXDIM, slot := 0 }
  else none

/-! ### RDZ (R174) -/

/-- The node-id dimensions of the logical dimensions in a mask. -/
def Stream.physDims (x : Stream) (mask : BitVec 14) : List Nat := (bitList 14 mask.toNat).map (physDim x.subMask)

/-- Rendezvous flits of the task received across a dimension. -/
def Partition.rdzCount (t : Partition) (dim seq : Nat) : Nat :=
  (t.rdz.find? fun r => r.dim == dim && r.seq == seq).elim 0 (·.count)

/-- Sends the rendezvous flit of a dimension and counts it. -/
def State.sendRdz (p : PartNo) (seq : Nat) (s : State) (d : Nat) : State :=
  let s1 := s.sendPair d (.rdz (s.pt p).bind.job seq)
  s1.onStream fun x => if h : d < 14 then { x with rdzSent := x.rdzSent.set d (x.rdzSent[d] + 1) } else x

/-- Whether the partner's flit of the same number has come across every dimension. -/
def State.rdzMet (s : State) (p : PartNo) (seq : Nat) (dims : List Nat) : Bool :=
  dims.all fun d => decide (s.stream.rdzSent.toList.getD d 0 ≤ (s.pt p).rdzCount d seq)

/-- The start of an agreement. -/
def Join.start (k : JoinKind) : Join :=
  { kind := k, cleaned := false, dims := [], sent := false, releases := 0, arrived := false, merged := false }

/-- RDZ sends its flits; the next group waits for the partners', unless the mask is empty. -/
def opRdz (mask : BitVec 14) (s : State) : State :=
  let x := s.stream
  match s.reachTrap (mask != 0) ((bitList 14 mask.toNat).any fun j => decide (x.order ≤ j)) with
  | some t => s.takeTrap t
  | none =>
    let s1 := (x.physDims mask).foldl (State.sendRdz s.part x.theTask.seq) s.closeSeg
    if mask = 0 then s1 else s1.waitNext (.agree (Join.start (.rdz mask)))
def execRdz (mask : BitVec 14) (s : State) : Out := .next (opRdz mask s)

/-- Settles a rendezvous. -/
def State.settleRdz (mask : BitVec 14) (s : State) : State :=
  if s.rdzMet s.part s.stream.theTask.seq (s.stream.physDims mask) then s.goOn else s.waitHere

/-! ### Agreements (R24, R180) -/

/-- The dimensions a token scope crosses, ascending: those of the subcube, or every trained one. -/
def State.scopeDims (s : State) : Scope → List Nat
  | .sub => bitList 14 s.stream.subMask.toNat
  | .cube => bitList 14 s.trained.toNat
  | _ => []

/-- Whether the scope lies outside what the subcube allows (R178). -/
def State.badScope (s : State) : Scope → Bool
  | .pack => bits s.stream.subMask.toNat 0 4 != 0xF
  | .cube => s.trained &&& ~~~s.stream.subMask != 0
  | _ => false

/-- Tokens received for an agreement of the task across a dimension. -/
def Partition.tokenCount (t : Partition) (isTick : Bool) (sc : Scope) (dim seq : Nat) : Nat :=
  (t.tokens.find? fun r => r.isTick == isTick && r.scope == sc && r.dim == dim && r.seq == seq).elim 0 (·.count)

/-- How many agreements of a kind and scope the task has completed. -/
def Stream.agreed (x : Stream) (isTick : Bool) : Scope → Nat
  | .sub => if isTick then x.subTicks else x.subSyncs
  | .cube => if isTick then x.cubeTicks else x.cubeSyncs
  | _ => 0
def Stream.countAgreed (isTick : Bool) (sc : Scope) (x : Stream) : Stream :=
  match sc with
  | .sub => if isTick then { x with subTicks := x.subTicks + 1 } else { x with subSyncs := x.subSyncs + 1 }
  | .cube => if isTick then { x with cubeTicks := x.cubeTicks + 1 } else { x with cubeSyncs := x.cubeSyncs + 1 }
  | _ => x

/-- Exchanges tokens over dimensions in ascending order, as far as the partners' tokens allow: the dimensions still
awaited, and whether the token of the first has been sent. -/
def crossDims (p : PartNo) (isTick : Bool) (sc : Scope) (seq n : Nat) : List Nat → Bool → State → List Nat × Bool × State
  | [], _, s => ([], false, s)
  | d :: ds, sent, s =>
    let s1 := if sent then s else s.sendPair d (.token (s.pt p).bind.job seq isTick sc)
    if n < (s.pt p).tokenCount isTick sc d seq then crossDims p isTick sc seq n ds false s1 else (d :: ds, true, s1)

/-- Releases of the package line that have come for a task. -/
def releasesOf (l : List (Nat × Nat)) (seq : Nat) : Nat := (l.find? fun r => r.1 == seq).elim 0 (·.2)

/-- Joins a scope's agreement: the new progress, and whether the agreement has been released. The package line keeps,
per task, how many of its releases are used up. -/
def joinScope (isTick : Bool) (sc : Scope) (j : Join) (s : State) : Join × Bool × State :=
  let p := s.part
  let x := s.stream
  let seq := x.theTask.seq
  match sc with
  | .pack =>
    let s1 := if j.arrived then s else s.send (.packLine (s.pt p).bind.job seq isTick)
    let used := if isTick then x.packTicks else x.packSyncs
    let came := releasesOf (if isTick then (s.pt p).tickReleases else (s.pt p).syncReleases) seq
    if used < came then
      ({ j with arrived := false },
        true, s1.onStream fun x => if isTick then { x with packTicks := x.packTicks + 1 } else { x with packSyncs := x.packSyncs + 1 })
    else ({ j with arrived := true }, false, s1)
  | .sub | .cube =>
    let dims := if j.arrived then j.dims else s.scopeDims sc
    let r := crossDims p isTick sc seq (x.agreed isTick sc) dims j.sent s
    ({ j with arrived := true, dims := r.1, sent := r.2.1 }, r.1.isEmpty, r.2.2)
  | _ => (j, true, s)

/-! ### TICK, SYNCP, SYNCC (R178-R180) -/

/-- Keeps the progress and waits. -/
def State.waitJoin (j : Join) (s : State) : State := (s.waitNext (.agree j)).waitHere

/-- The end of a TICK. -/
def State.endTick (sc : Scope) (s : State) : State :=
  s.onStream fun x => { Stream.countAgreed true sc x with wait := none, tickno := x.tickno + 1 }

/-- The second agreement of a TICK at `.pack`, once the merge is done. -/
def tickTail (sc : Scope) (j : Join) (s : State) : State :=
  if sc = .pack then
    match joinScope true .pack j s with
    | (j', done, s1) => if done then s1.endTick sc else s1.waitJoin j'
  else s.endTick sc

/-- The merge of a TICK whose agreement has been released. -/
def tickMerge (sc : Scope) (j : Join) (s : State) : State :=
  tickTail sc { j with merged := true, releases := 1 } (s.merge s.part)

/-- The part of a TICK after its writes have been performed and written back. -/
def tickAgree (sc : Scope) (j : Join) (s : State) : State :=
  if j.merged then tickTail sc j s
  else if j.releases = 1 then tickMerge sc j s
  else
    match joinScope true sc j s with
    | (j', done, s1) => if done then tickMerge sc j' s1 else s1.waitJoin j'

/-- Settles a TICK: its waits, the write-back, the agreement, the merge (R179). The accesses of its own group belong to the
tick that it ends (log 17). -/
def State.settleTick (sc : Scope) (j : Join) (s : State) : State :=
  if j.cleaned then tickAgree sc j s
  else if s.accessesDone s.part && !(s.pt s.part).exchanging then tickAgree sc { j with cleaned := true } (s.writeBack s.part)
  else s.waitHere

/-- TICK issues; the next group waits. -/
def opTick (sc : Scope) (s : State) : State :=
  match s.reachTrap (sc != .die) (s.badScope sc) with
  | some t => s.takeTrap t
  | none => s.closeSeg.waitNext (.agree (Join.start (.tick sc)))
def execTick (sc : Scope) (s : State) : Out := .next (opTick sc s)

/-- Settles a SYNCP or SYNCC: an agreement and nothing else. -/
def State.settleSync (sc : Scope) (j : Join) (s : State) : State :=
  match joinScope false sc j s with
  | (j', done, s1) => if done then s1.onStream fun x => { Stream.countAgreed false sc x with wait := none } else s1.waitJoin j'

/-- The shared form of SYNCP and SYNCC. -/
def opSync (sc : Scope) (kind : JoinKind) (s : State) : State :=
  match s.reachTrap true (s.badScope sc) with
  | some t => s.takeTrap t
  | none => s.closeSeg.waitNext (.agree (Join.start kind))
def execSyncp (s : State) : Out := .next (opSync .pack .syncp s)
def execSyncc (sc : Scope) (s : State) : Out := .next (opSync sc (.syncc sc) s)

/-- Settles an agreement. -/
def State.settleJoin (j : Join) (s : State) : State :=
  match j.kind with
  | .tick sc => s.settleTick sc j
  | .syncp => s.settleSync .pack j
  | .syncc sc => s.settleSync sc j
  | .rdz mask => s.settleRdz mask

end Sys2Proof.Machine
end

