-- ==== Sys2Proof/Machine/Copy.lean ====
section
/-!
DEFINITION. Slot 7, class X: the copy family, and WAITID of slot 0 (R136-R143).
-/
namespace Sys2Proof.Machine

/-! ### The checks of R139 -/

def xTrap (num : Nat) : Trap := { num := num, slot := 7 }
/-- A trap of the windows, reported by slot 7. -/
def inSlot7 (t : Option Trap) : Option Trap := t.map fun t => { t with slot := 7 }

/-- The share's range in the plate space (R107, R124). -/
def State.checkPlateSpace (s : State) (a : DWord) (n : Nat) : Option Trap :=
  if a.toNat + n ≤ 16 * s.share s.part then none else some { xTrap trPLATE with info := a.toNat }

/-- Step 1: what a PURE task may not queue (R139, R349). -/
def impurePacket (t : Task) (k : Packet) : Bool :=
  k.posts || k.kind == 5 ||
    ((k.kind == 1 || k.kind == 2) && k.dstSp != 2 && !(t.win k.dstWin).isOut) || (k.flagEn && !(t.win k.flagWin).isOut)

/-- The home source of a packet: window, offset, if its bytes are read from home memory. -/
def srcRange (k : Packet) : Option (Nat × Int) :=
  if k.length = 0 then none
  else if k.kind = 1 ∨ k.kind = 2 ∨ k.kind = 3 ∨ k.kind = 4 ∨ (k.kind = 5 ∧ k.dir = false) then some (k.srcWin, k.src.toInt)
  else none
/-- The home destination of a packet on this die. -/
def dstRange (k : Packet) : Option (Nat × Int) :=
  if k.length = 0 then none
  else if ((k.kind = 1 ∨ k.kind = 2) ∧ k.dstSp ≠ 2) ∨ (k.kind = 5 ∧ k.dir) then some (k.dstWin, k.dst.toInt)
  else none
/-- The flag that this die writes for the packet. -/
def flagRange (k : Packet) : Option (Nat × Int) :=
  if k.flagEn ∧ k.posts = false then some (k.flagWin, k.flagAddr.toInt) else none

/-- Whether a line of a range is pending for a partition's task (R318). -/
def State.pendingIn (s : State) (p : PartNo) (t : Task) (w : Nat) (va n : Nat) : Bool :=
  s.marks.any fun m => m.tag == p &&
    (t.extents.any fun x => x.win == w && decide (x.pstart ≤ m.line * 128 / 65536) &&
      decide (m.line * 128 / 65536 < x.pstart + x.len) &&
      (let v := (x.vstart + (m.line * 128 / 65536 - x.pstart)) * 65536 + m.line * 128 % 65536
       decide (va < v + 128) && decide (v < va + n)))

/-- R139, in its order. -/
def State.checkPacket (s : State) (k : Packet) : Option Trap :=
  let t := s.stream.theTask
  let n := k.length
  if s.stream.pure ∧ impurePacket t k then some (xTrap trPURITY)
  else if k.posts ∧ s.inStub then some (xTrap trSTUB)
  else if k.posts ∧ (s.stream.exch = false ∨ s.stream.order ≤ k.dim) then some (xTrap trXDIM)
  else
    firstTrap [
      (srcRange k).bind fun r => inSlot7 (t.checkAccess r.1 r.2 n .load),
      (dstRange k).bind fun r => inSlot7 (t.checkAccess r.1 r.2 n .store),
      if n ≠ 0 ∧ (k.kind = 1 ∨ k.kind = 2) ∧ k.dstSp = 2 then s.checkPlateSpace k.dst n else none,
      (flagRange k).bind fun r => inSlot7 (t.checkAccess r.1 r.2 8 .store),
      (flagRange k).bind fun r =>
        if r.2 % 8 ≠ 0 then some (xTrap trALIGN) else none,
      (srcRange k).bind fun r =>
        let va := ((t.win r.1).va r.2).toNat
        if (t.win r.1).attr = .land ∧ s.pendingIn s.part t r.1 va n then
          some { xTrap trLANDREAD with win := r.1, info := va }
        else none]

/-- The first page of a packet's operands on this die that no extent holds (R95). -/
def State.packetPage (s : State) (k : Packet) : Option (Nat × Nat) :=
  let t := s.stream.theTask
  let page (r : Option (Nat × Int)) (n : Nat) : Option (Nat × Nat) :=
    r.bind fun r => (t.missing r.1 ((t.win r.1).va r.2).toNat n).map fun a => (r.1, a)
  page (srcRange k) k.length <|> page (dstRange k) k.length <|> page (flagRange k) 8

/-! ### Queueing (R136, R138) -/

/-- The physical ranges of a packet's source, which travel with a posting (R123). -/
def State.srcPieces (s : State) (k : Packet) : List (Nat × Nat) :=
  match srcRange k with
  | none => []
  | some r =>
    let t := s.stream.theTask
    (inHalves (((t.win r.1).va r.2).toNat) (List.replicate k.length 0)).map fun x => (t.phys r.1 ((x.head?.map (·.1)).getD 0), x.length)

/-- Puts a packet into the channel's buffer; a posted one sets out for the partner (R123). -/
def State.queuePacket (ch : Fin 8) (k : Packet) (valid : Bool) (s : State) : State :=
  let p := s.part
  let posts := valid && k.posts
  let s1 := s.onQueue p ch fun q =>
    { q with sent := q.sent + 1, issued := q.issued ++ [⟨k, valid, if posts then .waiting else .unneeded, none, false⟩] }
  if posts then s1.sendPair (physDim s.stream.subMask k.dim) (.posted (s.pt p).bind.job ch k (s.srcPieces k)) else s1

/-- The packets in a channel's buffer: it has one for all partitions (R136). -/
def State.buffered (s : State) (ch : Fin 8) : Nat := ((List.finRange 4).map fun p => (s.queue p ch).issued.length).sum

/-- A packet formed by an instruction: checks, lazy pages, room, then the buffer. A form that reaches another die closes
the open segment, any other makes it unrewindable (R173, R371). -/
def State.issuePacket (ch : Fin 8) (k : Packet) (checked : Bool) (reaches : Bool) (s : State) : State :=
  match if checked then s.checkPacket k else none with
  | some t => s.takeTrap t
  | none =>
    match if checked then s.packetPage k else none with
    | some x => s.holdFor (.lazyPage x.1 x.2)
    | none =>
      if 16 ≤ s.buffered ch then s.waitHere
      else (if reaches then s.closeSeg else s.spoil).queuePacket ch k (validPacket .stream k)

/-- The packet of R138 from the operands and e0-e3. -/
def Stream.formPacket (x : Stream) (kind : Nat) (dir bar flag : Bool) (a b : DWord) : Packet :=
  let e1 := x.e[1].toNat
  let ctl := kind + b2n dir 4 + (if bit e1 22 then 2 else 0) * 2 ^ 7 + b2n flag 9 + b2n bar 10 + bits e1 12 6 * 2 ^ 12 +
    bits e1 0 4 * 2 ^ 18 + bits e1 4 4 * 2 ^ 22 + bits e1 8 4 * 2 ^ 26 + bits e1 18 4 * 2 ^ 30
  { ctl := BitVec.ofNat 64 ctl, src := if kind = 5 ∧ dir then b else a, dst := if kind = 5 ∧ dir then a else b,
    len := BitVec.ofNat 64 (bits x.e[0].toNat 0 40), flagAddr := x.e[2], flagVal := x.e[3], rsv := 0 }

/-- COPY, COPYA, COPYD, COPYDA (R137). -/
def opCopyFamily (kind : Nat) (o : CopyOp) (s : State) : State :=
  s.cword true o.hold o.sa o.sb fun a b s =>
    s.issuePacket o.ch (s.stream.formPacket kind false o.bar o.flag a b) true (kind == 3 || kind == 4)
def execCopy (o : CopyOp) (s : State) : Out := .next (opCopyFamily 1 o s)
def execCopya (o : CopyOp) (s : State) : Out := .next (opCopyFamily 2 o s)
def execCopyd (o : CopyOp) (s : State) : Out := .next (opCopyFamily 3 o s)
def execCopyda (o : CopyOp) (s : State) : Out := .next (opCopyFamily 4 o s)

/-- COPYH (R137, R138). -/
def opCopyh (o : CopyhOp) (s : State) : State :=
  s.cword true o.hold o.sa o.sb fun a b s =>
    s.issuePacket o.ch (s.stream.formPacket 5 o.inward o.bar o.flag a b) true false
def execCopyh (o : CopyhOp) (s : State) : Out := .next (opCopyh o s)

/-- CQPUSH: the image in slab 0's plates (R140). -/
def opCqpush (o : CqpushOp) (s : State) : State :=
  s.cword true o.hold o.sa 0 fun a _ s =>
    let off := a.toInt
    if off % 64 ≠ 0 then s.takeTrap (xTrap trALIGN)
    else if s.inShare s.part off 64 = false then s.takeTrap { xTrap trPLATE with info := a.toNat }
    else
      let k := Packet.ofWords ((List.range 8).map fun j => s.plateNum s.part 0 (off.toNat + 8 * j) 8)
      if s.platesBad s.part 0 off.toNat 64 then s.takeTrap (xTrap trUNCORR)
      else s.issuePacket o.ch k (validPacket .stream k) false
def execCqpush (o : CqpushOp) (s : State) : Out := .next (opCqpush o s)

/-- CFLAG: a FLAG packet (R142). -/
def opCflag (o : CflagOp) (s : State) : State :=
  s.cword true o.hold o.sa o.sb fun a b s =>
    let e1 := s.stream.e[1].toNat
    let ctl := 6 + 2 ^ 9 + b2n o.bar 10 + bits e1 12 6 * 2 ^ 12 + bits e1 8 4 * 2 ^ 26 + bits e1 18 4 * 2 ^ 30 + b2n o.far 34
    s.issuePacket o.ch
      { ctl := BitVec.ofNat 64 ctl, src := 0, dst := 0, len := 0, flagAddr := a, flagVal := b, rsv := 0 } true o.far
def execCflag (o : CflagOp) (s : State) : Out := .next (opCflag o s)

/-! ### Reading a queue (R141, R143) -/

/-- What a word of a queue that cannot be read gives: a free value (log 28). -/
def State.unreadable (s : State) : Nat := (Config.freeAnswer s.free).toNat % 2 ^ 64

/-- DONEID of a queue. -/
def State.doneId (s : State) (p : PartNo) (ch : Fin 8) : Nat := (s.copyView p ch).elim s.unreadable (·.done)

/-- Where STATUS of the packet with an identifier stands, if the ring still holds it (R141). -/
def QueueView.statusAt (v : QueueView) (id : Nat) : Option Nat :=
  if v.done < id ∨ id = 0 ∨ id + v.size ≤ v.wr then none else some (v.slot (id - 1) + 56)
/-- STATUS of the packet with an identifier (R141). -/
def State.packetStatus (s : State) (p : PartNo) (ch : Fin 8) (id : Nat) : Nat :=
  match s.copyView p ch with
  | none => s.unreadable
  | some v =>
    if v.done < id then 0
    else (v.statusAt id).elim 0xFF fun a => (s.vread64 p a).getD s.unreadable

/-- What reading the header of a queue of the running partition does beside its answer. -/
def State.visitHdr (ch : Fin 8) (s : State) : State := s.visit s.part (s.copyHdr s.part ch) 24
/-- What reading STATUS of a packet does beside its answer: it passes through the stash too (R100). -/
def State.visitStatus (ch : Fin 8) (id : Nat) (s : State) : State :=
  (((s.copyView s.part ch).bind fun v => v.statusAt id).elim s fun a => s.visit s.part a 8).visitHdr ch

/-- CSTAT. -/
def opCstat (o : CstatOp) (s : State) : State :=
  s.cword true o.hold 0 o.sb fun _ b s =>
    (if o.byId then s.visitStatus o.ch b.toNat else s.visitHdr o.ch).setS o.sa (BitVec.ofNat 64 (if o.byId then s.packetStatus s.part o.ch b.toNat else s.doneId s.part o.ch))
def execCstat (o : CstatOp) (s : State) : Out := .next (opCstat o s)

/-- WAITID. -/
def opWaitid (o : WaitidOp) (s : State) : State :=
  if (s.sreg o.rk).toNat ≤ s.doneId s.part o.ch then (s.visitHdr o.ch).spoil else s.waitHere
def execWaitid (o : WaitidOp) (s : State) : Out := .next (opWaitid o s)

end Sys2Proof.Machine
end

