-- ==== Sys2Proof/Machine/Packets.lean ====
section
/-!
DEFINITION. The copy channels: claims, the execution of each kind of packet, retirement (R122-R135).
-/
namespace Sys2Proof.Machine

/-! ### Claims (R122, R123, R136) -/

/-- A posted packet takes its slot, and the sender is told (R123). -/
def State.claimPosted (p : PartNo) (ch : Fin 8) (v : QueueView) (x : PostedIn) (s : State) : State :=
  let s1 := (s.claimSlot p v x.pkt.words).onQueue p ch fun q =>
    { q with notes := q.notes ++
        [{ idx := v.wr, origin := .posted, valid := validPacket .posted x.pkt, proxy := false, failed := false, report := none,
           cancel := false, job := x.job, dim := x.dim, src := x.src, data := [], bad := [] }] }
  s1.sendPair x.dim (.postResult x.job ch true)

/-- The node-id dimension across which a partition's task posts a packet. -/
def State.postDim (s : State) (p : PartNo) (k : Packet) : Nat := physDim ((s.ctx p).elim 0 (·.subMask)) k.dim

/-- The oldest packet of the stream takes its slot; LASTID follows (R136). -/
def State.claimIssued (p : PartNo) (ch : Fin 8) (v : QueueView) (x : IssuedPacket) (s : State) : State :=
  let s1 := (s.claimSlot p v x.pkt.words).onQueue p ch fun q =>
    { q with issued := q.issued.drop 1, notes := q.notes ++
        [{ idx := v.wr, origin := .stream, valid := x.valid, proxy := x.posting != .unneeded, failed := x.posting == .failed,
           report := x.report, cancel := x.cancel, job := 0, dim := s.postDim p x.pkt, src := [], data := [], bad := [] }] }
  s1.onCtx p (Stream.setE (Fin.ofNat 64 (8 + ch.val)) (BitVec.ofNat 64 (v.wr + 1)))

/-- PACKET_CLAIM: a posting that waited for room, or else the stream's oldest packet whose posting is settled. -/
def opPacketClaim (o : QueueId) (s : State) : State :=
  match s.copyView o.part o.ch with
  | none => s.visit o.part (s.copyHdr o.part o.ch) 24
  | some v =>
    if (s.pt o.part).bound && v.room then
      let q := s.queue o.part o.ch
      let s := s.visit o.part v.hdr 24
      match q.posted, q.issued with
      | x :: _, _ => (s.claimPosted o.part o.ch v x).onQueue o.part o.ch fun q => { q with posted := q.posted.drop 1 }
      | [], y :: _ => if y.posting = .waiting then s else s.claimIssued o.part o.ch v y
      | [], [] => s
    else s
def execPacketClaim (o : QueueId) (s : State) : Out := .next (opPacketClaim o s)

/-- A posting that has come from a partner (R123): NOPART without a partition of the job. -/
def State.takePosting (x : PostedIn) (ch : Fin 8) (s : State) : State :=
  match s.partOfJob x.job with
  | none => s.sendPair x.dim (.postResult x.job ch false)
  | some p =>
    match s.copyView p ch with
    | some v =>
      if v.room ∧ (s.queue p ch).posted = [] then s.claimPosted p ch v x
      else s.onQueue p ch fun q => { q with posted := q.posted ++ [x] }
    | none => s.onQueue p ch fun q => { q with posted := q.posted ++ [x] }

/-- Changes the first element that satisfies a test. -/
def changeFirst {α : Type} (want : α → Bool) (f : α → α) : List α → List α
  | [] => []
  | x :: t => if want x then f x :: t else x :: changeFirst want f t

/-- The outcome of a posting reaches the sender's channel from across a dimension (R123). -/
def State.postingSettled (p : PartNo) (ch : Fin 8) (dim : Nat) (ok : Bool) (s : State) : State :=
  let open' (x : IssuedPacket) : Bool := x.posting == .waiting && s.postDim p x.pkt == dim
  let settle (x : IssuedPacket) : IssuedPacket := { x with posting := if ok then .ok else .failed }
  s.onQueue p ch fun q => { q with issued := changeFirst open' settle q.issued }

/-- The partner across a dimension reports the oldest packet posted to it retired: its proxy stands in the ring, or has yet to
claim its slot (R123, R129). -/
def State.proxyReport (p : PartNo) (ch : Fin 8) (dim : Nat) (status : DWord) (s : State) : State :=
  let open' (x : RingNote) : Bool := x.proxy && !x.failed && x.report.isNone && x.dim == dim
  let unclaimed (x : IssuedPacket) : Bool := x.posting == .ok && x.report.isNone && s.postDim p x.pkt == dim
  s.onQueue p ch fun q =>
    if q.notes.any open' then { q with notes := changeFirst open' (fun x => { x with report := some status }) q.notes }
    else { q with issued := changeFirst unclaimed (fun x => { x with report := some status }) q.issued }

/-- Source bytes that have come across a dimension (R123): they are those of the packet of the queue that was asked for first of those
that still lack some; the notes of such packets stand in the order in which they were asked for. -/
def State.pulled (p : PartNo) (ch : Fin 8) (dim : Nat) (bytes : List Byte) (bad : List Nat) : State → State :=
  State.onQueue p ch fun q =>
    let want (x : RingNote) : Nat := ((q.active.find? fun a => a.idx == x.idx && a.stage == .pulling).map (·.pkt.length)).getD 0
    let more (x : RingNote) : RingNote :=
      { x with data := (x.data ++ bytes).take (want x), bad := x.bad ++ bad.map (x.data.length + ·) }
    { q with notes := changeFirst (fun x => x.origin == .posted && x.dim == dim && decide (x.data.length < want x)) more q.notes }

/-! ### Operands (R124, R130) -/

/-- A byte of a virtual operand of a host packet; a destination or a flag must allow landings (R89, R130). -/
def State.virtByte (p : PartNo) (rd wr : Bool) (a : Int) (s : State) : State × Except Nat Place :=
  if a < 0 ∨ (2 ^ 48 : Nat) ≤ a then (s, .error stRANGE)
  else
    (s.afterWalk p a.toNat,
      match s.walkPart p a.toNat rd wr with
      | .ok pa key _ => if wr && s.refusesLanding pa then .error stATTR else .ok (.home pa (some key))
      | .notMapped | .poisoned => .error stFAULT
      | .denied => .error stDENIED
      | .key => .error stKEY)

/-- Whether a window admits landings (R89). -/
def WinAttr.lands : WinAttr → Bool
  | .input | .inout | .land => true
  | _ => false

/-- A byte of a window of the dispatched task, for a landing: a lazy page joins the extent table (R130). -/
def State.winByte (p : PartNo) (w : Nat) (off : Int) (s : State) : State × Except Nat Place :=
  let t := (s.taskOf p).getD Task.empty
  let win := t.win w
  let va := win.va off
  if va < win.base ∨ ((win.base + win.len : Nat) : Int) ≤ va then (s, .error stRANGE)
  else
    let landing (pa : Nat) (key : Option Nat) : Except Nat Place := if win.attr.lands then .ok (.home pa key) else .error stATTR
    let s1 := s.afterWalk p va.toNat
    match t.resolve w va.toNat with
    | some pa => (s, landing pa (t.keyAt pa))
    | none =>
      match s.walkPart p va.toNat win.attr.needs.1 win.attr.needs.2 with
      | .notMapped | .poisoned => (s1, .error stFAULT)
      | .denied => (s1, .error stDENIED)
      | .key => (s1, .error stKEY)
      | .ok pa key large =>
        match addPage t.extents w va.toNat pa key large with
        | none => (s1, .error stEXTENTS)
        | some l => (s1.onCtx p (Stream.onTask fun t => { t with extents := l }), landing pa (some key))

/-- A byte of the plate space (R124). -/
def State.plateByte (p : PartNo) (a : Int) (s : State) : State × Except Nat Place :=
  if a < 0 ∨ ((16 * s.share p : Nat) : Int) ≤ a then (s, .error stRANGE)
  else (s, .ok (.plate (a.toNat / s.share p) (a.toNat % s.share p)))

/-- Every byte of an operand in order; the lowest failing byte decides (R127). -/
def resolveBytes (f : Int → State → State × Except Nat Place) :
    Nat → Int → State → State × Except (Nat × Nat) (List Place)
  | 0, _, s => (s, .ok [])
  | n + 1, a, s =>
    match f a s with
    | (s1, .error c) => (s1, .error (c, lowBits 48 a))
    | (s1, .ok x) =>
      match resolveBytes f n (a + 1) s1 with
      | (s2, .ok l) => (s2, .ok (x :: l))
      | (s2, .error e) => (s2, .error e)

/-- What the check of a packet found: source, destination and flag. -/
structure Operands where
  src : List Place
  dst : List Place
  flag : Option Place
  deriving DecidableEq, Repr

/-- The plate bytes of an operand: slab and offset. -/
def platesOf (l : List Place) : List (Nat × Nat) := l.filterMap fun | .home _ _ => none | .plate b o => some (b, o)
/-- The key slot that places give a line. -/
def keyIn (l : List Place) (line : Nat) : Option Nat :=
  l.findSome? fun | .home a k => if a / 128 = line then k else none | .plate _ _ => none
/-- The bytes of a flag. -/
def flagBytes (f : Option Place) : List Nat := (homesOf f.toList).flatMap fun pa => (List.range 8).map (pa + ·)

/-- The bytes of a window operand of the stream's own packet, which its issue has checked. -/
def ownPlaces (t : Task) (w : Nat) (off : Int) (n : Nat) : List Place :=
  (List.range n).map fun (k : Nat) => .home (t.phys w ((t.win w).va (off + k)).toNat) none
def platePlaces (share : Nat) (a n : Nat) : List Place :=
  (List.range n).map fun k => .plate ((a + k) / share) ((a + k) % share)

/-- The operands of the stream's own packet. -/
def State.ownOperands (s : State) (p : PartNo) (k : Packet) : Operands :=
  let t := (s.taskOf p).getD Task.empty
  { src := (srcRange k).elim [] fun r => ownPlaces t r.1 r.2 k.length,
    dst := if k.kind = 1 ∧ k.dstSp = 2 then platePlaces (s.share p) k.dst.toNat k.length
           else (dstRange k).elim [] fun r => ownPlaces t r.1 r.2 k.length,
    flag := (flagRange k).map fun r => .home (t.phys r.1 ((t.win r.1).va r.2).toNat) none }

/-- The check of a host or posted packet: source, destination, flag (R127, R130). -/
def State.checkOperands (p : PartNo) (o : PacketOrigin) (k : Packet) (s : State) :
    State × Except (Nat × Nat) Operands :=
  let n := k.length
  let skip (s : State) : State × Except (Nat × Nat) (List Place) := (s, .ok [])
  let rs := if o = .host ∧ (srcRange k).isSome then resolveBytes (State.virtByte p true false) n k.src.toInt s else skip s
  match rs with
  | (s1, .error e) => (s1, .error e)
  | (s1, .ok src) =>
    let rd :=
      if n = 0 ∨ k.kind = 0 ∨ k.kind = 6 ∨ (k.kind = 5 ∧ k.dir = false) then skip s1
      else if k.kind ≠ 5 ∧ k.dstSp = 2 then resolveBytes (State.plateByte p) n k.dst.toNat s1
      else if o = .host then resolveBytes (State.virtByte p (k.kind == 2) true) n k.dst.toInt s1
      else resolveBytes (State.winByte p k.dstWin) n k.dst.toInt s1
    match rd with
    | (s2, .error e) => (s2, .error e)
    | (s2, .ok dst) =>
      let rf :=
        if k.flagEn = false then skip s2
        else if k.flagSp then resolveBytes (State.virtByte p false true) 8 k.flagAddr.toInt s2
        else resolveBytes (State.winByte p k.flagWin) 8 k.flagAddr.toInt s2
      match rf with
      | (s3, .error e) => (s3, .error e)
      | (s3, .ok fl) => (s3, .ok ⟨src, dst, fl.head?⟩)

/-! ### Moving bytes (R131-R134) -/

/-- Consecutive addresses gathered into runs. -/
def runsOf : List (Nat × Byte) → List (Nat × List Byte)
  | [] => []
  | (a, b) :: t =>
    match runsOf t with
    | [] => [(a, [b])]
    | (a', l) :: r => if a' = a + 1 then (a, b :: l) :: r else (a, [b]) :: (a', l) :: r

/-- The flow of a packet's deliveries into plates (R118). -/
def rowFlow (o : PacketOrigin) (ch : Fin 8) (dim : Nat) : RowFlow :=
  if o = .posted then .copyDim (Fin.ofNat 14 dim) ch else .copyLocal ch

/-- Writes of a packet to home memory: the stream's by its copy path, any other's as landings (R134). A flag is one
single-copy atomic write; other bytes are atomic one by one (R129, R321). -/
def State.packetStore (p : PartNo) (ch : Fin 8) (idx : Nat) (o : PacketOrigin) (flag : Bool) (key : Nat → Option Nat)
    (l : List (Nat × Byte)) (s : State) : State :=
  if o = .stream then s.writeMain (some ⟨p, .cp, some (ch, idx)⟩) (if flag then 8 else 1) key l
  else (runsOf l).foldl (fun s r => s.landBytes (.packet p ch idx) flag key r.1 r.2) s

/-- The granule of 64 bytes that a place lies in. -/
def Place.granule : Place → Place
  | .home a k => .home (a / 64 * 64) k
  | .plate b o => .plate b (o / 64 * 64)
/-- The place n bytes on. -/
def Place.plus (n : Nat) : Place → Place
  | .home a k => .home (a + n) k
  | .plate b o => .plate b (o + n)
/-- Whether two places are one. -/
def Place.same : Place → Place → Bool
  | .home a _, .home b _ => a == b
  | .plate a o, .plate b q => a == b && o == q
  | _, _ => false

/-- The places that later packets of a queue have written already: there their bytes stand, as if the packets had run one after the
other (R128). -/
def CopyQueue.taken (q : CopyQueue) (idx : Nat) : List Place :=
  (q.active.filter fun b => decide (idx < b.idx) && b.stage == .done).flatMap (·.dst)
def CopyQueue.takes (q : CopyQueue) (idx : Nat) (x : Place) : Bool := (q.taken idx).any x.same

/-- A granule that an uncorrectable word would have reached is written as poisoned (R130), but for the words that a later packet has
written. -/
def State.poisonPlace (p : PartNo) (ch : Fin 8) (a : ActivePacket) (x : Place) (s : State) : State :=
  let q := s.queue p ch
  let lost := (List.range 8).filter fun w => !((List.range 8).all fun j => q.takes a.idx (x.plus (8 * w + j)))
  match x with
  | .home pa k =>
    let words := lost.map (pa / 8 + ·)
    if a.origin = .stream then (s.poisonWords words).strike (bytesOfWords words)
    else s.landPoison (.packet p ch a.idx) k words
  | .plate b off => { s with platePoison := (s.platePoison ++ lost.map (s.plateCell p b off / 8 + ·)).eraseDups }

/-- Writes of a packet's bytes to their places, but for those that a later packet of the queue has written (R128). -/
def State.deliver (p : PartNo) (ch : Fin 8) (a : ActivePacket) (dst : List Place) (bytes : List Byte) (s : State) : State :=
  let pairs := (dst.zip bytes).filter fun x => !(s.queue p ch).takes a.idx x.1
  let homes := pairs.filterMap fun x => match x.1 with | .home a _ => some (a, x.2) | .plate _ _ => none
  let plates := pairs.filterMap fun x => match x.1 with | .home _ _ => none | .plate b off => some (b * 2 ^ 23 + off, x.2)
  let s1 := if homes.isEmpty then s else s.packetStore p ch a.idx a.origin false (keyIn dst) homes
  (runsOf plates).foldl
    (fun s r => s.requestRows (rowFlow a.origin ch a.dim) p (Fin.ofNat 16 (r.1 / 2 ^ 23)) (r.1 % 2 ^ 23) r.2) s1

/-- The state as the packets of a queue see it: what earlier packets of the queue wrote is ordered before them (R128). -/
def State.asQueue (p : PartNo) (ch : Fin 8) (s : State) : State :=
  { s with loose := s.loose.map fun l =>
      if l.part = p ∧ l.pkt.any (fun x => x.1 == ch) then
        { l with freeFor := l.freeFor.filter fun r => r != .cp && r != .outside } else l }
/-- What a packet reads of a place: the stream's own copy path, or the merged view (R312, R314). -/
def State.packetRead (s : State) (p : PartNo) (o : PacketOrigin) : Place → Byte
  | .home a key => if o = .stream then s.seen (some p) .cp a else s.mergedBy key a
  | .plate b off => s.plate p b off
/-- What reading places does beside its answer: their lines pass through the stash (R100). -/
def State.touchPlaces (p : PartNo) (o : PacketOrigin) (l : List Place) (s : State) : State :=
  (linesOf (homesOf l)).foldl (fun s k => s.touch k (s.keyFor (if o = .stream then some p else none) (keyIn l k) k)) s

/-- One element of an accumulate (R132): held under deterministic reduction or for a staged window, else applied. -/
def State.accumOne (p : PartNo) (ch : Fin 8) (a : ActivePacket) (pa : Nat) (key : Option Nat) (x : Word) (s : State) : State :=
  let cls : Nat := match a.origin with | .stream => 0 | .host => 1 | .posted => 2
  let s := s.strike ((List.range 4).map (pa + ·))
  match s.detLines.find? fun d => d.2 == pa / 64 with
  | some d => { s with heldAccs := s.heldAccs ++ [⟨d.1, true, cls, ch, p, a.idx, pa, x, key⟩] }
  | none =>
    match if a.origin = .stream then Treatment.direct else s.treatment pa with
    | .staged tag => { s with heldAccs := s.heldAccs ++ [⟨tag, false, cls, ch, p, a.idx, pa, x, key⟩] }
    | _ => s.accumulate ⟨p, false, cls, ch, p, a.idx, pa, x, key⟩

/-- An accumulate, element by element in ascending order (R132). Its source bytes have all been read before, as R131 says of a
packet whose source and destination overlap; R132 does not say it again (log 73). -/
def State.accumAll (p : PartNo) (ch : Fin 8) (a : ActivePacket) (dst : List Place) (src : List Byte) (s : State) : State :=
  (dst.zip (List.range dst.length)).foldl (fun s x =>
    match x.1 with
    | .home pa key =>
      if x.2 % 4 = 0 then s.accumOne p ch a pa key (BitVec.ofNat 32 (ofBytes ((src.drop x.2).take 4))) else s
    | .plate _ _ => s) s

/-- The marks of a packet whose check has passed: every line of its destination, and its flag line, that lies in a LAND window
(R317); windows begin and end at half lines (R88). -/
def State.markPacket (p : PartNo) (ch : Fin 8) (a : ActivePacket) (s : State) : State :=
  let halves := ((homesOf (a.dst ++ a.flagAt.toList)).map (· / 64)).eraseDups
  { s with marks := s.marks ++ (halves.filterMap fun h =>
      match s.treatment (h * 64) with
      | .land tag => some ⟨h / 2, tag, some (p, ch, a.idx), false⟩
      | _ => none).eraseDups }

/-! ### Execution (R126, R128) -/

/-- The identifier less one of the packet that the channel reads next: proxies are never executed (R123). -/
def nextIdx (q : CopyQueue) : Nat → Nat → Nat
  | 0, n => n
  | k + 1, n => if q.notes.any fun x => x.idx == n && x.proxy then nextIdx q k (n + 1) else n

/-- Whether every byte and element of a packet has been placed. -/
def State.settled (s : State) (p : PartNo) (ch : Fin 8) (a : ActivePacket) : Bool :=
  a.stage == .done && !(s.landings.any fun w => w.agent == .packet p ch a.idx) &&
    !(s.heldAccs.any fun h => h.part == p && h.ch == ch && h.idx == a.idx) &&
    !(a.pkt.dstSp == 2 && s.flowBusy (rowFlow a.origin ch a.dim) p)

/-- The packet that the channel may read next, of which it executes four at once: its index, its image, what is known of it. -/
def State.nextPacket (s : State) (p : PartNo) (ch : Fin 8) : Option (Nat × Packet × Option RingNote) :=
  let q := s.queue p ch
  let n := nextIdx q (q.notes.length + 1) q.readIdx
  if (s.pt p).bound && decide ((q.active.filter fun a => !s.settled p ch a).length < 4) then
    match (s.copyView p ch).bind fun v => s.readySlot p v n with
    | none => none
    | some ws => some (n, Packet.ofWords ws, q.notes.find? fun x => x.idx == n)
  else none

/-- The channel has served the partition (R128). -/
def State.serve (p : PartNo) (ch : Fin 8) (s : State) : State := { s with served := s.served.set ch p }
/-- Records that a packet has been read. -/
def State.pushActive (p : PartNo) (ch : Fin 8) (a : ActivePacket) : State → State :=
  State.onQueue p ch fun q => { q with readIdx := a.idx + 1, active := q.active ++ [a] }
/-- What has become of a packet that has been read. -/
def State.setActive (p : PartNo) (ch : Fin 8) (a : ActivePacket) : State → State :=
  State.onQueue p ch fun q => { q with active := q.active.map fun b => if b.idx = a.idx then a else b }
/-- What is known of a packet beside its slot. -/
def State.noteOf (s : State) (p : PartNo) (ch : Fin 8) (idx : Nat) : Option RingNote := (s.queue p ch).notes.find? fun x => x.idx == idx

/-- Whether a packet reads home memory of this die. -/
def ActivePacket.reads (a : ActivePacket) : Bool := a.origin != .posted && (srcRange a.pkt).isSome
/-- Whether it accumulates. -/
def ActivePacket.sums (a : ActivePacket) : Bool := (a.pkt.kind == 2 || a.pkt.kind == 4) && a.pkt.length != 0

/-- The bytes of a packet's parts of landings that wait. -/
def State.waitingOf (s : State) (p : PartNo) (ch : Fin 8) (b : ActivePacket) : List Nat :=
  (s.landings.filter fun w => w.agent == .packet p ch b.idx).flatMap fun w => w.bytes.map (·.1) ++ bytesOfWords w.bad
/-- The home bytes of a packet whose operands are known that are not in their place: those that it has not handed on, those that wait
for their landing, and its flag. -/
def State.toCome (s : State) (p : PartNo) (ch : Fin 8) (b : ActivePacket) : List Nat :=
  (if b.stage == .done then [] else homesOf b.dst) ++ s.waitingOf p ch b ++
    if b.pkt.flagEn && (b.stage != .done || b.status.toNat % 256 == stOK) then flagBytes b.flagAt else []
/-- The bytes of its held elements (R266). -/
def State.heldOf (s : State) (p : PartNo) (ch : Fin 8) (b : ActivePacket) : List Nat :=
  (s.heldAccs.filter fun h => h.part == p && h.ch == ch && h.idx == b.idx).flatMap fun h => (List.range 4).map (h.pa + ·)
/-- Whether rows of the queue's flows that are not yet drained hold a plate byte (R128). -/
def State.rowPending (s : State) (p : PartNo) (ch : Fin 8) (b o : Nat) : Bool :=
  (s.rowsWaiting ++ s.rowsFull).any fun r => r.part == p && r.slab.val == b && (r.bytes.any fun x => x.1 == o) &&
    (match r.flow with | .exchange _ => false | .copyDim _ c => c == ch | .copyLocal c => c == ch)

/-- Whether a packet waits for an earlier one of its queue: on bytes that both touch the result is as if they ran one after the other
(R128). A plain write waits for no earlier write: the earlier one gives way when it comes (`CopyQueue.takes`). Of a packet whose
operands are not known yet, because it waits for a task (R130), it is only known what it does. -/
def State.follows (s : State) (p : PartNo) (ch : Fin 8) (a b : ActivePacket) : Bool :=
  let dst := homesOf a.dst
  if b.stage == .read then a.reads || a.sums || ((b.reads || b.sums) && !a.dst.isEmpty)
  else
    ((homesOf a.src).any (s.toCome p ch b ++ s.heldOf p ch b).contains) ||
      (if a.sums then dst.any (s.toCome p ch b).contains
       else dst.any (s.heldOf p ch b ++ if b.sums && b.stage != .done then homesOf b.dst else []).contains ||
         (a.origin == .stream && dst.any (s.waitingOf p ch b).contains)) ||
      (b.stage == .checked && dst.any (homesOf b.src).contains)

/-- Whether a packet whose operands are known waits: for an earlier packet of its queue (R128), for the rows of one to drain, or,
where it accumulates into windows that ticks govern, for the earlier landings of its queue (R313). -/
def State.mustFollow (s : State) (p : PartNo) (ch : Fin 8) (a : ActivePacket) : Bool :=
  ((s.queue p ch).active.any fun b => decide (b.idx < a.idx) && s.follows p ch a b) ||
    ((platesOf a.dst).any fun y => s.rowPending p ch y.1 y.2) ||
    (a.sums && a.origin != .stream && s.landsBefore p ch a.idx && (homesOf a.dst).any fun pa => s.treatment pa != .direct)

/-- The positions of poisoned source bytes, for a packet of the stream or another reader. -/
def badPlaces (s : State) (own : Bool) (src : List Nat) : List Nat :=
  (List.range src.length).filter fun k => if own then s.poisoned (src.getD k 0) else s.badView (src.getD k 0)

/-- Sends bytes to the host, one write for each run of addresses. -/
def State.sendHost (l : List (Nat × Byte)) (s : State) : State := (runsOf l).foldl (fun s r => s.send (.pcieWrite r.1 r.2)) s

/-- The execution of a packet whose check has passed and which waits for nothing. `note` holds what a partner's source has supplied:
the bytes, and the positions of the uncorrectable ones. -/
def State.runPacket (p : PartNo) (ch : Fin 8) (a : ActivePacket) (note : Option RingNote) (s : State) : State :=
  let k := a.pkt
  let o := a.origin
  let holes := if o = .posted then note.elim [] (·.bad) else badPlaces s (o == .stream) (homesOf a.src)
  let st := match holes.head? with
    | some j => statusOf stUNCORR (lowBits 48 (k.src.toInt + j))
    | none => statusOf stOK 0
  let a1 := { a with stage := .done, status := st }
  let data := if o = .posted then note.elim [] (·.data) else a.src.map ((s.asQueue p ch).packetRead p o)
  let s1 := (if a.src.isEmpty then s else (s.touchPlaces p o a.src).draw).setActive p ch a1
  let lost := (holes.filterMap fun j => (a.dst[j]?).map Place.granule).eraseDups
  let sound := (a.dst.zip data).filter fun y => !lost.contains y.1.granule
  let poison (s : State) : State := lost.foldl (fun s x => s.poisonPlace p ch a1 x) s
  match k.kind with
  | 1 | 3 => poison (s1.deliver p ch a1 (sound.map (·.1)) (sound.map (·.2)))
  | 2 | 4 => poison (s1.accumAll p ch a1 (sound.map (·.1)) (sound.map (·.2)))
  | 5 =>
    if k.length = 0 then s1
    else if k.dir then (s1.setActive p ch { a with stage := .host }).send (.pcieRead p ch k.src.toNat k.length)
    else
      let granule (j : Nat) : Nat := (k.dst.toNat + j) / 64
      s1.sendHost ((data.mapIdx fun j b => (k.dst.toNat + j, b)).filter fun x => !(holes.map granule).contains (x.1 / 64))
  | _ => s1

/-- An accumulate whose LEN, SRC or DST is not a multiple of 4, or a FLAG with bytes (R127); one of no bytes skips the checks of
its data operands (R133). -/
def badLength (k : Packet) : Bool :=
  ((k.kind == 2 || k.kind == 4) && k.length != 0 &&
    (k.length % 4 != 0 || k.src.toNat % 4 != 0 || k.dst.toNat % 4 != 0)) || (k.kind == 6 && k.length != 0)

/-- Whether a check needs the windows of the dispatched task (R130): a window or plate operand of a posted packet that has
bytes, a window flag. A host packet whose flag names a window waits for a dispatched task as a posted one does; the spec
speaks of posted packets alone (log 26). -/
def needsTask (o : PacketOrigin) (k : Packet) : Bool :=
  (o == .posted && k.length != 0 && (k.kind == 3 || k.kind == 4)) || (o != .stream && k.flagEn && !k.flagSp)

/-- What reading a slot of a queue does beside its answer. -/
def State.visitRing (p : PartNo) (ch : Fin 8) (n : Nat) (s : State) : State :=
  (s.copyView p ch).elim s fun v => s.visitSlot p v n

/-- What ends a packet before its operands are checked (R127, R135). -/
def stopCode (note : Option RingNote) (o : PacketOrigin) (k : Packet) : Option Nat :=
  if note.any (·.cancel) then some stCANCEL
  else if note.elim true (·.valid) = false ∨ validPacket o k = false then some stBADPKT
  else if badLength k then some stLENGTH
  else if k.flagEn ∧ k.flagAddr.toNat % 8 ≠ 0 then some stALIGN
  else none

/-- A posted copy whose check has passed asks the sender's die for its source (R123). -/
def State.pullSource (p : PartNo) (ch : Fin 8) (a : ActivePacket) (note : Option RingNote) (s : State) : State :=
  match if a.origin = .posted ∧ (a.pkt.kind = 3 ∨ a.pkt.kind = 4) ∧ a.pkt.length ≠ 0 then note else none with
  | none => s
  | some n =>
    ((s.setActive p ch { a with stage := .pulling }).onQueue p ch fun q =>
      { q with notes := (q.notes.filter fun x => x.idx != a.idx) ++ [n] }).sendPair n.dim (.readRequest n.job ch n.src)

/-- The check of a packet that has been read, before any of its bytes moves (R127, R130): what it reaches next, or none while it waits
for a task to be dispatched. -/
def State.checkActive (p : PartNo) (ch : Fin 8) (a : ActivePacket) (s : State) : Option State :=
  let note := s.noteOf p ch a.idx
  let o := a.origin
  let stop (code faddr : Nat) (s : State) : State := s.setActive p ch { a with stage := .done, status := statusOf code faddr }
  let pass (x : Operands) (s : State) : State :=
    let a1 := { a with stage := .checked, src := x.src, dst := x.dst, flagAt := x.flag }
    ((if o = .stream then s else s.markPacket p ch a1).setActive p ch a1).pullSource p ch a1 note
  match stopCode note o a.pkt with
  | some c => some (stop c 0 s)
  | none =>
    if o = .stream then some (pass (s.ownOperands p a.pkt) s)
    else if needsTask o a.pkt ∧ (s.taskOf p).isNone then none
    else
      match s.checkOperands p o a.pkt with
      | (s1, .error e) => some (stop e.1 e.2 s1)
      | (s1, .ok x) => some (pass x s1)

/-- A packet whose operands are known is executed, unless it waits: for another (R128), for its source bytes (R123), or, where the
host's side of it is stopped, for good (R394); one that has been cancelled ends instead (R135). -/
def State.carryOn (p : PartNo) (ch : Fin 8) (a : ActivePacket) (s : State) : Option State :=
  let note := s.noteOf p ch a.idx
  let ready : Bool := a.stage == .checked || (a.stage == .pulling && note.any fun n => decide (a.pkt.length ≤ n.data.length))
  if a.stage == .checked ∧ note.any (·.cancel) then
    some (s.setActive p ch { a with stage := .done, status := statusOf stCANCEL 0, dst := [] })
  else if ready = false ∨ s.mustFollow p ch a ∨ (a.pkt.kind = 5 ∧ s.alarm ≠ 0) then none
  else some (s.runPacket p ch a note)

/-- The next step of a packet that has been read: its check, and then its execution as soon as it can be. -/
def State.stepActive (p : PartNo) (ch : Fin 8) (a : ActivePacket) (s : State) : Option State :=
  if a.stage = .read then
    (s.checkActive p ch a).map fun s1 =>
      (((s1.queue p ch).active.find? fun b => b.idx == a.idx).bind fun b => s1.carryOn p ch b).getD s1
  else s.carryOn p ch a

/-- A packet that the channel reads now. -/
def ActivePacket.fresh (idx : Nat) (k : Packet) (note : Option RingNote) : ActivePacket :=
  { idx := idx, pkt := k, origin := note.elim .host (·.origin), stage := .read, status := 0, src := [], dst := [], flagAt := none,
    job := note.elim 0 (·.job), dim := note.elim 0 (·.dim) }

/-- A channel goes on with the first packet of a wanted kind that it has read and that can go on, or else reads the next packet of the
queue, if its kind is wanted, and goes as far with it as it can (R128). -/
def opPacket (want : Nat → Bool) (p : PartNo) (ch : Fin 8) (s : State) : State :=
  match ((s.queue p ch).active.filter fun a => want a.pkt.kind).findSome? fun a => s.stepActive p ch a with
  | some s1 => s1.serve p ch
  | none =>
    match s.nextPacket p ch with
    | none => s.tryQueue p (s.copyHdr p ch) (s.queue p ch).readIdx
    | some (n, k, note) =>
      if want k.kind then
        let a := ActivePacket.fresh n k note
        let s1 := ((s.visitRing p ch n).serve p ch).pushActive p ch a
        (s1.stepActive p ch a).getD s1
      else s

/-- PACKET_NOP. -/
def execPacketNop (o : QueueId) (s : State) : Out := .next (opPacket (· == 0) o.part o.ch s)
/-- PACKET_COPY; it also takes a packet whose kind is not listed (R126). -/
def execPacketCopy (o : QueueId) (s : State) : Out := .next (opPacket (fun k => k == 1 || decide (6 < k)) o.part o.ch s)
def execPacketCopya (o : QueueId) (s : State) : Out := .next (opPacket (· == 2) o.part o.ch s)
def execPacketCopyd (o : QueueId) (s : State) : Out := .next (opPacket (· == 3) o.part o.ch s)
def execPacketCopyda (o : QueueId) (s : State) : Out := .next (opPacket (· == 4) o.part o.ch s)
def execPacketCopyh (o : QueueId) (s : State) : Out := .next (opPacket (· == 5) o.part o.ch s)
def execPacketFlag (o : QueueId) (s : State) : Out := .next (opPacket (· == 6) o.part o.ch s)

/-! ### The host's side (R127) -/

/-- Settles the packet of a queue that waits for the host: the bytes that have come are written, also before an error (R130). Under an
alarm the host's side is stopped (R394). -/
def State.hostAnswer (p : PartNo) (ch : Fin 8) (ok : Bool) (bytes : List Byte) (s : State) : State :=
  match if s.alarm = 0 then (s.queue p ch).active.find? fun a => a.stage == .host else none with
  | none => s
  | some a =>
    let a1 := { a with stage := .done, status := statusOf (if ok then stOK else stHOSTERR) 0, dst := a.dst.take bytes.length }
    (s.setActive p ch a1).deliver p ch a1 a1.dst bytes

/-- PCIE_COMPLETION: data, or an error status. -/
def execPcieCompletion (o : PcieDone) (s : State) : Out := .next (s.hostAnswer o.part o.ch o.ok o.bytes)
/-- COMPLETION_TIMEOUT. -/
def execCompletionTimeout (o : QueueId) (s : State) : Out := .next (s.hostAnswer o.part o.ch false [])

/-! ### Retirement (R129, R132, R317) -/

/-- Whether a packet writes its flag at retirement (R129 step 2). -/
def ActivePacket.writesFlag (a : ActivePacket) : Bool := a.pkt.flagEn && a.status.toNat % 256 == stOK

/-- STATUS, then DONEID (R129 steps 3, 4). -/
def State.finishSlot (p : PartNo) (v : QueueView) (idx : Nat) (st : DWord) (s : State) : State :=
  (s.vput64 p (v.slot idx + 56) st.toNat).vput64 p (v.hdr + 8) (idx + 1)

/-- The bytes of a retired packet of the stream are in the stash for every agent that learns of its retirement (R129, R316). -/
def State.showPacket (p : PartNo) (ch : Fin 8) (idx : Nat) (s : State) : State :=
  { s with loose := s.loose.map fun l =>
      if l.part = p ∧ l.pkt = some (ch, idx) then { l with freeFor := l.freeFor.filter (· != .outside) } else l }

/-- Retires a packet that was executed. -/
def State.retireActive (p : PartNo) (ch : Fin 8) (v : QueueView) (a : ActivePacket) (s : State) : State :=
  let flag := ((flagBytes a.flagAt).zip (toBytes 8 a.pkt.flagVal.toNat)).filter fun x => !(s.queue p ch).takes a.idx (.home x.1 none)
  let s1 := if a.writesFlag then s.packetStore p ch a.idx a.origin true (keyIn a.flagAt.toList) flag else s
  let s2 := (s1.finishSlot p v a.idx a.status).onQueue p ch fun q =>
    { q with readIdx := max q.readIdx (a.idx + 1), active := q.active.filter fun x => x.idx != a.idx,
             notes := q.notes.filter fun x => x.idx != a.idx }
  let s3 := { s2 with marks := s2.marks.map fun m => if m.packet = some (p, ch, a.idx) then { m with retired := true } else m }
  match a.origin with
  | .stream =>
    let s4 := (s3.showPacket p ch a.idx).onCtx p (Stream.raise (BitVec.ofNat 7 (bits a.status.toNat 8 7)))
    if a.pkt.barEn then s4.arriveAt p a.pkt.bar else s4
  | .posted => s3.sendPair a.dim (.proxyRetire a.job ch a.status)
  | .host => s3

/-- Retires a proxy with the partner's STATUS, or with NOPART (R123). -/
def State.retireProxy (p : PartNo) (ch : Fin 8) (v : QueueView) (x : RingNote) (s : State) : State :=
  let st := if x.failed then statusOf stNOPART 0 else x.report.getD 0
  let k := ((List.range 8).mapM fun j => s.vread64 p (v.slot x.idx + 8 * j)).elim (Packet.ofWords []) Packet.ofWords
  let s1 := (s.finishSlot p v x.idx st).onQueue p ch fun q =>
    { q with readIdx := max q.readIdx (x.idx + 1), notes := q.notes.filter fun y => y.idx != x.idx }
  let s2 := s1.onCtx p (Stream.raise (BitVec.ofNat 7 (bits st.toNat 8 7)))
  if k.barEn then s2.arriveAt p k.bar else s2

/-- Whether the flag of a packet finds its way at once. -/
def State.flagLands (s : State) (a : ActivePacket) : Bool :=
  !a.writesFlag || a.origin == .stream || (homesOf a.flagAt.toList).all s.canLand

/-- PACKET_RETIRE: the packet after DONEID, once it is settled. -/
def opPacketRetire (o : QueueId) (s : State) : State :=
  match s.copyView o.part o.ch with
  | none => s.visit o.part (s.copyHdr o.part o.ch) 24
  | some v =>
    let q := s.queue o.part o.ch
    match q.active.find? fun a => a.idx == v.done with
    | some a =>
      if s.settled o.part o.ch a && s.flagLands a then s.retireActive o.part o.ch v a else s
    | none =>
      match q.notes.find? fun x => x.idx == v.done && x.proxy with
      | some x => if x.failed || x.report.isSome then s.retireProxy o.part o.ch v x else s
      | none => s
def execPacketRetire (o : QueueId) (s : State) : Out := .next (opPacketRetire o s)

end Sys2Proof.Machine
end

