-- ==== Sys2Proof/Machine/Records.lean ====
section
/-!
DEFINITION. Task queues, completion records and graph records (R329-R334, R338-R340).
-/
namespace Sys2Proof.Machine

/-! ### Completion codes (R331) -/

def ccOK : Nat := 0x01
def ccHIT : Nat := 0x02
def ccEMPTY : Nat := 0x03
def ccBADDESC : Nat := 0x10
def ccBADVER : Nat := 0x11
def ccBADWIN : Nat := 0x12
def ccEXTENTS : Nat := 0x13
def ccDENIED : Nat := 0x14
def ccKEY : Nat := 0x15
def ccBADLAUNCH : Nat := 0x16
def ccNOPATH : Nat := 0x17
def ccFAULT : Nat := 0x18
def ccTRAPPED : Nat := 0x19
def ccKILLED : Nat := 0x1A
def ccBADGRAPH : Nat := 0x1B
def ccLOOPMAX : Nat := 0x1C

/-- What a record says (R331). -/
structure Record where
  code : Nat
  trap : Nat
  attempts : Nat
  taskid : Nat
  tstart : Nat
  flags : Nat
  points : Nat
  detail : Nat
  deriving DecidableEq, Repr

/-- STATUS, the first eight bytes. -/
def Record.status (r : Record) : Nat := r.code % 256 + r.trap % 256 * 2 ^ 8 + min r.attempts 0xFFFF * 2 ^ 32
/-- Bytes 8-63, written first; TEND is the GTIME of the write. -/
def Record.body (r : Record) (tend : Nat) : List Byte :=
  toBytes 8 r.taskid ++ toBytes 8 r.tstart ++ toBytes 8 tend ++ toBytes 8 r.flags ++ toBytes 8 r.points ++
    toBytes 8 r.detail ++ List.replicate 8 0

/-- TASKID (R334): the partition and the entry's transfer identifier. -/
def taskIdOf (p : PartNo) (id : Nat) : Nat := p.val * 2 ^ 62 + id % 2 ^ 62

/-- Whether a record can be written: its address is a multiple of 64 and its page is mapped and writable (R331). -/
def State.canRecord (s : State) (p : PartNo) (va : Nat) : Bool := va % 64 == 0 && (s.vphys p va false true).isSome

/-- Writes a record, or raises RECORD (R331, R340, R386). `id` is the entry's transfer identifier. -/
def State.writeRecord (p : PartNo) (va : Nat) (graph : Bool) (id : Nat) (r : Record) (s : State) : State :=
  if s.canRecord p va then (s.vwrite p (va + 8) (r.body s.gtime.toNat)).vput64 p va r.status
  else (if va % 64 = 0 then s.afterWalk p va else s).event 0x000E (p.val + (if graph then 4 else 0) + id % 2 ^ 29 * 8)

/-! ### Entries of a task queue (R332) -/

/-- DONEID after the retired entries that follow on from it. -/
def advanceDone (retired : List Nat) : Nat → Nat → Nat
  | 0, d => d
  | k + 1, d => if retired.contains d then advanceDone retired k (d + 1) else d

/-- Claims slots for the fan-out copies that wait, as far as room goes (R122, R333). -/
def State.claimFanouts (p : PartNo) (s : State) : State :=
  (s.pt p).tqPosted.foldl (fun s e =>
    match s.taskView p with
    | none => s
    | some v =>
      if v.room then
        (s.claimSlot p v (e.map (·.toNat))).onPart p fun t => { t with tqPosted := t.tqPosted.drop 1 }
      else s) s

/-- Retires the entry with index n; DONEID advances in identifier order (R129, R332). -/
def State.retireEntry (p : PartNo) (n : Nat) (s : State) : State :=
  let s1 := s.onPart p fun t => { t with tqRetired := n :: t.tqRetired }
  match s1.taskView p with
  | none => s1
  | some v =>
    let l := (s1.pt p).tqRetired
    let d := advanceDone l l.length v.done
    ((s1.vput64 p (v.hdr + 8) d).onPart p fun t => { t with tqRetired := t.tqRetired.filter fun k => decide (d ≤ k) })
      |>.claimFanouts p

/-- The entry that dispatch reads next, once its slot may be read (R122, R332), with its index. -/
def State.nextEntry (s : State) (p : PartNo) : Option (Nat × List Nat) :=
  let t := s.pt p
  if t.bound && t.disp == .idle then
    match s.taskView p with
    | none => none
    | some v => (s.readySlot p v t.tqRead).map fun ws => (t.tqRead, ws)
  else none

/-- Fields of an entry. -/
def entryKind (ws : List Nat) : Nat := bits (ws.getD 0 0) 0 4
def entryFanout (ws : List Nat) : Bool := bit (ws.getD 0 0) 4
def entryLevel (ws : List Nat) : Nat := bits (ws.getD 0 0) 5 4
def entryMask (ws : List Nat) : BitVec 14 := BitVec.ofNat 14 (ws.getD 2 0)
def entryBase (ws : List Nat) : BitVec 14 := BitVec.ofNat 14 (bits (ws.getD 2 0) 16 14)

/-- A FANOUT entry is forwarded before it is dispatched (R333). -/
def Partition.forwarded (t : Partition) (n : Nat) (ws : List Nat) : Bool := !entryFanout ws || decide (n < t.fanned)

/-- The next entry, if it is of a kind and has been forwarded where it must be. -/
def State.entryOf (s : State) (p : PartNo) (want : Nat → Bool) : Option (Nat × List Nat) :=
  (s.nextEntry p).filter fun x => want (entryKind x.2) && (s.pt p).forwarded x.1 x.2

/-- What reading the header of a task queue and its slot n does beside its answer (R99, R100). -/
def State.visitEntry (p : PartNo) (n : Nat) (s : State) : State := (s.taskView p).elim s fun v => s.visitSlot p v n
/-- What a try to read the next entry does where it cannot be read. -/
def State.tryEntry (p : PartNo) (s : State) : State :=
  if (s.pt p).bound then s.tryQueue p (s.pt p).bind.tqhdr.toNat (s.pt p).tqRead else s
/-- Passes an entry that has been read. -/
def State.passEntry (p : PartNo) (n : Nat) (s : State) : State := (s.visitEntry p n).onPart p fun t => { t with tqRead := n + 1 }

/-- QUEUE_NOP_ENTRY. -/
def opQueueNopEntry (p : PartNo) (s : State) : State :=
  match s.entryOf p (· == 0) with
  | none => s.tryEntry p
  | some (n, _) => (s.passEntry p n).retireEntry p n
def execQueueNopEntry (p : PartNo) (s : State) : Out := .next (opQueueNopEntry p s)

/-- RESERVED_KIND_ENTRY. -/
def opReservedKindEntry (p : PartNo) (s : State) : State :=
  match s.entryOf p fun k => decide (3 ≤ k) with
  | none => s.tryEntry p
  | some (n, _) => (s.passEntry p n).retireEntry p n
def execReservedKindEntry (p : PartNo) (s : State) : Out := .next (opReservedKindEntry p s)

/-! ### Fan-out (R333) -/

/-- The first FANOUT entry from index n on among the readable ones. -/
def State.findFanout (s : State) (p : PartNo) (v : QueueView) : Nat → Nat → Option (Nat × List Nat)
  | 0, _ => none
  | k + 1, n =>
    match s.readySlot p v n with
    | none => none
    | some ws => if entryFanout ws then some (n, ws) else s.findFanout p v k (n + 1)

/-- The FANOUT entry that is to be forwarded next. -/
def State.nextFanout (s : State) (p : PartNo) : Option (Nat × List Nat) :=
  if (s.pt p).bound then
    (s.taskView p).bind fun v => s.findFanout p v v.size (max (s.pt p).fanned (s.pt p).tqRead)
  else none

/-- The copy of an entry that crosses logical dimension d. -/
def fanoutCopy (ws : List Nat) (d : Nat) : List DWord :=
  (BitVec.ofNat 64 (setBits (setBits (ws.getD 0 0) 63 1 0) 5 4 d)) :: (ws.drop 1).map (BitVec.ofNat 64)

/-- FANOUT_FORWARD. -/
def opFanoutForward (p : PartNo) (s : State) : State :=
  match s.nextFanout p with
  | none => s.tryEntry p
  | some (n, ws) =>
    let mask := entryMask ws
    let dims := List.range (min (entryLevel ws) (popCount 14 mask.toNat))
    let first := max (s.pt p).fanned (s.pt p).tqRead
    let s := (List.range (n + 1 - first)).foldl (fun s k => s.visitEntry p (first + k)) s
    (dims.foldl (fun s d => s.sendPair (physDim mask d) (.fanout (fanoutCopy ws d) (s.pt p).bind.job)) s).onPart p
      fun t => { t with fanned := n + 1 }
def execFanoutForward (p : PartNo) (s : State) : Out := .next (opFanoutForward p s)

/-- A fan-out copy that has come from a partner: posted into the queue of the job's partition, or discarded and
reported. -/
def State.takeFanout (entry : List DWord) (job : Word) (s : State) : State :=
  match s.partOfJob job with
  | none => s.event 0x0006 job.toNat
  | some p => (s.onPart p fun t => { t with tqPosted := t.tqPosted ++ [entry] }).claimFanouts p

/-! ### Graph nodes (R338) -/

structure GraphNode where
  type : Nat
  nin : Nat
  s0 : Nat
  s1 : Nat
  addr : Nat
  limit : Nat
  state : Nat
  deriving DecidableEq, Repr

def State.nodeAddr (s : State) (p : PartNo) (n : Nat) : Nat := (s.pt p).bind.graph.toNat + 32 * n

/-- The node of an index; none where its words cannot be read. -/
def State.graphNode (s : State) (p : PartNo) (n : Nat) : Option GraphNode := do
  let a := s.nodeAddr p n
  let w0 ← s.vread64 p a
  let w1 ← s.vread64 p (a + 8)
  let w2 ← s.vread64 p (a + 16)
  let w3 ← s.vread64 p (a + 24)
  pure { type := bits w0 0 3, nin := bits w0 8 8, s0 := bits w0 16 16, s1 := bits w0 32 16, addr := w1, limit := w2, state := w3 }

/-- What reading a node does beside its answer (R99, R100). -/
def State.visitNode (p : PartNo) (n : Nat) (s : State) : State := s.visit p (s.nodeAddr p n) 32

/-- A visit to 0xFFFF does nothing. -/
def visitsOf (n : Nat) (l : List Nat) : List (Nat × Nat) := (l.filter (· != 0xFFFF)).map fun k => (n, k)

/-! ### The end of a graph (R340) -/

/-- Whether every record that the walk waits for has been written. -/
def GraphWalk.over (g : GraphWalk) : Bool :=
  g.queued.isEmpty && (g.ended.isSome || (g.atEnd.isSome && g.visits.isEmpty))

/-- CODE, TRAP and node of a finished walk. -/
def GraphWalk.outcome (g : GraphWalk) : Nat × Nat × Nat := g.ended.getD (ccOK, 0, g.atEnd.getD 0)

/-- Writes the graph record and retires the GRAPH entry. -/
def State.finishGraph (p : PartNo) (g : GraphWalk) (s : State) : State :=
  let o := g.outcome
  let id := g.entryIdx + 1
  let r : Record :=
    { code := o.1, trap := o.2.1, attempts := 0, taskid := taskIdOf p id, tstart := g.tstart.toNat, flags := g.flags.toNat,
      points := g.points, detail := o.2.2 }
  ((s.writeRecord p g.grec true id r).onPart p fun t =>
    { t with graphs := t.graphs.filter fun x => x.entryIdx != g.entryIdx }).retireEntry p g.entryIdx

/-- Whether a GRAPH entry before entry n has no record yet, the one whose walk has queued it apart (R336; log 37). -/
def Partition.openGraph (t : Partition) (n : Nat) : Bool :=
  t.graphs.any fun g => decide (g.entryIdx < n) && !(g.queued.any fun q => q.1 == n)

/-- The record of an entry whose DOMAIN is empty (R336). -/
def emptyRecord (p : PartNo) (n : Nat) : Record :=
  { code := ccEMPTY, trap := 0, attempts := 0, taskid := taskIdOf p (n + 1), tstart := 0, flags := 0, points := 0, detail := 0 }
/-- Writes the records of the empty entries that waited for a GRAPH entry's and wait no longer (R336). -/
def State.settleEmpties (p : PartNo) (s : State) : State :=
  let waits (e : Nat × Nat) : Bool := (s.pt p).openGraph e.1
  ((s.pt p).empties.filter fun e => !waits e).foldl
    (fun s e => (s.writeRecord p e.2 false (e.1 + 1) (emptyRecord p e.1)).retireEntry p e.1)
    (s.onPart p fun t => { t with empties := t.empties.filter waits })

/-- Finishes every walk that is over, and what waited for its record. -/
def State.settleGraphs (p : PartNo) (s : State) : State :=
  (((s.pt p).graphs.filter GraphWalk.over).foldl (fun s g => s.finishGraph p g) s).settleEmpties p

/-- Tells a walk the outcome of one of its tasks (R339). -/
def State.tellGraph (s : State) (p : PartNo) (n : Nat) (r : Record) (g : GraphWalk) : GraphWalk :=
  match g.queued.find? fun q => q.1 == n with
  | none => g
  | some (_, node) =>
    let g1 := { g with queued := g.queued.filter fun q => q.1 != n, flags := g.flags ||| BitVec.ofNat 7 r.flags,
                       points := g.points + if r.code = ccOK ∨ r.code = ccHIT then 1 else 0 }
    if g1.ended.isSome then g1
    else if r.code ≤ ccEMPTY then
      match s.graphNode p node with
      | some x => { g1 with visits := g1.visits ++ visitsOf node [x.s0, x.s1] }
      | none => { g1 with ended := some (ccBADGRAPH, 0, node) }
    else { g1 with ended := some (r.code, r.trap, node) }

/-- The record of the task of entry n: written, the entry retired, the graph walks told. -/
def State.endEntry (p : PartNo) (n : Nat) (crec : Nat) (r : Record) (s : State) : State :=
  let s0 := (s.writeRecord p crec false (n + 1) r).retireEntry p n
  let s1 := ((s0.pt p).graphs.flatMap fun g => g.queued.filter fun q => q.1 == n).foldl (fun s q => s.visitNode p q.2) s0
  (s1.onPart p fun t => { t with graphs := t.graphs.map (s1.tellGraph p n r) }).settleGraphs p

end Sys2Proof.Machine
end

