-- ==== Sys2Proof/Machine/Repeater.lean ====
section
/-!
DEFINITION. The Repeater: keys, lookups, hits and recordings (R352-R359), and the four words REPQ, REPC, REPX, REPS
(R360, R361).
-/
namespace Sys2Proof.Machine

/-! ### Tenants and pools (R352) -/

/-- The valid row of a tenant. -/
def State.tenantRow (s : State) (tenant : BitVec 12) : Option TenantRow :=
  s.tenants.toList.find? fun r => r.valid && r.tenant == tenant

/-- The first 256 bits of a key slot; an empty slot holds zeros (R97, R391). -/
def State.hashKey (s : State) (slot : Fin 1024) : List Byte :=
  toBytes 32 ((s.keys.find? fun k => k.slot == slot).elim 0 fun k => k.key.toNat)

/-- The frames that belong to a tenant's pool. -/
def State.pool (s : State) (tenant : BitVec 12) : List Nat := (s.pools.find? fun x => x.1 == tenant).elim [] (·.2)
def State.setPool (tenant : BitVec 12) (l : List Nat) (s : State) : State :=
  { s with pools := (tenant, l) :: s.pools.filter fun x => x.1 != tenant }
/-- The pool frames that no entry of the tenant holds. -/
def State.poolFree (s : State) (tenant : BitVec 12) : List Nat :=
  let used := (s.repEntries.filter fun e => e.tenant == tenant).flatMap fun e => e.outs.flatMap (·.2)
  (s.pool tenant).filter fun f => !used.contains f

/-! ### Keys (R353) -/

/-- A window that is an input of a PURE task. -/
def Window.isInput (w : Window) : Bool := w.len != 0 && (w.attr == .input || w.attr == .inout)
/-- Eight bytes of the descriptor. -/
def Task.descWord (t : Task) (at' : Nat) : Nat := ofBytes ((t.desc.drop at').take 8)

/-- The entry of the window table as the key shows it. -/
def Task.keyWindow (t : Task) (content : Bool) (w : Nat) : List Byte :=
  let e := (t.desc.drop (384 + 32 * w)).take 32
  if (t.win w).isInput ∧ content = false then e else List.replicate 8 0 ++ e.drop 8

/-- An extent as the key shows it. -/
def Extent.keyBytes (x : Extent) : List Byte :=
  toBytes 8 (x.win + x.key * 2 ^ 16) ++ toBytes 8 (x.vstart * 65536) ++ toBytes 8 (x.pstart * 65536 + x.len * 2 ^ 48)

/-- The bytes of a whole window in the main partition. -/
def State.windowBytes (s : State) (t : Task) (w : Nat) : List Byte :=
  (List.range (t.win w).len).map fun k => s.byte (t.phys w ((t.win w).base + k))

/-- The message of R353. -/
def State.repMessage (s : State) (p : PartNo) (t : Task) (seed : DWord) : List Byte :=
  let content := bit t.ctl.toNat 20
  let bind := (s.pt p).bind
  let order := popCount 14 t.mask.toNat
  toBytes 8 (0x0100 + b2n content 16) ++ (t.desc.drop 88).take 32 ++ toBytes 8 t.ctl.toNat ++ toBytes 8 (t.descWord 32) ++
    toBytes 8 (t.descWord 80) ++ toBytes 8 seed.toNat ++ toBytes 8 0x007E0100 ++ toBytes 8 0x0100 ++
    toBytes 8 s.node.toNat ++ toBytes 8 (t.mask.toNat + t.base.toNat * 2 ^ 16) ++
    toBytes 8 (rankOf t.mask s.node.toNat + order * 2 ^ 16) ++
    toBytes 8 (p.val + bind.tenant.toNat * 2 ^ 8 + bind.plates % 128 * 2 ^ 20) ++ toBytes 8 0 ++
    (t.desc.drop 128).take 256 ++ ((List.range 16).flatMap (t.keyWindow content)) ++ blake3 t.routines ++
    (if content then
      List.replicate 32 0 ++ ((List.range 16).filter fun w => (t.win w).isInput).flatMap fun w => blake3 (s.windowBytes t w)
    else
      blake3 ((t.extents.filter fun x => x.win == 16 || (t.win x.win).isInput).flatMap Extent.keyBytes))

/-- The key of a task under its tenant's row. -/
def State.repKey (s : State) (p : PartNo) (t : Task) (seed : DWord) (row : TenantRow) : List Byte :=
  blake3Keyed (s.hashKey row.hslot) (s.repMessage p t seed)

/-! ### Lookup (R354) -/

inductive RepResult where
  | hit (e : RepEntry)
  | missRec (key : List Byte)
  | missNoRec (key : List Byte)
  deriving DecidableEq, Repr

/-- The ranges that an entry of a task watches. -/
def Task.watchRanges (t : Task) : List (Nat × Nat) :=
  (t.extents.filter fun x => x.win == 16 || (t.win x.win).isInput).map fun x => (x.pstart * 65536, x.len * 65536)

/-- Removes the least recently used VALID entry that satisfies a test; the newest entry stands first. -/
def State.evictLru (f : RepEntry → Bool) (s : State) : State :=
  match (s.repEntries.filter fun e => e.state == .valid && f e).getLast? with
  | none => s
  | some e => ({ s with repEntries := s.repEntries.erase e }).count e.tenant 5

/-- Evicts until an entry and n watch ranges are free; false when no VALID entry remains. -/
def State.makeRoom (n : Nat) : Nat → State → State × Bool
  | 0, s => (s, false)
  | k + 1, s =>
    if s.repEntries.length < 4096 ∧ (s.repEntries.map fun e => e.watch.length).foldl (· + ·) 0 + n ≤ 16384 then (s, true)
    else if s.repEntries.any fun e => e.state == .valid then State.makeRoom n k (s.evictLru fun _ => true)
    else (s, false)

/-- The lines of the windows that content mode reads whole through the stash before the lookup (R353). -/
def Task.contentReads (t : Task) : List Nat :=
  if bit t.ctl.toNat 20 then
    ((List.range 16).filter fun w => (t.win w).isInput).flatMap fun w =>
      (List.range ((t.win w).len / 64)).map fun k => t.phys w ((t.win w).base + 64 * k)
  else []
/-- Reads of physical addresses through the stash, under the key slots of a task's extents (R98, R101). -/
def State.touchFor (t : Task) (l : List Nat) (s : State) : State :=
  (linesOf l).foldl (fun s k => s.touch k (s.keyFor none (t.keyAt (k * 128)) k)) s

/-- The lookup of R354. -/
def State.repLookup (p : PartNo) (t : Task) (seed : DWord) (s0 : State) : State × RepResult :=
  let tenant := (s0.pt p).bind.tenant
  match s0.tenantRow tenant with
  | none => (s0, .missNoRec [])
  | some row =>
    let s := s0.touchFor t t.contentReads
    let key := s.repKey p t seed row
    match s.repEntries.find? fun e => e.tenant == tenant && e.key == key with
    | some e => if e.state = .valid then (s.count tenant 0, .hit e) else (s.count tenant 1, .missNoRec key)
    | none =>
      let s1 := s.count tenant 1
      if row.recording = false then (s1, .missNoRec key)
      else
        match s1.makeRoom t.watchRanges.length (s1.repEntries.length + 1) with
        | (s2, false) => (s2, .missNoRec key)
        | (s2, true) =>
          let e : RepEntry :=
            { tenant := tenant, key := key, state := .pending, content := bit t.ctl.toNat 20, flags := flNone, points := 0,
              outs := [], watch := t.watchRanges }
          ({ s2 with repEntries := e :: s2.repEntries }, .missRec key)

/-! ### Hit (R355, R359) -/

/-- The OUT windows of a task. -/
def Task.outs (t : Task) : List Nat := (List.range 16).filter fun w => (t.win w).isOut

/-- The address of the leaf entry of a page of 64 KiB, where the leaf is a small one. -/
def State.smallLeaf (s : State) (root va : Nat) : Option Nat :=
  let t := s.word64 (root + 8 * bits va 36 12)
  let d := s.word64 (bits t 16 20 * 2 ^ 16 + 8 * bits va 23 13)
  if bit t 0 ∧ bit d 0 ∧ bit d 1 = false then some (bits d 5 31 * 2 ^ 5 + 8 * bits va 16 7) else none

/-- Whether a window can be rebound (R359). -/
def State.canRebind (s : State) (p : PartNo) (t : Task) (w : Nat) : Bool :=
  let win := t.win w
  win.rebind && win.base % 65536 == 0 && win.len % 65536 == 0 &&
    (List.range (win.len / 65536)).all fun k => (s.smallLeaf (s.pt p).bind.root.toNat (win.base + 65536 * k)).isSome

/-- Fills an OUT window from the pool. -/
def State.fillOut (t : Task) (w : Nat) (frames : List Nat) (s : State) : State :=
  let src (k : Nat) : Nat := frames.getD (k / 65536) 0 * 65536 + k % 65536
  (s.touchLines ((List.range (t.win w).len).map src)).writeMain none 1 (fun line => t.keyAt (line * 128))
    ((List.range (t.win w).len).map fun k => (t.phys w ((t.win w).base + k), s.byte (src k)))

/-- Rebinds an OUT window onto the entry's frames; its former frames join the pool. -/
def State.rebindOut (p : PartNo) (t : Task) (w : Nat) (frames : List Nat) (pkey : Nat) (s : State) : State :=
  let tenant := (s.pt p).bind.tenant
  let root := (s.pt p).bind.root.toNat
  let pages := (List.range ((t.win w).len / 65536)).map fun k => ((t.win w).base + 65536 * k, frames.getD k 0)
  let old := pages.map fun x => bits (s.word64 ((s.smallLeaf root x.1).getD 0)) 16 20
  let s1 := pages.foldl (fun s x =>
    let a := (s.smallLeaf root x.1).getD 0
    s.writeMain none 8 noKey (bytesAt a 8 (setBits (setBits (s.word64 a) 16 20 x.2) 4 10 pkey))) s
  let s2 := s1.setPool tenant (((s1.pool tenant).filter fun f => !frames.contains f) ++ old)
  s2.event 0x0007 (p.val + w * 4)

/-- What the reads of the entries above the leaves do, where a window asks to be rebound (R93, R359). -/
def State.leafReads (p : PartNo) (t : Task) (s : State) : State :=
  ((t.outs.filter fun w => (t.win w).rebind).flatMap fun w =>
    (List.range ((t.win w).len / 65536)).map fun k => (t.win w).base + 65536 * k).foldl (fun s va => s.afterWalk p va) s

/-- A hit: every OUT window is filled or rebound; a rebinding hit consumes the entry. -/
def State.repHit (p : PartNo) (t : Task) (e : RepEntry) (s : State) : State :=
  let pkey := (s.tenantRow e.tenant).elim 0 fun r => r.pkey.val
  let frames (w : Nat) : List Nat := (e.outs.find? fun x => x.1 == w).elim [] (·.2)
  let bound := t.outs.filter (s.canRebind p t)
  let s1 := ({ s with repEntries := e :: s.repEntries.erase e }).leafReads p t
  let s2 := t.outs.foldl (fun s w =>
    if bound.contains w then s.rebindOut p t w (frames w) pkey else s.fillOut t w (frames w)) s1
  if bound.isEmpty then s2 else { s2 with repEntries := s2.repEntries.erase e }

/-! ### Recording and abandoning (R356, R358) -/

/-- Abandons the PENDING entry of a task. -/
def State.abandon (p : PartNo) (r : RepOutcome) (s : State) : State :=
  match r with
  | .pending key => s.dropEntries fun e => e.tenant == (s.pt p).bind.tenant && e.key == key && e.state == .pending
  | _ => s

/-- Evicts the tenant's own VALID entries until n units are free. -/
def State.poolRoom (tenant : BitVec 12) (n : Nat) : Nat → State → State
  | 0, s => s
  | k + 1, s =>
    if n ≤ (s.poolFree tenant).length then s
    else State.poolRoom tenant n k (s.evictLru fun e => e.tenant == tenant)

/-- Gives each OUT window its frames. -/
def allotFrames (t : Task) : List Nat → List Nat → List (Nat × List Nat)
  | [], _ => []
  | w :: ws, free =>
    let n := ((t.win w).len + 65535) / 65536
    (w, free.take n) :: allotFrames t ws (free.drop n)

/-- Records the outputs of a task's run under its key (R356). -/
def State.repRecord (p : PartNo) (t : Task) (flags : Flags) (s : State) : State :=
  match t.rep with
  | .pending key =>
    let tenant := (s.pt p).bind.tenant
    match s.repEntries.find? fun e => e.tenant == tenant && e.key == key && e.state == .pending with
    | none => s
    | some e =>
      let need := (t.outs.map fun w => ((t.win w).len + 65535) / 65536).foldl (· + ·) 0
      let s1 := s.poolRoom tenant need (s.repEntries.length + 1)
      if (s1.poolFree tenant).length < need then { s1 with repEntries := s1.repEntries.erase e }
      else
        let outs := allotFrames t t.outs (s1.poolFree tenant)
        let pkey := (s1.tenantRow tenant).elim 0 fun r => r.pkey.val
        let s2 := outs.foldl (fun s x =>
          (s.touchFor t ((List.range (t.win x.1).len).map fun k => t.phys x.1 ((t.win x.1).base + k))).writeMain none 1 (fun _ => some pkey)
            ((s.windowBytes t x.1).mapIdx fun k b => (x.2.getD (k / 65536) 0 * 65536 + k % 65536, b))) s1
        if s2.repEntries.contains e then
          let e' : RepEntry :=
            { e with state := .valid, flags := flags, points := t.points, outs := outs,
                     watch := if e.content then [] else e.watch }
          ({ s2 with repEntries := e' :: s2.repEntries.erase e }).count tenant 2
        else s2
  | _ => s

/-! ### The words (R360, R361) -/

/-- The tenant of the running partition. -/
def State.tenant (s : State) : BitVec 12 := (s.pt s.part).bind.tenant
/-- ALIGN, then PLATE, of a key's place. -/
def State.keyTrap (s : State) (a : DWord) : Option Trap :=
  if a.toInt % 32 ≠ 0 then some (xTrap trALIGN)
  else if s.inShare s.part a.toInt 32 = false then some { xTrap trPLATE with info := a.toNat }
  else none
/-- The 32 bytes of a key in slab 0's plates. -/
def State.keyBytes (s : State) (a : DWord) : List Byte := s.plateBytes s.part 0 a.toInt.toNat 32

/-- REPQ. -/
def opRepq (o : XqOp) (s : State) : State :=
  s.cword true o.hold 0 o.sb fun _ b s =>
    match if s.stream.pure then some (xTrap trPURITY) else s.keyTrap b with
    | some t => s.takeTrap t
    | none =>
      if s.platesBad s.part 0 b.toInt.toNat 32 then s.takeTrap (xTrap trUNCORR)
      else s.setS o.sd (match s.repEntries.find? fun e => e.tenant == s.tenant && e.key == s.keyBytes b with
        | none => 0
        | some e => if e.state = .pending then 1 else if e.content then 3 else 2)
def execRepq (o : XqOp) (s : State) : Out := .next (opRepq o s)

/-- The running task's key (R361): the one of its lookup (R353, R354), or where the tenant had no row then, the one its row
gives now; zeros if the task is not PURE or the tenant has no valid row. -/
def State.runningKey (s : State) : List Byte :=
  match if s.stream.pure then s.tenantRow s.tenant else none with
  | none => List.replicate 32 0
  | some row =>
    match s.stream.theTask.rep with
    | .pending (b :: l) | .noRecord (b :: l) => b :: l
    | _ => s.repKey s.part s.stream.theTask s.stream.seedsnap row

/-- REPC. -/
def opRepc (o : RepcOp) (s : State) : State :=
  s.cword true o.hold 0 o.sb fun _ b s =>
    match s.keyTrap b with
    | some t => s.takeTrap t
    | none =>
      s.putPlateRun s.part 0 b.toInt.toNat s.runningKey
def execRepc (o : RepcOp) (s : State) : Out := .next (opRepc o s)

/-- REPX. -/
def opRepx (o : RepxOp) (s : State) : State :=
  s.cword true o.hold 0 o.sb fun _ b s =>
    match if s.stream.pure then some (xTrap trPURITY) else if o.all then none else s.keyTrap b with
    | some t => s.takeTrap t
    | none =>
      if !o.all && s.platesBad s.part 0 b.toInt.toNat 32 then s.takeTrap (xTrap trUNCORR)
      else (s.dropEntries fun e => e.tenant == s.tenant && (o.all || e.key == s.keyBytes b)).spoil
def execRepx (o : RepxOp) (s : State) : Out := .next (opRepx o s)

/-- REPS. -/
def opReps (o : XqOp) (s : State) : State :=
  s.cword true o.hold 0 o.sb fun _ b s =>
    if s.stream.pure then s.takeTrap (xTrap trPURITY)
    else
      s.setS o.sd (match s.repCounters.find? fun c => c.tenant == s.tenant with
        | none => 0
        | some c => BitVec.ofNat 64 (c.counts.toList.getD b.toNat 0))
def execReps (o : XqOp) (s : State) : Out := .next (opReps o s)

/-! ### The tenant table (R352) -/

/-- TENANT_ROW_WRITE: the tenants of the old and of the new row lose their entries and counters; the pool is what the row
says. -/
def opTenantRowWrite (o : TenantWrite) (s : State) : State :=
  let old := s.tenants[o.index]
  let gone (n : BitVec 12) : Bool := (old.valid && n == old.tenant) || (o.row.valid && n == o.row.tenant)
  let s1 := { s with tenants := s.tenants.set o.index o.row, repEntries := s.repEntries.filter fun e => !gone e.tenant,
                     repCounters := s.repCounters.filter fun c => !gone c.tenant,
                     pools := s.pools.filter fun x => !gone x.1 }
  if o.row.valid then
    s1.setPool o.row.tenant ((List.range o.row.plen.toNat).map fun k => o.row.pbase.toNat + k)
  else s1
def execTenantRowWrite (o : TenantWrite) (s : State) : Out := .next (opTenantRowWrite o s)

end Sys2Proof.Machine
end

