-- ==== Sys2Proof/Machine/Abort.lean ====
section
/-!
DEFINITION. The ways out of a running task other than its completion: rewind, abort, requeue and kill (R135, R362, R363,
R369-R374, R398), and the lazy first touch (R95).
-/
namespace Sys2Proof.Machine

/-! ### Ending a dispatch -/

/-- A partition with nothing in hand, or unbound if it was to be (R341). -/
def Partition.freed (t : Partition) : Partition :=
  if t.unbinding then Partition.cleared
  else { t with disp := .idle, work := none, heldBars := [], xslots := Vector.replicate 4 none }

/-- What stands in the registers once the task is gone: the final values, until the next task's state is set (R27, R379). -/
def Stream.ended (x : Stream) : Stream :=
  { x with task := none, status := .idle, q := Vector.replicate 8 none, wait := none, mwait := none, seg := none, stub := none,
           preempt := none, hold := none, abort := none }

/-- Takes a partition's task away from the stream, or from the shadow store. -/
def State.dropContext (p : PartNo) (s : State) : State :=
  if s.holder = some p then
    { s with stream := s.stream.ended, holder := none, divertClock := s.divertClock + 1 }.onPart p fun t =>
      { t with lastHeld := s.divertClock }
  else { s with shadow := s.shadow.set p none }

/-- The record of a task that ends with a code, as its context stands (R331). -/
def Stream.record (x : Stream) (code trap detail : Nat) : Record :=
  let t := x.theTask
  { code := code, trap := trap, attempts := t.attempts, taskid := x.taskid.toNat, tstart := t.tstart.toNat,
    flags := x.flags.toNat, points := t.points, detail := detail }

/-- Ends the dispatched task of a partition: record, entry, context, partition. Its writes have all been performed, so that
everyone sees them (R316, R337). -/
def State.endTask (p : PartNo) (code trap detail : Nat) (s : State) : State :=
  match s.ctx p with
  | none => s
  | some x =>
    let t := x.theTask
    ((({ s with loose := s.loose.filter fun l => l.part != p }.disown p).endEntry p t.entryId t.crec (x.record code trap detail)).dropContext p).onPart p Partition.freed

/-! ### Abort and kill (R135, R369, R370) -/

/-- Unstarted packets of the stream retire with CANCEL; those posted to a partner run on (R135). -/
def CopyQueue.cancelOwn (q : CopyQueue) : CopyQueue :=
  { q with issued := q.issued.map fun x =>
             { x with cancel := x.cancel || x.posting == .unneeded || x.posting == .failed },
           notes := q.notes.map fun x => { x with cancel := x.cancel || (x.origin == .stream && !x.proxy) } }

/-- Steps 1 to 4 of R369: the stream stops, packets are cancelled, exchange operations are discarded. -/
def State.beginAbort (p : PartNo) (why : AbortCause) (s : State) : State :=
  (s.onCtx p fun x => { x with status := .aborting, abort := some why, hold := none, wait := none, mwait := none,
                               preempt := none }).onPart p fun t =>
    { t with disp := .ending, queues := t.queues.map CopyQueue.cancelOwn, xslots := Vector.replicate 4 none }

/-- Whether a line lies in a window whose own writes an abort discards. -/
def Task.discards (t : Task) (line : Nat) : Bool :=
  (t.lineAttrs line).any fun a => a == .output || a == .inout || a == .scratch

/-- Step 5: the lines that hold own writes since the last TICK are discarded; HBM4E's bytes stand. -/
def State.discardLines (p : PartNo) (s : State) : State :=
  let t := (s.taskOf p).getD Task.empty
  let gone := s.stash.filter fun l => l.dirty && l.owners.contains p && t.discards l.line
  { s with mem := gone.foldl (fun m l => Cells.setMany m (listAt (l.line * 128) l.image)) s.mem,
           stash := s.stash.filter fun l => !gone.contains l }

/-- Accesses of the stream that were not performed are dropped. -/
def State.dropAtoms (p : PartNo) (s : State) : State :=
  let keep (l : List DetUpdate) := l.filter fun u => u.part != p
  { s with atoms := s.atoms.filter fun u => u.part != p, detSent := keep s.detSent, detOutbox := keep s.detOutbox,
           detBuf := keep s.detBuf }

/-- Whether an aborted task is requeued (R370). -/
def Stream.requeues (x : Stream) : Bool :=
  let t := x.theTask
  x.rqsafe || (!x.exch && !(t.windows.any fun w => w.len != 0 && w.attr == .inout)) ||
    (!x.exch && x.tickno == 0 && !t.evicted)

/-- What a requeue keeps (R346, R370). -/
def Stream.rework (x : Stream) : Dispatching :=
  let t := x.theTask
  { idx := t.entryId, descAddr := t.descAddr, mask := t.mask, base := t.base,
    checked := some ({ t with extents := [], attempts := t.attempts + 1, points := 0, rep := .none, evicted := false },
                     x.seedsnap) }

/-- Puts the task back at the head of its queue; after a lazy fault it waits there for RETRY (R398). -/
def State.requeue (p : PartNo) (x : Stream) (fault : Option (Nat × Nat)) (s : State) : State :=
  let s1 := (({ s with loose := s.loose.filter fun l => l.part != p }.disown p).dropContext p).onPart p fun t =>
    { t with work := some x.rework, heldBars := [] }
  match fault with
  | none => s1.onPart p fun t => { t with disp := .translate }
  | some (va, w) =>
    (s1.onPart p fun t => { t with disp := .held, faultAddr := BitVec.ofNat 64 va }).event 0x000F (p.val + w * 4)

/-- The end of an abort by its cause (R370); a task that would run again ends with KILLED where its partition is to be unbound
(R341). -/
def State.concludeAbort (p : PartNo) (x : Stream) (s : State) : State :=
  match x.abort with
  | some (.lazyFault va w) =>
    if x.requeues && (s.pt p).unbinding then s.endTask p ccKILLED 0 0
    else if x.requeues then s.requeue p x (some (va, w)) else s.endTask p ccFAULT 0 va
  | some .deadline => if x.requeues && !(s.pt p).unbinding then s.requeue p x none else s.endTask p ccKILLED 0 0
  | some .uncorr =>
    if x.requeues && (s.pt p).unbinding then s.endTask p ccKILLED 0 0
    else if x.requeues then s.requeue p x none else s.endTask p ccTRAPPED trUNCORR x.pc.toNat
  | some (.kill code trap detail) => s.endTask p code trap detail
  | none => s

/-- Whether a packet of the stream that has been read will move no more bytes, but for elements that wait for a merge. -/
def State.spent (s : State) (p : PartNo) (ch : Fin 8) (a : ActivePacket) : Bool :=
  a.stage == .done && !(a.pkt.dstSp == 2 && s.flowBusy (rowFlow a.origin ch a.dim) p)
/-- The same of a packet of the stream in a queue: it has been cancelled before it began, or its partner has reported. -/
def State.noteSpent (s : State) (p : PartNo) (ch : Fin 8) (x : RingNote) : Bool :=
  if x.proxy then x.failed || x.report.isSome
  else
    match (s.queue p ch).active.find? fun a => a.idx == x.idx with
    | some a => s.spent p ch a || (x.cancel && (a.stage == .read || a.stage == .checked))
    | none => x.cancel
/-- Whether every packet of a partition's stream has come that far. -/
def State.packetsSpent (s : State) (p : PartNo) : Bool :=
  (List.finRange 8).all fun ch =>
    ((s.queue p ch).issued.all fun x => x.cancel || x.report.isSome || x.posting == .failed) &&
      ((s.queue p ch).notes.all fun x => x.origin != .stream || s.noteSpent p ch x)

/-- Whether what a queue waits for comes only with a merge of the partition: held elements (R132, R266), or staging ways (R319). -/
def State.mergeAwaited (s : State) (p : PartNo) : Bool :=
  (s.heldAccs.any fun h => h.tag == p) || (!s.landings.isEmpty && s.staged.any fun l => l.tag == p)

/-- Whether steps 5 and 6 of R369 can come: the accepted E-class instructions have completed, and the packets have retired, or wait
for that merge: the updates held on the tick's lines are applied in it, and their packets retire after it (R132, R266; log 93). -/
def State.abortReady (s : State) (p : PartNo) : Bool :=
  (s.pt p).disp == .ending && !(s.matrix.any fun e => e.part == p) &&
    (!(s.pt p).ownPackets || (s.packetsSpent p && s.mergeAwaited p))

/-- ABORT_FINISH: steps 5 and 6 of R369; with every packet retired, step 7 and then the requeue or the record. -/
def opAbortFinish (p : PartNo) (s : State) : State :=
  if s.abortReady p then
    match s.ctx p with
    | none => s
    | some x =>
      let s1 := ((s.discardLines p).dropAtoms p).merge p
      if (s.pt p).ownPackets then s1 else (s1.abandon p x.theTask.rep).concludeAbort p x
  else s
def execAbortFinish (p : PartNo) (s : State) : Out := .next (opAbortFinish p s)

/-! ### Uncorrectable words and mismatches (R372, R374) -/

/-- Back to the position that SEG recorded. -/
def Stream.rewind (g : SegRecord) (mismatch : Bool) (x : Stream) : Stream :=
  { x with pc := g.pc, pend := g.pend, loops := g.loops, i := g.idxs, ras := g.ras, spilled := g.spilled, flags := g.flags,
           latchV := Vector.replicate 2 none, latchC := Vector.replicate 2 none, status := .running, hold := none,
           wait := none, mwait := none, stub := none,
           seg := some { g with rewinds := g.rewinds + 1, mismatched := g.mismatched || mismatch } }

/-- Whether a segment is rewound rather than the task aborted. -/
def SegRecord.rewinds? (g : SegRecord) (mismatch : Bool) : Bool :=
  !g.overwritten && decide (g.rewinds < 3) && !(mismatch && g.mismatched)

/-- A second mismatch in the replay of one segment: the spare site takes the shadow's place at the next context switch
(R18, R374). -/
def State.noteMismatch (mismatch : Bool) (s : State) : State :=
  if mismatch && s.stream.seg.any (·.mismatched) then { s with siteSwap := true } else s

/-- R372 for the running task: a rewind waits for what has been issued. -/
def State.rewindOrAbort (mismatch : Bool) (s : State) : State :=
  match s.stream.seg with
  | none => s.beginAbort s.part .uncorr
  | some g =>
    if g.rewinds? mismatch then
      s.onStream fun x => { x with status := .running, hold := none, wait := some (.rewind mismatch) }
    else (s.noteMismatch mismatch).beginAbort s.part .uncorr

/-- Settles a rewind. -/
def State.settleRewind (mismatch : Bool) (s : State) : State :=
  match s.stream.seg with
  | none => s.goOn
  | some g => if s.quiet s.part then s.onStream (Stream.rewind g mismatch) else s.holdFor .stall

/-- UNCORR on a link always aborts (R283, R372). -/
def State.abortUncorr (p : PartNo) (s : State) : State := s.beginAbort p .uncorr

/-- Whether the stream runs a task that a stop can meet. -/
def Stream.live (x : Stream) : Bool := x.status == .running || x.status == .completing

/-- The current task takes UNCORR (R372). -/
def State.takeUncorr (s : State) : State :=
  if s.stream.live then (s.takeTrap { num := trUNCORR, slot := pcSlot s.stream.pc }).rewindOrAbort false else s

/-- SIGNATURE_MISMATCH: the checked pair finds a group mismatched (R373, R374). -/
def opSignatureMismatch (s : State) : State :=
  if s.stream.live && (s.pt s.part).bind.checked then s.rewindOrAbort true else s
def execSignatureMismatch (s : State) : Out := .next (opSignatureMismatch s)

/-! ### Traps (R362, R363) -/

/-- The number of the newest trap. -/
def State.trapNumber (s : State) : Nat := bits s.trapRecord[0].toNat 0 8

/-- TRAP_RESOLVE: the Regulator's action. A BREAK with a debugger leaves the stream in the debugger's hands. -/
def opTrapResolve (o : TrapChoice) (s : State) : State :=
  if s.stream.status = .trapped then
    if s.trapNumber = trBREAK ∧ o.debugger then s
    else if s.trapNumber = trUNCORR then s.rewindOrAbort false
    else s.beginAbort s.part (.kill ccTRAPPED s.trapNumber s.stream.pc.toNat)
  else s
def execTrapResolve (o : TrapChoice) (s : State) : Out := .next (opTrapResolve o s)

/-- A q register as a debugger writes it. -/
def QReg.written (w : QWrite) : QReg :=
  { pb := w.pb, pc := w.pc, ps1 := w.ps1, ps2 := w.ps2, moved := w.moved, fetched := w.fetched, flight := [],
    items := w.items.map fun x => { data := Cells.block 0 1024 fun k => x.1.getD k 0, act := x.2, bad := false } }

/-- What the debugger writes through the Regulator (R27, R363); reserved bits stay zero. -/
def Stream.debugged (o : DebugWrites) (x : Stream) : Stream :=
  let x := o.scalars.foldl (fun x w => x.setS w.1 w.2) x
  let x := o.preds.foldl (fun x w => x.setP w.1 w.2) x
  let x := o.idxs.foldl (fun x w => x.setI w.1 w.2) x
  let x := o.es.foldl (fun x w => x.setE w.1 (w.2 &&& BitVec.ofNat 64 (eMask w.1.val))) x
  { x with
    v := o.lanes.foldl (fun v w => v.set (1024 * w.1.val + w.2.1.val) w.2.2) x.v,
    acc := o.cells.foldl (fun a w => a.set w.1.val w.2) x.acc,
    m := o.ms.foldl (fun m w => m.set w.1 w.2) x.m,
    bars := o.bars.foldl (fun b w => b.set w.1 ⟨w.2.1, w.2.2⟩) x.bars, flags := o.flags.getD x.flags,
    q := o.qs.foldl (fun q w => q.set w.1 (w.2.map QReg.written)) x.q,
    latchV := o.holdsV.foldl (fun l w => l.set w.1 (w.2.map fun y => Cells.block 0 1024 fun k => y.getD k 0)) x.latchV,
    latchC := o.holdsC.foldl (fun l w => l.set w.1 w.2) x.latchC }

/-- DEBUG_RESUME: after the debugger's writes the trapping group issues again. SEED stands with the partition (R30). -/
def opDebugResume (o : DebugWrites) (s : State) : State :=
  if s.stream.status = .trapped ∧ s.trapNumber = trBREAK then
    ((s.onStream (Stream.debugged o)).onPart s.part fun t => { t with seed := o.seed.getD t.seed }).resumeTrap
  else s
def execDebugResume (o : DebugWrites) (s : State) : Out := .next (opDebugResume o s)

/-! ### Deadlines and lazy pages (R95, R367) -/

/-- Whether the drain deadline of the running stream has passed; a trap is handled first, and a task in its completion
steps is never aborted by it (R365, R367). -/
def State.deadlinePassed (s : State) : Bool :=
  s.stream.status == .running && s.stream.preempt.any fun d => decide (d ≤ s.gtime.toNat)

/-- DRAIN_DEADLINE. -/
def opDrainDeadline (s : State) : State := if s.deadlinePassed then s.beginAbort s.part .deadline else s
def execDrainDeadline (s : State) : Out := .next (opDrainDeadline s)

/-- LAZY_TRANSLATE: the page that the stalled group asks for (R95). -/
def opLazyTranslate (s : State) : State :=
  match s.stream.hold with
  | some (.lazyPage w va) =>
    let p := s.part
    let t := s.stream.theTask
    let needs := (t.win w).attr.needs
    let s := s.afterWalk p va
    match s.walkPart p va needs.1 needs.2 with
    | .ok pa key large =>
      match addPage t.extents w va pa key large with
      | none => s.beginAbort p (.kill ccEXTENTS 0 va)
      | some l => s.onStream fun x => { Stream.onTask (fun t => { t with extents := l }) x with hold := none }
    | .denied => s.beginAbort p (.kill ccDENIED 0 va)
    | .key => s.beginAbort p (.kill ccKEY 0 va)
    | .notMapped => s.beginAbort p (.lazyFault va w)
    | .poisoned => s.beginAbort p (.lazyFault va w)
  | _ => s
def execLazyTranslate (s : State) : Out := .next (opLazyTranslate s)

end Sys2Proof.Machine
end

