-- ==== Sys2Proof/Machine/Atomic.lean ====
section
/-!
DEFINITION. Slot 5, class M1: atomics and the steps of the memory-side atomic units (R259-R267).
-/
namespace Sys2Proof.Machine

/-- Steps 1 and 2 of R255: PURITY, then DETATOM of a value-returning form. -/
def State.atomTrap (s : State) (w : Nat) (returning : Bool) : Option Trap :=
  if s.stream.pure ∧ (returning ∨ (s.stream.theTask.win w).isOut = false) then some { num := trPURITY, slot := 5 }
  else if s.stream.det ∧ returning then some { num := trDETATOM, slot := 5 }
  else none

/-! ### Non-returning atomics -/

/-- Hands the updates (lane, physical address, operand) of one instruction to the units: an f32 add of a DETERMINISTIC
task as line updates of its slabs (R264), any other as updates in lane order (R262). -/
def State.issueAtoms (op : AtomOp) (z : MemSize) (l : List (Nat × Nat × DWord)) (s : State) : State :=
  let n := s.atomInstr
  let s1 := { s.spoil with atomInstr := n + 1 }
  if s.stream.det ∧ op = .add ∧ z = .f32 then
    let updates := (List.finRange 16).flatMap fun slab =>
      let mine := l.filter fun x => x.1 / 64 == slab.val
      let lines := mine.foldl (fun acc x => insertUp (x.2.1 / 64) acc) []
      lines.map fun line => DetUpdate.mk n s.part slab line
        ((mine.filter fun x => x.2.1 / 64 == line).map fun x => (x.2.1 % 64 / 4, x.2.2.truncate 32))
    { s1 with detSent := s1.detSent ++ updates }
  else { s1 with atoms := s1.atoms ++ l.map fun x => ⟨n, s.part, op, z, x.2.1, x.2.2, none⟩ }

/-- A scalar atomic without a value; for R263 it comes from slab 0, lane 0. -/
def opSaop (op : AtomOp) (o : MsOp) (s : State) : State :=
  s.m1word fun s =>
    let n := o.size.width
    let off := s.msOff o.sa o.imm n
    match s.m1Block (s.atomTrap o.win.val false) o.win.val n .atomic [(0, off)] with
    | some b => b
    | none => s.issueAtoms op o.size [(0, s.m1Phys o.win.val off 0, s.sreg o.sd)]
def execSaadd (o : MsOp) (s : State) : Out := .next (opSaop .add o s)
def execSamin (o : MsOp) (s : State) : Out := .next (opSaop .min o s)
def execSamax (o : MsOp) (s : State) : Out := .next (opSaop .max o s)
def execSaand (o : MsOp) (s : State) : Out := .next (opSaop .and o s)
def execSaor (o : MsOp) (s : State) : Out := .next (opSaop .or o s)

/-- The atomic size of a vector type (R260). -/
def lockSize : ElemType → MemSize
  | .f32 => .f32
  | .i32 => .i32
  | _ => .n32

/-- A vector atomic without a value. -/
def opVaop (op : AtomOp) (o : M1sOp) (s : State) : State :=
  s.m1word fun s =>
    let els := s.elemOffs o.pg o.ty (s.vecIndex o.sa o.sb)
    match s.m1Block (s.atomTrap o.win.val false) o.win.val 4 .atomic els with
    | some b => b
    | none =>
      s.issueAtoms op (lockSize o.ty) (els.map fun x => (x.1, s.m1Phys o.win.val x.2 0, (s.lane o.vd x.1).zeroExtend 64))
def execVaadd (o : M1sOp) (s : State) : Out := .next (opVaop .add o s)
def execVamin (o : M1sOp) (s : State) : Out := .next (opVaop .min o s)
def execVamax (o : M1sOp) (s : State) : Out := .next (opVaop .max o s)
def execVaand (o : M1sOp) (s : State) : Out := .next (opVaop .and o s)
def execVaor (o : M1sOp) (s : State) : Out := .next (opVaop .or o s)
def execVaxor (o : M1sOp) (s : State) : Out := .next (opVaop .xor o s)

/-! ### Returning atomics -/

/-- Hands the updates of a returning instruction to the units: each with where the word it finds goes (R262). The registers hold the
results once they have been applied; until then no group that names one issues (R37). -/
def State.issueReturning (op : AtomOp) (z : MemSize) (l : List (AtomReturn × Nat × DWord)) (s : State) : State :=
  { s.spoil with atomInstr := s.atomInstr + 1,
                 atoms := s.atoms ++ l.map fun x => ⟨s.atomInstr, s.part, op, z, x.2.1, x.2.2, some x.1⟩ }

/-- A scalar atomic that returns the word it finds. -/
def opSaopx (op : AtomOp) (off : State → Int) (z : MemSize) (sd : RegNo) (w : Nat) (s : State) : State :=
  s.m1word fun s =>
    match s.m1Block (s.atomTrap w true) w z.width .atomic [(0, off s)] with
    | some b => b
    | none => s.issueReturning op z [(.scalar sd, s.m1Phys w (off s) 0, s.sreg sd)]
def execSaaddx (o : MsOp) (s : State) : Out :=
  .next (opSaopx .add (fun s => s.msOff o.sa o.imm o.size.width) o.size o.sd o.win.val s)
def execSaswpx (o : MsOp) (s : State) : Out :=
  .next (opSaopx .swp (fun s => s.msOff o.sa o.imm o.size.width) o.size o.sd o.win.val s)

/-- SCASX: sd is compared, sn is the new value (R259, R261). -/
def opScasx (o : CasOp) (s : State) : State :=
  opSaopx (.cas (s.sreg o.sn)) (fun s => s.offset o.sa) o.size o.sd o.win.val s
def execScasx (o : CasOp) (s : State) : Out := .next (opScasx o s)

/-- A vector atomic that returns, lane by lane, the word it finds. -/
def opVaopx (op : AtomOp) (o : M1sOp) (s : State) : State :=
  s.m1word fun s =>
    let els := s.elemOffs o.pg o.ty (s.vecIndex o.sa o.sb)
    match s.m1Block (s.atomTrap o.win.val true) o.win.val 4 .atomic els with
    | some b => b
    | none =>
      s.issueReturning op (lockSize o.ty)
        (els.map fun x => (.lane o.vd x.1, s.m1Phys o.win.val x.2 0, (s.lane o.vd x.1).zeroExtend 64))
def execVaaddx (o : M1sOp) (s : State) : Out := .next (opVaopx .add o s)
def execVaminx (o : M1sOp) (s : State) : Out := .next (opVaopx .min o s)
def execVamaxx (o : M1sOp) (s : State) : Out := .next (opVaopx .max o s)
def execVaswpx (o : M1sOp) (s : State) : Out := .next (opVaopx .swp o s)

/-! ### The units (R262-R266) -/

/-- ATOMIC_APPLY: the chosen one of the updates that may come next is applied, unless it waits (R262, R263, R267). -/
def opAtomicApply (o : AtomicPick) (s : State) : State :=
  match (firstOnWord s.atoms)[o.index]? with
  | none => s
  | some u => if s.behindDet u || s.heldByOther u.part u.pa then s else ({ s with atoms := s.atoms.erase u }).applyUpdate u
def execAtomicApply (o : AtomicPick) (s : State) : Out := .next (opAtomicApply o s)

/-- The unit of a line (R262): pa[10:7]. -/
def unitOf (line : Nat) : Nat := line / 2 % 16
/-- Whether an earlier instruction still has an update for the line that is not yet in the unit's buffer and could go there: it
goes first, since the order of the path is that of the instructions (R264). -/
def State.overtakes (s : State) (u : DetUpdate) : Bool :=
  (s.detSent ++ s.detOutbox).any fun v => v.line == u.line && decide (v.instr < u.instr) && !s.detHeld v
/-- A task's oldest instruction on the path finds room at once: nothing before it has to close (log 66). -/
def State.oldestDet (s : State) (u : DetUpdate) : Bool :=
  s.detPending.all fun v => v.part != u.part || decide (u.instr ≤ v.instr)
/-- Whether a unit refuses a line update (R264): the line's buffer holds an earlier instruction, or 256 lines are in use. An update
of a line that another partition's tick holds waits at its unit, and stands in no one's way there (R266); where an earlier
instruction's update comes to a line that such a wait has left a later one's on, it goes in before it. -/
def State.refuses (s : State) (u : DetUpdate) : Bool :=
  !s.detHeld u && ((s.detBuf.any fun v => v.line == u.line && decide (v.instr < u.instr) && !s.detHeld v) || s.overtakes u ||
    (!(s.detBuf.any fun v => v.line == u.line) && !s.oldestDet u &&
      decide (256 ≤ ((s.detBuf.filter fun v => unitOf v.line == unitOf u.line).map (·.line)).eraseDups.length)))

/-- DET_UPDATE: a slab's oldest line update reaches its unit, or waits in the slab's outbox, which holds four; behind a full
outbox it is not sent yet (R264, R265). -/
def opDetUpdate (slab : Fin 16) (s : State) : State :=
  match s.detSent.find? fun u => u.slab == slab with
  | none => s
  | some u =>
    let s1 := { s with detSent := s.detSent.erase u }
    if s1.refuses u then
      if 4 ≤ (s.detOutbox.filter fun v => v.slab == slab).length then s else { s1 with detOutbox := s1.detOutbox ++ [u] }
    else { s1 with detBuf := s1.detBuf ++ [u] }
def execDetUpdate (slab : Fin 16) (s : State) : Out := .next (opDetUpdate slab s)

/-- DET_OUTBOX_RETRY: a slab's oldest refused update is offered again (R264, R265). -/
def opDetOutboxRetry (slab : Fin 16) (s : State) : State :=
  match s.detOutbox.find? fun u => u.slab == slab && !({ s with detOutbox := s.detOutbox.erase u }).refuses u with
  | none => s
  | some u => { s with detOutbox := s.detOutbox.erase u, detBuf := s.detBuf ++ [u] }
def execDetOutboxRetry (slab : Fin 16) (s : State) : Out := .next (opDetOutboxRetry slab s)

/-- The updates that no other partition's tick holds at their unit. -/
def State.detMoving (s : State) : List DetUpdate := s.detSent ++ s.detOutbox ++ s.detBuf.filter fun u => !s.detHeld u
/-- A partition's oldest instruction on the path, of those with such updates. -/
def State.firstDet (s : State) (p : PartNo) : Option Nat :=
  (((s.detMoving.filter fun u => u.part == p).map (·.instr)).foldl (fun l x => insertUp x l) []).head?

/-- The instruction of a partition that may close: the oldest, once all its updates have left their slabs and stand in the
buffers, and no earlier atomic on one of its words is still to come (R256). -/
def State.closesOf (s : State) (p : PartNo) : Option Nat :=
  (s.firstDet p).bind fun n =>
    let mine := s.detMoving.filter fun u => u.instr == n
    if (s.detSent ++ s.detOutbox).any (fun u => u.instr == n) ||
        (mine.any fun u => s.atoms.any fun a => a.part == u.part && decide (a.instr < n) &&
          (List.range a.size.width).any fun b => u.covers (a.pa + b)) then none
    else some n
def State.closable (s : State) : Option Nat := (List.finRange 4).findSome? s.closesOf

/-- Whether the accesses that a partition's stream has issued and that are not performed all wait for another partition's tick
to close (R266, R267). -/
def State.onlyHeld (s : State) (p : PartNo) : Bool :=
  (s.detMoving.all fun u => u.part != p) && (s.atoms.all fun u => u.part != p || s.behindDet u || s.heldByOther p u.pa) &&
    (List.finRange 8).all fun k => ((s.ctx p).bind fun x => x.q[k]).all fun q =>
      !q.outbound || q.items.isEmpty || s.itemBlocked p q

/-- DET_CLOSE: close(I) reaches the units (R264). -/
def opDetClose (s : State) : State :=
  match s.closable with
  | none => s
  | some n => s.closeDet n
def execDetClose (s : State) : Out := .next (opDetClose s)

end Sys2Proof.Machine
end

