-- ==== Sys2Proof/Machine/Schedule.lean ====
section
/-!
DEFINITION. Who holds the stream: windows, preference, pre-emption, parking, saving and restoring (R341-R347, R365-R368).
-/
namespace Sys2Proof

/-! ### Windows (R342) -/

/-- Whether a record has a window open at a GTIME. -/
def BindRecord.openAt (r : BindRecord) (t : Nat) : Bool :=
  r.valid && decide (r.start.toNat ≤ t) &&
    (r.quantum.toNat == 0 ||
      (let off := t - r.start.toNat
       decide ((if r.period.toNat = 0 then off else off % r.period.toNat) < r.quantum.toNat)))

/-- The GTIME at which the next window of a record opens, if one is to come. -/
def BindRecord.nextOpen (r : BindRecord) (t : Nat) : Option Nat :=
  if r.valid = false then none
  else if t < r.start.toNat then some r.start.toNat
  else if r.period.toNat = 0 then none
  else some (r.start.toNat + ((t - r.start.toNat) / r.period.toNat + 1) * r.period.toNat)

/-- DRAIN in ns: 0 means 200,000 (R341). -/
def BindRecord.drainNs (r : BindRecord) : Nat := if r.drain = 0 then 200000 else r.drain.toNat

end Sys2Proof

namespace Sys2Proof.Machine

def State.now (s : State) : Nat := s.gtime.toNat
/-- The records of the slot table in order, with their index. -/
def State.records (s : State) : List (Fin 16 × BindRecord) := (List.finRange 16).map fun k => (k, s.slotTable[k])
/-- The records with a window open now. -/
def State.openRecords (s : State) : List BindRecord := (s.records.map (·.2)).filter fun r => r.openAt s.now

/-! ### Preference (R342, R343) -/

/-- Whether a DETERMINISTIC task of another partition is part-way through a tick (R267). -/
def State.detElsewhere (s : State) (p : PartNo) : Bool := s.detLines.any fun x => x.1 != p

/-- Whether a translated task may be started (R267, R343). -/
def State.dispatchable (s : State) (p : PartNo) : Bool :=
  (s.pt p).disp == .ready && ((s.shadow[p]).any fun x => x.det || !s.detElsewhere p)

/-- Running, parked or dispatchable. -/
def State.hasWork (s : State) (p : PartNo) : Bool :=
  s.holder == some p || (s.pt p).disp == .parked || s.dispatchable p

/-- The highest priority of some records. -/
def topPrio (l : List BindRecord) : Nat := l.foldl (fun m r => max m r.prio.toNat) 0

/-- The partition of the GANG window open at a GTIME that takes precedence. -/
def State.gangHolderAt (s : State) (t : Nat) : Option PartNo :=
  let l := (s.records.map (·.2)).filter fun r => r.gang && r.openAt t
  (l.find? fun r => r.prio.toNat == topPrio l).map (·.part)
/-- The partition of the open GANG window that takes precedence. -/
def State.gangHolder (s : State) : Option PartNo := s.gangHolderAt s.now

/-- The highest priority of a partition's open windows, if it has one. -/
def State.openPrio (s : State) (p : PartNo) : Option Nat :=
  let l := s.openRecords.filter fun r => r.part == p
  if l.isEmpty then none else some (topPrio l)

/-- The partitions that are eligible, with their priority. -/
def State.eligible (s : State) : List (PartNo × Nat) :=
  (List.finRange 4).filterMap fun p => if s.hasWork p then (s.openPrio p).map fun n => (p, n) else none

/-- Whom the rules give the stream while it is free. -/
def State.preferred (s : State) : Option PartNo :=
  match s.gangHolder with
  | some p => if s.hasWork p then some p else none
  | none =>
    let top := s.eligible.foldl (fun m x => max m x.2) 0
    let best := (s.eligible.filter fun x => x.2 == top).map (·.1)
    best.find? fun p => best.all fun q => decide ((s.pt p).lastHeld ≤ (s.pt q).lastHeld)

/-- Whether the holder is to be pre-empted (R342 rule 3). -/
def State.mustYield (s : State) (h : PartNo) : Bool :=
  match s.gangHolder with
  | some p => p != h
  | none =>
    match s.openPrio h with
    | none => true
    | some n => s.eligible.any fun x => x.1 != h && decide (n < x.2)

/-! ### Pre-emption (R343, R365, R367) -/

/-- Begins the pre-emption of the holder: the drain deadline starts to count. -/
def State.startPreempt (s : State) : State :=
  match s.holder with
  | none => s
  | some h =>
    if s.stream.preempt.isSome ∨ s.stream.status = .parked ∨ s.stream.status = .aborting then s
    else
      ({ s with stream := { s.stream with preempt := some (s.now + (s.pt h).bind.drainNs) } }).onPart h fun t =>
        { t with disp := .drain }

/-- Whether rule 3 of R342 now asks for a pre-emption that has not begun. -/
def State.yieldDue (s : State) : Bool :=
  s.holder.any fun h => s.mustYield h && s.stream.preempt.isNone && s.stream.status != .parked && s.stream.status != .aborting
/-- Applies rule 3 of R342. -/
def State.reconsider (s : State) : State := if s.yieldDue then s.startPreempt else s

/-- The stub entry that covers a bundle (R62). -/
def Task.stubFor (t : Task) (a : Nat) : Option StubEntry := t.stubs.find? fun e => decide (e.first ≤ a) && decide (a < e.stop)

/-- Diverts to the drain stub, or parks (R365). -/
def Stream.divert (x : Stream) : Stream :=
  match if x.status = .completing then none else x.theTask.stubFor (x.pc.toNat / 32 * 32) with
  | none => { x with status := .parked, hold := none }
  | some e =>
    { x with
      stub := some { pc := x.pc, pend := x.pend, loops := x.loops, latchV := x.latchV, latchC := x.latchC,
                     calls := x.ras.length, spilled := x.spilled, wait := x.wait },
      pc := BitVec.ofNat 48 e.entry, pend := none, loops := [], latchV := Vector.replicate 2 none,
      latchC := Vector.replicate 2 none, hold := none, wait := none }

/-- Whether the stream stands at a point where a pending pre-emption takes effect (R181, R365). -/
def Stream.atWaitPoint (x : Stream) : Bool :=
  x.status == .completing || (x.status == .running && (x.hold == some .waitPoint || (x.wait.bind (·.sysReg?)).isSome))

/-- Whether a pending pre-emption takes effect now. -/
def State.mayDivert (s : State) : Bool := s.stream.preempt.isSome && s.stream.stub.isNone && s.stream.atWaitPoint

/-- PREEMPT_DIVERT. -/
def opPreemptDivert (s : State) : State := if s.mayDivert then s.onStream Stream.divert else s
def execPreemptDivert (s : State) : Out := .next (opPreemptDivert s)

/-! ### Save and restore (R368) -/

/-- The fetches in flight finish before the save. -/
def QReg.landAll (q : QReg) : QReg := { q with flight := [], items := q.items ++ q.flight }

/-- Whether a parked stream can be saved: its E-class instructions are complete and its accesses are performed, but for those
that wait at their unit for another partition's tick to close (R267, R368). -/
def State.maySave (s : State) : Bool :=
  s.holder.isSome && s.stream.status == .parked && !(s.matrix.any fun e => e.part == s.part) && s.onlyHeld s.part

/-- The context as it is saved. -/
def Stream.saved (x : Stream) : Stream := { x with q := x.q.map (·.map QReg.landAll), preempt := none, hold := none }

/-- L for a partition that holds the stream (R344): its DRAIN plus 4 µs. -/
def State.gangLead (s : State) (h : PartNo) : Nat := 4000 + (s.pt h).bind.drainNs

/-- When the next window of a GANG record opens, if its partition then takes precedence (R342 rule 1, log 47). -/
def State.gangOpening (s : State) (r : BindRecord) : Option Nat :=
  if r.gang then (r.nextOpen s.now).filter fun t => s.gangHolderAt t == some r.part else none

/-- Whether the stream stays idle: the holder was pre-empted for a GANG window that is still to open (R344). -/
def State.keptIdle (s : State) : Bool := s.gangReady.any fun g => decide (s.now < g.2)

/-- Whether a GANG window of another partition opens so soon that p, once it held the stream, would be pre-empted at once. It
does not take the stream then, unless a GANG window of its own gives it the stream (log 47). -/
def State.tooLate (s : State) (p : PartNo) : Bool :=
  s.gangHolder != some p &&
    s.records.any fun x => x.2.part != p && (s.gangOpening x.2).any fun t => decide (t ≤ s.now + s.gangLead p)

/-- Whether the free stream is partition p's to take (R342, R344, R395). -/
def State.mayTake (s : State) (p : PartNo) : Bool :=
  s.holder.isNone && !s.keptIdle && !s.tooLate p && !s.chkptHold && s.preferred == some p

/-- The site of a physical half, and whether it is an east one (R375). -/
def halfSite (h : Nat) : Nat := h / 2
/-- Whether a half may stand in for one of a slab: good, unbound, on the same side, beside the slab's other half (R13, R377). -/
def State.spareFor (s : State) (h other n : Nat) : Bool :=
  decide (n < 36) && n % 2 == h % 2 && !s.badHalves.contains n && !(s.slabMap.any fun m => m.1 == n || m.2 == n) &&
    decide (halfSite n ≤ halfSite other + 1) && decide (halfSite other ≤ halfSite n + 1)

/-- Rebinds the slab half h onto a spare; the old half is left out of the map from then on (R16, R377). Which of several spares
is free, and no result shows it. A half that no slab uses is not rebound: where its own bucket has filled, it stays a spare (log
46). -/
def State.rebind (h : Nat) (s : State) : State :=
  match s.slabMap.find? fun m => m.1 == h || m.2 == h with
  | none => s
  | some m =>
    match (List.range 36).filter (s.spareFor h (if m.1 = h then m.2 else m.1)) with
    | [] => s.event 0x000C h
    | n :: ns =>
      let new := (n :: ns).getD (Config.freePick s.free % (ns.length + 1)) n
      { s with free := s.free + 1, badHalves := h :: s.badHalves,
               slabMap := s.slabMap.map fun x => if x = m then (if m.1 = h then (new, m.2) else (m.1, new)) else x }

/-- The largest DRAIN of the bound partitions other than p: what the Regulator takes in L (R344). -/
def State.otherDrain (s : State) (p : PartNo) : Nat :=
  (List.finRange 4).foldl (fun m q => if (s.pt q).bound ∧ q ≠ p then max m (s.pt q).bind.drainNs else m) 0

/-- Whether a GANG window opens within L + 2 µs (R377), L as the Regulator takes it. -/
def State.gangNear (s : State) : Bool :=
  s.records.any fun x => x.2.gang && (x.2.nextOpen s.now).any fun t => decide (t ≤ s.now + (4000 + s.otherDrain x.2.part) + 2000)

/-- The rebinds that wait for a context switch (R376, R377). -/
def State.applyRebinds (s : State) : State :=
  if s.gangNear then s else s.rebinds.foldl (fun s h => s.rebind h) { s with rebinds := [] }

/-- The role of a site once the spare has taken the shadow's place; the two change places (log 72). -/
def SiteRole.swapped : SiteRole → SiteRole
  | .lead => .lead
  | .shadow => .spare
  | .spare => .shadow
/-- Binds the spare site in place of the shadow, and logs it (R18). -/
def State.swapSites (s : State) : State :=
  if s.siteSwap then { s with sites := s.sites.map (·.map SiteRole.swapped), siteSwap := false, siteLog := s.siteLog + 1 } else s

/-- CONTEXT_SAVE. -/
def opContextSave (s : State) : State :=
  if s.maySave then
    let p := s.part
    ({ s with shadow := s.shadow.set p (some s.stream.saved), stream := Stream.cleared, holder := none, abuf := [],
              divertClock := s.divertClock + 1 }.onPart p fun t =>
      { t with disp := .parked, lastHeld := s.divertClock }).applyRebinds.swapSites
  else s
def execContextSave (s : State) : Out := .next (opContextSave s)

/-- nx·ny·nz (R336, R337). -/
def Stream.total (x : Stream) : Nat := bits x.domain.toNat 0 21 * bits x.domain.toNat 21 21 * bits x.domain.toNat 42 21

/-- What the stream does after the restore: the completion steps go on where they stood (R337). -/
def Stream.woken (x : Stream) : Stream :=
  { x with status := if x.total ≤ x.theTask.points then .completing else .running, hold := none }

/-- Whether a parked partition may be restored (R344, R395). -/
def State.mayRestore (s : State) (p : PartNo) : Bool :=
  (s.pt p).disp == .parked && s.mayTake p

/-- CONTEXT_RESTORE: the held arrivals are applied before the stream resumes (R135, R307). -/
def opContextRestore (p : PartNo) (s : State) : State :=
  if s.mayRestore p then
    match s.shadow[p] with
    | none => s
    | some x =>
      ({ s with stream := (s.pt p).heldBars.foldl (fun x b => x.arrive b 1) x.woken, holder := some p, abuf := [],
                shadow := s.shadow.set p none, divertClock := s.divertClock + 1 }).onPart p fun t =>
        { t with disp := .run, heldBars := [], lastHeld := s.divertClock }
  else s
def execContextRestore (p : PartNo) (s : State) : Out := .next (opContextRestore p s)

/-! ### The events of the slot table (R342, R344) -/

/-- Whether a window has opened, or closed, since dispatch last looked. -/
def State.opens (s : State) (k : Fin 16) : Bool := s.slotTable[k].openAt s.now && !s.windows[k]
def State.closes (s : State) (k : Fin 16) : Bool := !s.slotTable[k].openAt s.now && s.windows[k]

/-- WINDOW_OPEN. -/
def opWindowOpen (k : Fin 16) (s : State) : State :=
  if s.opens k then
    { s with windows := s.windows.set k true }.reconsider
  else s
def execWindowOpen (k : Fin 16) (s : State) : Out := .next (opWindowOpen k s)

/-- WINDOW_CLOSE: at the close of its GANG window a partition is pre-empted (R344). -/
def opWindowClose (k : Fin 16) (s : State) : State :=
  if s.closes k then
    let s1 := { s with windows := s.windows.set k false }
    if s.slotTable[k].gang ∧ s.holder = some s.slotTable[k].part then s1.startPreempt else s1.reconsider
  else s
def execWindowClose (k : Fin 16) (s : State) : Out := .next (opWindowClose k s)

/-- Whether a GANG window that opens at t is one the holder is to be pre-empted for: t − L has come, and the stream is not yet kept
idle for one that opens no later. While the window's partition has the precedence nothing is to be made ready. -/
def State.gangCalls (s : State) (r : BindRecord) (t : Nat) : Bool :=
  s.gangHolder != some r.part &&
    if s.keptIdle then s.gangReady.any fun g => decide (t < g.2)
    else s.holder.any fun h => h != r.part && decide (t ≤ s.now + s.gangLead h)

/-- The opening for which GANG_PREEMPT_START of a record is due. -/
def State.gangDue (s : State) (k : Fin 16) : Option Nat := (s.gangOpening s.slotTable[k]).filter (s.gangCalls s.slotTable[k])

/-- GANG_PREEMPT_START: from now to the opening no partition takes the stream (R344). -/
def opGangPreemptStart (k : Fin 16) (s : State) : State :=
  match s.gangDue k with
  | some t => { s with gangReady := some (s.slotTable[k].part, t) }.startPreempt
  | none => s
def execGangPreemptStart (k : Fin 16) (s : State) : Out := .next (opGangPreemptStart k s)

end Sys2Proof.Machine
end

