-- ==== Sys2Proof/Machine/Uses.lean ====
section
/-!
DEFINITION. The registers that a word reads and writes as R38 counts them.
-/
namespace Sys2Proof.Machine

/-- What R38 calls a register. -/
inductive Reg where
  | s (r : RegNo)
  | v (r : RegNo)
  | p (n : Fin 8)
  | q (n : Fin 8)
  | i (n : Fin 6)
  | loops
  | e (n : Nat)
  | flags
  deriving DecidableEq, Repr

/-- The reads and the writes of a word. -/
structure Uses where
  reads : List Reg
  writes : List Reg
  deriving DecidableEq, Repr

def Uses.none : Uses := ⟨[], []⟩

/-- A scalar; s0 counts as neither. -/
def scal (r : RegNo) : List Reg := if r = 0 then [] else [.s r]
/-- Scalars read and written. -/
def usesS (rd : List RegNo) (wr : List RegNo) : Uses := ⟨rd.flatMap scal, wr.flatMap scal⟩
/-- A vector source at a position, unless the latch supplies it. -/
def vsrc (h : Hold) (pos : Bool) (r : RegNo) : List Reg := if h = .held pos then [] else [.v r]
/-- A scalar source at a position of a C word, unless the latch supplies it. -/
def csrc (h : Hold) (pos : Bool) (r : RegNo) : List Reg := if h = .held pos then [] else scal r

/-- Whether an instruction of class S or V is able to raise a flag (R38). -/
def flags2 (o : V2Op) : Bool := o.ty.isFloat || o.m
def flags1 (o : V1Op) : Bool := o.ty.isFloat || o.sat
/-- The absolute value of an N element is the element: SAT has nothing to clamp (R186). -/
def flagsAbs (o : V1Op) : Bool := o.ty.isFloat || (o.sat && o.ty.signed)

/-- A conversion that is exact for every source raises none (R69-R72, R80). -/
def flagsCvt (o : VcvtOp) : Bool :=
  !o.toF32 ||
    match o.fmt with
    | .i16 | .i8 | .n8 | .e4m3 | .e5m2 | .e2m3 | .e3m2 | .e2m1 | .e8m0 => false
    | .f32 | .bf16 | .f16 | .i32 | .n32 | .t2 => true

/-- A V word with two sources. -/
def usesV2 (o : V2Op) (flag : Bool) (old : Bool) : Uses :=
  ⟨vsrc o.hold false o.va ++ vsrc o.hold true o.vb ++ [.p o.pg] ++ (if old then [.v o.vd] else []),
    .v o.vd :: if flag then [.flags] else []⟩
def usesV1 (o : V1Op) : Uses :=
  ⟨vsrc o.hold false o.va ++ [.p o.pg], .v o.vd :: if flags1 o then [.flags] else []⟩
def usesVw (o : VwOp) : Uses := ⟨vsrc o.hold false o.va ++ vsrc o.hold true o.vb ++ [.p o.pg], [.v o.vd]⟩
def usesVcmp (o : VcmpOp) : Uses :=
  ⟨vsrc o.hold false o.va ++ vsrc o.hold true o.vb ++ [.p o.pg], .p o.pd :: if o.ty.isFloat then [.flags] else []⟩
def usesVred (o : VredOp) (scan : Bool) : Uses :=
  ⟨vsrc o.hold false o.va ++ [.p o.pg],
    (if scan then [.v o.rd] else scal o.rd) ++ if o.ty.isFloat || o.sat then [.flags] else []⟩
/-- Format S with flags. -/
def usesF (rd : List RegNo) (wr : RegNo) : Uses := ⟨rd.flatMap scal, scal wr ++ [.flags]⟩
def usesA3 (o : A3Op) : Uses := usesS [o.ra, o.rb] [o.rd]
def usesA2 (o : A2Op) : Uses := usesS [o.ra] [o.rd]
/-- Format MS. -/
def usesMs (o : MsOp) (load ret : Bool) : Uses :=
  usesS (o.sa :: if load then [] else [o.sd]) (if load || ret then [o.sd] else [])
/-- Vector forms of slots 4 and 5: whether vd is written, and whether it is read. -/
def usesM (vd : RegNo) (sc : List RegNo) (vs : List RegNo) (pg : Fin 8) (wr rd : Bool) : Uses :=
  ⟨sc.flatMap scal ++ vs.map .v ++ [.p pg] ++ (if rd then [.v vd] else []), if wr then [.v vd] else []⟩
/-- C words with two sources. -/
def usesC (h : Hold) (a b : RegNo) (es : List Nat) : Uses := ⟨csrc h false a ++ csrc h true b ++ es.map .e, []⟩

/-- The engine registers that the copy instructions read (R138). -/
def copyRegs : List Nat := [0, 1, 2, 3]
/-- Those of exchange slot K (R289). -/
def xchRegs (k : Fin 4) : List Nat := [32 + 4 * k.val, 33 + 4 * k.val, 34 + 4 * k.val]

/-- R38's reads and writes of an instruction. -/
def usesOf : Instr → Uses
  | .brc o => usesS [o.ra] []
  | .brv o => ⟨[.p o.pn], []⟩
  | .callr ra | .jr ra => usesS [ra] []
  | .loop o => ⟨scal o.rc, [.i o.idx, .loops]⟩
  | .loopi o => ⟨[], [.i o.idx, .loops]⟩
  | .sys o => usesS [] [o.rd]
  | .mfc o => ⟨if o.num.toNat = 7 then [.flags] else [], scal o.reg⟩
  | .mtc o => ⟨scal o.reg, if o.num.toNat = 7 then [.flags] else []⟩
  | .waitid o => usesS [o.rk] []
  | .add o | .sub o | .and o | .or o | .xor o | .andn o | .sll o | .srl o | .sra o | .slt o | .sltu o | .seq o
  | .min o | .max o | .minu o | .maxu o | .mul o | .mulh o | .mulhu o | .div o | .divu o | .rem o | .remu o => usesA3 o
  | .clz o | .ctz o | .popc o | .sext8 o | .sext16 o | .sext32 o | .zext8 o | .zext16 o | .zext32 o
  | .fclass o => usesA2 o
  | .sel o => usesS [o.ra, o.rb, o.rc] [o.rd]
  | .addi o | .andi o | .ori o | .xori o | .slti o | .sltiu o => usesS [o.ra] [o.rd]
  | .slli o | .srli o | .srai o => usesS [o.ra] [o.rd]
  | .sui o => usesS [] [o.rd]
  | .addpc o => usesS [] [o.rd]
  | .ldarg o => usesS [o.ra] [o.rd]
  | .rdi o => ⟨[.i o.n], scal o.rd⟩
  | .fadd o | .fsub o | .fmul o | .fdiv o => usesF [o.ra, o.rb] o.rd
  | .fsqrt o => usesF [o.ra] o.rd
  | .fmin o | .fmax o | .feq o | .flt o | .fle o => usesF [o.ra, o.rb] o.rd
  | .fabs o | .fneg o => usesF [o.ra] o.rd
  | .fmadd o | .fmsub o | .fnmadd o => usesF [o.ra, o.rb, o.rc, o.rd] o.rd
  | .fcvtif o | .fcvtfi o => usesF [o.ra] o.rd
  | .vadd o | .vsub o | .vmul o => usesV2 o (flags2 o) false
  | .vmin o | .vmax o | .vdiv o => usesV2 o o.ty.isFloat false
  | .vshl o | .vshr o => usesV2 o false false
  | .vpack o => usesV2 o false false
  | .vfma o | .vfms o => usesV2 o true true
  | .vabs o => ⟨vsrc o.hold false o.va ++ [.p o.pg], .v o.vd :: if flagsAbs o then [.flags] else []⟩
  | .vneg o | .vrcp o | .vrsqrt o | .vsqrt o | .vexp2 o | .vlog2 o | .vtanh o | .vsigm o | .vsin o
  | .vcos o => usesV1 o
  | .vand o | .vor o | .vxor o | .vsel o | .vperm o => usesVw o
  | .vcmpeq o | .vcmpne o | .vcmplt o | .vcmple o => usesVcmp o
  | .vcvt o => ⟨vsrc o.hold false o.va ++ [.p o.pg], .v o.vd :: if flagsCvt o then [.flags] else []⟩
  | .vunpk o => ⟨vsrc o.hold false o.va ++ [.p o.pg], [.v o.vd]⟩
  | .vshs o => ⟨vsrc o.hold false o.va ++ [.p o.pg], [.v o.vd]⟩
  | .vredadd o | .vredmax o | .vredmin o => usesVred o false
  | .vscanadd o | .vscanmax o | .vscanmin o => usesVred o true
  | .vrng o | .vmovs o => ⟨scal o.sa ++ [.p o.pg], [.v o.vd]⟩
  | .vext o => ⟨vsrc o.hold false o.va ++ scal o.sb, scal o.sd⟩
  | .vlane o => ⟨scal o.sa ++ [.p o.pg], [.v o.vd]⟩
  | .plog o => ⟨[.p o.pa, .p o.pb], [.p o.pd]⟩
  | .pcnt o => ⟨[.p o.pa, .p o.pg], scal o.sd⟩
  | .vbit o => ⟨vsrc o.hold false o.va ++ [.p o.pg], [.v o.vd]⟩
  | .vqpop o => ⟨[.p o.pg, .q o.q], [.v o.v, .q o.q]⟩
  | .vqpush o => ⟨vsrc o.hold false o.v ++ [.p o.pg, .q o.q], [.q o.q]⟩
  | .pld o => usesM o.vd [o.sa] [] o.pg true false
  | .pst o => usesM o.vd [o.sa] [] o.pg false true
  | .plds o => usesM o.vd [o.sa, o.sb] [] o.pg true false
  | .psts o => usesM o.vd [o.sa, o.sb] [] o.pg false true
  | .pldb o => usesM o.vd [o.sa] [] o.pg true false
  | .pgth o => usesM o.vd [o.sa] [o.sb] o.pg true false
  | .psct o => usesM o.vd [o.sa] [o.sb] o.pg false true
  | .pfill o => usesS [o.sc, o.sa, o.sb] []
  | .ldh o => usesMs o true false
  | .sth o | .saadd o | .samin o | .samax o | .saand o | .saor o => usesMs o false false
  | .saaddx o | .saswpx o => usesMs o false true
  | .scasx o => usesS [o.sd, o.sa, o.sn] [o.sd]
  | .pref o => usesS [o.sa] []
  | .vldh o => usesM o.vd [o.sa] [] o.pg true false
  | .vsth o => usesM o.vd [o.sa] [] o.pg false true
  | .vldhs o => usesM o.vd [o.sa, o.sb] [] o.pg true false
  | .vsths o => usesM o.vd [o.sa, o.sb] [] o.pg false true
  | .vgth o => usesM o.vd [o.sa] [o.sb] o.pg true false
  | .vsct o | .vaadd o | .vamin o | .vamax o | .vaand o | .vaor o | .vaxor o => usesM o.vd [o.sa] [o.sb] o.pg false true
  | .vaaddx o | .vaminx o | .vamaxx o | .vaswpx o => usesM o.vd [o.sa] [o.sb] o.pg true true
  | .sbind o => ⟨[.q o.q] ++ (List.range 4).map fun j => Reg.e (16 + 4 * o.k.val + j), [.q o.q]⟩
  | .srel q => ⟨[.q q], [.q q]⟩
  | .mma o | .tmma o => usesC o.hold o.sa o.sb [48, 49]
  | .smma o => usesC o.hold o.sa o.sb [48, 49, 51]
  | .mdecay o => usesC o.hold o.sa 0 []
  | .mdrain o => usesC o.hold o.sa o.sb [50]
  | .mgath o => usesC o.hold o.sa o.sb [52, 53]
  | .msave o | .mrest o => usesC o.hold o.sa o.sb [54]
  | .mset o => if o.get then usesS [] [o.sa] else usesC o.hold o.sa 0 []
  | .mcall o => usesC o.hold o.sa o.sb [48, 49, 50, 51, 52, 53, 54]
  | .mupd o => usesC o.hold o.sa o.sb []
  | .ewr o => ⟨csrc o.hold false o.sa, [.e o.n.val]⟩
  | .erd o => ⟨[.e o.n.val], scal o.sa⟩
  | .copy o | .copyd o | .copya o | .copyda o => usesC o.hold o.sa o.sb copyRegs
  | .copyh o => usesC o.hold o.sa o.sb copyRegs
  | .cflag o => usesC o.hold o.sa o.sb [1]
  | .cqpush o => usesC o.hold o.sa 0 []
  | .cstat o => ⟨csrc o.hold true o.sb, scal o.sa⟩
  | .xch o => usesC o.hold o.sa o.sb (xchRegs o.k)
  | .xcb o => usesC o.hold o.sa o.sb (xchRegs o.k)
  | .sib o => usesC o.hold o.sa o.sb (xchRegs o.k)
  | .sibc o => usesC o.hold o.sa o.sb (xchRegs o.k)
  | .shf o => usesC o.hold o.sa o.sb (xchRegs o.k)
  | .shfc o => usesC o.hold o.sa o.sb (xchRegs o.k)
  | .xcins o => usesC o.hold o.sa o.sb []
  | .xstat o | .repq o | .reps o => ⟨csrc o.hold true o.sb, scal o.sd⟩
  | .repc o => usesC o.hold 0 o.sb []
  | .repx o => usesC o.hold 0 o.sb []
  | _ => Uses.none

/-- One word conflicts with another: it writes a register that the other reads or writes. Both write FLAGS only by ORing
unless one of them is MTC (R38). -/
def Uses.hits (a b : Uses) : Bool :=
  a.writes.any fun r => b.reads.contains r || (r != .flags && b.writes.contains r)

/-- MTC FLAGS, which replaces the register rather than raising flags in it. -/
def replacesFlags : Instr → Bool
  | .mtc o => o.num.toNat == 7
  | _ => false

/-- The dependence of R38 between two words of a group. -/
def dependsOn (a b : Instr) : Bool :=
  (usesOf a).hits (usesOf b) || (usesOf b).hits (usesOf a) ||
    (replacesFlags a && (usesOf b).writes.contains .flags) || (replacesFlags b && (usesOf a).writes.contains .flags)

/-- The lowest slot that takes part in a dependence of a group, if there is one (R38, R364). -/
def conflictSlot : List (Nat × Instr) → Option Nat
  | [] => none
  | x :: rest => if rest.any fun y => dependsOn x.2 y.2 then some x.1 else conflictSlot rest

end Sys2Proof.Machine
end

