-- ==== Sys2Proof/Machine/Transc.lean ====
section
/-!
DEFINITION. The transcendental functions of R188, each the exact value rounded once. A value is found as a fixed-point
number with a bound on its error, lowered by more than that bound: a magnitude with `more` set, which rounds as the exact
value does. A result that is exact comes from a rule of its own. By Lindemann and Gelfond and Schneider the functions are
exact only where those rules say so; that no exact value lies inside the error of a rounding boundary is log 6.
-/
namespace Sys2Proof.Machine

/-! ### Fixed point with P fraction bits -/

/-- Fraction bits of every computation here. -/
def fixBits : Nat := 1100
def fixOne : Nat := 2 ^ 1100

/-- Product of two fixed-point numbers, rounded down. -/
def fixMul (a b : Nat) : Nat := a * b / fixOne

/-- Σ t^(2k+1) / (2k+1) from k on: the artanh series of t with `p` = t^(2k+1) and `q` = t². -/
def artanhTail (q : Nat) : Nat → Nat → Nat → Nat
  | 0, _, _ => 0
  | n + 1, k, p => p / (2 * k + 1) + artanhTail q n (k + 1) (fixMul p q)
/-- artanh of t ≤ 1/3 (each term is smaller by 9 or more). -/
def artanh (t : Nat) : Nat := artanhTail (fixMul t t) 360 0 t

/-- ln 2 = 2 artanh(1/3). -/
def ln2Fix : Nat := 2 * artanh (fixOne / 3)

/-- arctan(1/d) by its alternating series. -/
def arctanInv (d : Nat) : Nat → Nat → Nat → Int
  | 0, _, _ => 0
  | n + 1, k, p =>
    (if k % 2 = 0 then ((p / (2 * k + 1) : Nat) : Int) else -((p / (2 * k + 1) : Nat) : Int)) + arctanInv d n (k + 1) (p / (d * d))
/-- π = 16 arctan(1/5) − 4 arctan(1/239). -/
def piFix : Nat := (16 * arctanInv 5 250 0 (fixOne / 5) - 4 * arctanInv 239 80 0 (fixOne / 239)).toNat

/-- Σ t^k / k! from k on, `p` = t^k / k!. -/
def expTail (t : Nat) : Nat → Nat → Nat → Nat
  | 0, _, _ => 0
  | n + 1, k, p => p + expTail t n (k + 1) (fixMul p t / (k + 1))
/-- e^t for 0 ≤ t < 1. -/
def expFix (t : Nat) : Nat := expTail t 200 0 fixOne

/-- Σ ± t^k / k! over every second k, `p` = t^k / k!, `q` = t². -/
def trigTail (q : Nat) : Nat → Nat → Nat → Int
  | 0, _, _ => 0
  | n + 1, k, p => (p : Int) - trigTail q n (k + 2) (fixMul p q / ((k + 1) * (k + 2)))
def sinFix (t : Nat) : Nat := (trigTail (fixMul t t) 120 1 t).toNat
def cosFix (t : Nat) : Nat := (trigTail (fixMul t t) 120 0 fixOne).toNat

/-- A value y · 2^(e - P) known to within 2^g units, as a magnitude. -/
def approx (g y : Nat) (e : Int) : Mag := ⟨(y - 2 ^ g) / 2 ^ (g + 16), e - fixBits + (g + 16), true⟩

/-- m · 2^e in fixed point; exact for every value of the three formats with e ≥ -1100. -/
def toFix (m : Nat) (e : Int) : Nat :=
  if 0 ≤ e + fixBits then m * 2 ^ (e + fixBits).toNat else m / 2 ^ (-(e + fixBits)).toNat

/-! ### The functions at a finite non-zero m · 2^e -/

/-- What a function gives: a code of its own, or a magnitude with a sign to round. -/
inductive TRes where
  | nan (inv : Bool)
  | inf (neg : Bool) (dz : Bool)
  | num (neg : Bool) (d : Mag)
  deriving DecidableEq, Repr

def TRes.zero (neg : Bool) : TRes := .num neg ⟨0, 0, false⟩
def TRes.exact (neg : Bool) (m : Nat) (e : Int) : TRes := .num neg ⟨m, e, false⟩

/-- 1 / x. -/
def rcpFin (neg : Bool) (m : Nat) (e : Int) : TRes :=
  .num neg ⟨2 ^ 100 / m, -100 - e, decide (2 ^ 100 % m ≠ 0)⟩

/-- 1 / √x: the root of 2^200 / x. -/
def rsqrtFin (m : Nat) (e : Int) : TRes :=
  let m' := if e % 2 = 0 then m else 2 * m
  let e' := if e % 2 = 0 then e else e - 1
  let n := 2 ^ 200 / m'
  let r := isqrt 102 n 0
  .num false ⟨r, -100 - e' / 2, decide (r * r * m' ≠ 2 ^ 200)⟩

/-- e^(-u) for u ≥ 0 in fixed point: e^r · 2^(-n) with 0 ≤ r < ln 2. -/
def expNeg (u : Nat) : Nat × Nat :=
  let n := (u + ln2Fix - 1) / ln2Fix
  (expFix (n * ln2Fix - u), n)

/-- 2^x. -/
def exp2Fin (neg : Bool) (m : Nat) (e : Int) : TRes :=
  if 20 ≤ (Nat.log2 m : Int) + e then .num false (if neg then ⟨0, 0, true⟩ else ⟨1, 1000000, false⟩)
  else
    let v := toFix m e
    let n := if neg then (v + fixOne - 1) / fixOne else v / fixOne
    let f := if neg then n * fixOne - v else v - n * fixOne
    let k : Int := if neg then -(n : Int) else n
    if f = 0 then .exact false 1 k else .num false (approx 20 (expFix (fixMul f ln2Fix)) k)

/-- log2 x for x > 0: the exponent and log2 of the mantissa in [1, 2). -/
def log2Fin (m : Nat) (e : Int) : TRes :=
  let l := Nat.log2 m
  let k : Int := (l : Int) + e
  if m = 2 ^ l then (if k = 0 then TRes.zero false else .exact (decide (k < 0)) k.natAbs 0)
  else
    let t := (m - 2 ^ l) * fixOne / (m + 2 ^ l)
    let frac := 2 * artanh t * fixOne / ln2Fix
    if 0 ≤ k then .num false (approx 20 (k.toNat * fixOne + frac) 0)
    else .num true (approx 20 (k.natAbs * fixOne - frac) 0)

/-- 1 / (1 + e^(-x)). -/
def sigmFin (neg : Bool) (m : Nat) (e : Int) : TRes :=
  if 11 ≤ (Nat.log2 m : Int) + e then .num false (if neg then ⟨0, 0, true⟩ else approx 20 fixOne 0)
  else
    let (r, n) := expNeg (toFix m e)
    let d := fixOne + r / 2 ^ n
    if neg then .num false (approx 30 (r * fixOne / d) (-(n : Int))) else .num false (approx 30 (fixOne * fixOne / d) 0)

/-- tanh x = (1 - e^(-2x)) / (1 + e^(-2x)) with the sign of x. -/
def tanhFin (neg : Bool) (m : Nat) (e : Int) : TRes :=
  if 11 ≤ (Nat.log2 m : Int) + e then .num neg (approx 20 fixOne 0)
  else
    let (r, n) := expNeg (2 * toFix m e)
    let q := r / 2 ^ n
    .num neg (approx 30 ((fixOne - q) * fixOne / (fixOne + q)) 0)

/-- sin of quadrant k and rest r. -/
def quadrant (k r : Nat) : Bool × Nat :=
  match k % 4 with
  | 0 => (false, sinFix r)
  | 1 => (false, cosFix r)
  | 2 => (true, sinFix r)
  | _ => (true, cosFix r)

/-- |x| in quarter turns and the rest. -/
def turns (m : Nat) (e : Int) : Nat × Nat :=
  let v := toFix m e
  let h := piFix / 2
  (v / h, v % h)

def sinFin (neg : Bool) (m : Nat) (e : Int) : TRes :=
  let (k, r) := turns m e
  let (s, y) := quadrant k r
  .num (neg != s) (approx 150 y 0)
def cosFin (m : Nat) (e : Int) : TRes :=
  let (k, r) := turns m e
  let (s, y) := quadrant (k + 1) r
  .num s (approx 150 y 0)

/-! ### The functions with their special values (R188) -/

/-- The nine functions in opcode order. -/
inductive TFn where
  | rcp | rsqrt | sqrt | exp2 | log2 | tanh | sigm | sin | cos
  deriving DecidableEq, Repr

def tResult (fn : TFn) (v : FVal) : TRes :=
  match v with
  | .nan sig => .nan sig
  | .inf neg =>
    match fn with
    | .rcp => TRes.zero neg
    | .rsqrt => if neg then .nan true else TRes.zero false
    | .sqrt => if neg then .nan true else .inf false false
    | .exp2 => if neg then TRes.zero false else .inf false false
    | .log2 => if neg then .nan true else .inf false false
    | .tanh => .exact neg 1 0
    | .sigm => if neg then TRes.zero false else .exact false 1 0
    | .sin | .cos => .nan true
  | .fin neg m e =>
    if m = 0 then
      match fn with
      | .rcp | .rsqrt => .inf neg true
      | .sqrt | .tanh | .sin => TRes.zero neg
      | .exp2 | .cos => .exact false 1 0
      | .log2 => .inf true true
      | .sigm => .exact false 1 (-1)
    else
      match fn with
      | .rcp => rcpFin neg m e
      | .rsqrt => if neg then .nan true else rsqrtFin m e
      | .sqrt => if neg then .nan true else .num false (sqrtMag 60 m e)
      | .exp2 => exp2Fin neg m e
      | .log2 => if neg then .nan true else log2Fin m e
      | .tanh => tanhFin neg m e
      | .sigm => sigmFin neg m e
      | .sin => sinFin neg m e
      | .cos => cosFin m e

/-- The result of a function on a code of a format, rounded RNE with R75's SAT. -/
def Fmt.transc (f : Fmt) (fn : TFn) (sat : Bool) (c : Nat) : Nat × Flags :=
  match tResult fn (f.decode c) with
  | .nan inv => (f.canon, flagIf inv flNV)
  | .inf neg dz =>
    let r := f.infResult neg sat
    (r.1, flagIf dz flDZ ||| r.2)
  | .num neg d => f.round .rne 0 sat neg d

end Sys2Proof.Machine
end

