-- ==== Sys2Proof/Machine/Vector.lean ====
section
/-!
DEFINITION. Slots 2 and 3, class V: element arithmetic, transcendentals, compares, selects and predicates, conversion and
packing (R182-R198).
-/
namespace Sys2Proof.Machine

/-! ### Element functions (R185-R187) -/

/-- An element operation on floats or on integers. -/
def elemArith (ff : Fmt → Nat → Nat → Nat × Flags) (fi : Int → Int → Int) (t : ElemType) (sat : Bool) (a b : Nat) :
    Nat × Flags :=
  match elemFmt t with
  | some f => ff f a b
  | none => intResult t sat (fi (elemInt t a) (elemInt t b))

def elemAdd (t : ElemType) (sat : Bool) : Nat → Nat → Nat × Flags :=
  elemArith (fun f => f.addOp .rne sat) (· + ·) t sat
def elemSub (t : ElemType) (sat : Bool) : Nat → Nat → Nat × Flags :=
  elemArith (fun f => f.subOp .rne sat) (· - ·) t sat
def elemMul (t : ElemType) (sat : Bool) : Nat → Nat → Nat × Flags :=
  elemArith (fun f => f.mulOp .rne sat) (· * ·) t sat
def elemMin (t : ElemType) : Nat → Nat → Nat × Flags :=
  elemArith (fun f => f.minMax false) (fun a b => if b < a then b else a) t false
def elemMax (t : ElemType) : Nat → Nat → Nat × Flags :=
  elemArith (fun f => f.minMax true) (fun a b => if a < b then b else a) t false
/-- VDIV (R69, R187). -/
def elemDiv (t : ElemType) (sat : Bool) (a b : Nat) : Nat × Flags :=
  match elemFmt t with
  | some f => f.divOp .rne sat a b
  | none => (intDiv t a b, flNone)
/-- VFMA and VFMS take the old element of vd as the addend. -/
def elemFma (negC : Bool) (t : ElemType) (sat : Bool) (a b c : Nat) : Nat × Flags :=
  match elemFmt t with
  | some f => f.fmaOp .rne sat false negC a b c
  | none => (c, flNone)
/-- VABS and VNEG. -/
def elemSign (ff : Fmt → Nat → Nat) (fi : Int → Int) (t : ElemType) (sat : Bool) (a : Nat) : Nat × Flags :=
  match elemFmt t with
  | some f => signOp f (ff f) a
  | none => intResult t sat (fi (elemInt t a))
/-- Shifts by the count modulo the width (R185). -/
def elemShl (t : ElemType) (a b : Nat) : Nat × Flags := (a * 2 ^ (b % t.bits) % 2 ^ t.bits, flNone)
def elemShr (t : ElemType) (a b : Nat) : Nat × Flags :=
  (lowBits t.bits (elemInt t a / (2 ^ (b % t.bits) : Nat)), flNone)

/-! ### Shared forms -/

/-- An elementwise word with two sources and the old destination. -/
def opV2 (f : ElemType → Bool → Nat → Nat → Nat → Nat × Flags) (o : V2Op) (s : State) : State :=
  s.vword o.pipe1 o.hold o.va o.vb fun s =>
    s.putLanes o.vd o.pg fun k =>
      let a := s.srcV o.pipe1 o.hold false o.va k
      let b := s.srcV o.pipe1 o.hold true o.vb k
      let d := s.lane o.vd k
      mapElems o.ty fun j => f o.ty o.m (elemAt o.ty.bits a j) (elemAt o.ty.bits b j) (elemAt o.ty.bits d j)
/-- An elementwise word with one source. -/
def opV1 (f : ElemType → Bool → Nat → Nat × Flags) (o : V1Op) (s : State) : State :=
  s.vword o.pipe1 o.hold o.va 0 fun s =>
    s.putLanes o.vd o.pg fun k =>
      let a := s.srcV o.pipe1 o.hold false o.va k
      mapElems o.ty fun j => f o.ty o.sat (elemAt o.ty.bits a j)
/-- A word on whole lanes. -/
def opVw (f : Word → Word → Word) (o : VwOp) (s : State) : State :=
  s.vword o.pipe1 o.hold o.va o.vb fun s =>
    s.putWords o.vd o.pg fun k => f (s.srcV o.pipe1 o.hold false o.va k) (s.srcV o.pipe1 o.hold true o.vb k)

def execVadd (o : V2Op) (s : State) : Out := .next (opV2 (fun t sat a b _ => elemAdd t sat a b) o s)
def execVsub (o : V2Op) (s : State) : Out := .next (opV2 (fun t sat a b _ => elemSub t sat a b) o s)
def execVmul (o : V2Op) (s : State) : Out := .next (opV2 (fun t sat a b _ => elemMul t sat a b) o s)
def execVfma (o : V2Op) (s : State) : Out := .next (opV2 (elemFma false) o s)
def execVfms (o : V2Op) (s : State) : Out := .next (opV2 (elemFma true) o s)
def execVmin (o : V2Op) (s : State) : Out := .next (opV2 (fun t _ a b _ => elemMin t a b) o s)
def execVmax (o : V2Op) (s : State) : Out := .next (opV2 (fun t _ a b _ => elemMax t a b) o s)
def execVabs (o : V1Op) (s : State) : Out := .next (opV1 (elemSign absCode fun x => (x.natAbs : Int)) o s)
def execVneg (o : V1Op) (s : State) : Out := .next (opV1 (elemSign negCode fun x => -x) o s)
def execVand (o : VwOp) (s : State) : Out := .next (opVw (· &&& ·) o s)
def execVor (o : VwOp) (s : State) : Out := .next (opVw (· ||| ·) o s)
def execVxor (o : VwOp) (s : State) : Out := .next (opVw (· ^^^ ·) o s)
def execVshl (o : V2Op) (s : State) : Out := .next (opV2 (fun t _ a b _ => elemShl t a b) o s)
def execVshr (o : V2Op) (s : State) : Out := .next (opV2 (fun t _ a b _ => elemShr t a b) o s)
def execVdiv (o : V2Op) (s : State) : Out := .next (opV2 (fun t sat a b _ => elemDiv t sat a b) o s)

/-! ### Transcendentals (R188) -/

def elemTransc (fn : TFn) (t : ElemType) (sat : Bool) (a : Nat) : Nat × Flags :=
  match elemFmt t with
  | some f => f.transc fn sat a
  | none => (a, flNone)
def execVrcp (o : V1Op) (s : State) : Out := .next (opV1 (elemTransc .rcp) o s)
def execVrsqrt (o : V1Op) (s : State) : Out := .next (opV1 (elemTransc .rsqrt) o s)
def execVsqrt (o : V1Op) (s : State) : Out := .next (opV1 (elemTransc .sqrt) o s)
def execVexp2 (o : V1Op) (s : State) : Out := .next (opV1 (elemTransc .exp2) o s)
def execVlog2 (o : V1Op) (s : State) : Out := .next (opV1 (elemTransc .log2) o s)
def execVtanh (o : V1Op) (s : State) : Out := .next (opV1 (elemTransc .tanh) o s)
def execVsigm (o : V1Op) (s : State) : Out := .next (opV1 (elemTransc .sigm) o s)
def execVsin (o : V1Op) (s : State) : Out := .next (opV1 (elemTransc .sin) o s)
def execVcos (o : V1Op) (s : State) : Out := .next (opV1 (elemTransc .cos) o s)

/-! ### Compares (R189) -/

/-- A relation with its flags, on floats and on integers. -/
def laneCmp (ff : FVal → FVal → Bool × Flags) (fi : Int → Int → Bool) (t : ElemType) (a b : Word) : Bool × Flags :=
  match elemFmt t with
  | some f => ff (f.decode a.toNat) (f.decode b.toNat)
  | none => (fi (elemInt t a.toNat) (elemInt t b.toNat), flNone)

/-- Inactive lanes write 0. -/
def opVcmp (ff : FVal → FVal → Bool × Flags) (fi : Int → Int → Bool) (o : VcmpOp) (s : State) : State :=
  s.vword o.pipe1 o.hold o.va o.vb fun s =>
    let g := s.preg o.pg
    let r (k : Nat) : Bool × Flags :=
      laneCmp ff fi o.ty (s.srcV o.pipe1 o.hold false o.va k) (s.srcV o.pipe1 o.hold true o.vb k)
    (s.setP o.pd (predOf fun k => g.getLsbD k && (r k).1)).raise
      (orFlags ((List.range 1024).map fun k => if g.getLsbD k then (r k).2 else flNone))

def execVcmpeq (o : VcmpOp) (s : State) : Out :=
  .next (opVcmp (fun a b => (a.eq b, eqFlags a b)) (fun a b => a == b) o s)
def execVcmpne (o : VcmpOp) (s : State) : Out :=
  .next (opVcmp (fun a b => (!a.eq b, eqFlags a b)) (fun a b => a != b) o s)
def execVcmplt (o : VcmpOp) (s : State) : Out :=
  .next (opVcmp (fun a b => (a.lt b, ltFlags a b)) (fun a b => decide (a < b)) o s)
def execVcmple (o : VcmpOp) (s : State) : Out :=
  .next (opVcmp (fun a b => (a.lt b || a.eq b, ltFlags a b)) (fun a b => decide (a ≤ b)) o s)

/-! ### Selects and predicates (R190-R193) -/

/-- VSEL writes every lane. -/
def opVsel (o : VwOp) (s : State) : State :=
  s.vword o.pipe1 o.hold o.va o.vb fun s =>
    let c := s.preg o.pg
    s.setV o.vd fun k =>
      if c.getLsbD k then s.srcV o.pipe1 o.hold false o.va k else s.srcV o.pipe1 o.hold true o.vb k
def execVsel (o : VwOp) (s : State) : Out := .next (opVsel o s)

def plogResult (fn : PlogFn) (a b : PredReg) : PredReg :=
  match fn with
  | .and => a &&& b
  | .or => a ||| b
  | .xor => a ^^^ b
  | .andn => a &&& ~~~b
  | .not => ~~~a
/-- PLOG. -/
def opPlog (o : PlogOp) (s : State) : State := s.setP o.pd (plogResult o.fn (s.preg o.pa) (s.preg o.pb))
def execPlog (o : PlogOp) (s : State) : Out := .next (opPlog o s)

/-- PCNT. -/
def opPcnt (o : PcntOp) (s : State) : State :=
  s.setS o.sd (BitVec.ofNat 64 (popCount 1024 (s.preg o.pa &&& s.preg o.pg).toNat))
def execPcnt (o : PcntOp) (s : State) : Out := .next (opPcnt o s)

def vbitResult (fn : VbitFn) (x : Word) : Word :=
  BitVec.ofNat 32 (match fn with
    | .clz => leadZeros 32 x.toNat
    | .ctz => trailZeros 32 x.toNat
    | .popc => popCount 32 x.toNat)
/-- VBIT. -/
def opVbit (o : VbitOp) (s : State) : State :=
  s.vword o.pipe1 o.hold o.va 0 fun s =>
    s.putWords o.vd o.pg fun k => vbitResult o.fn (s.srcV o.pipe1 o.hold false o.va k)
def execVbit (o : VbitOp) (s : State) : Out := .next (opVbit o s)

/-! ### Conversion (R194-R196) -/

/-- The float format of a VCVT operand, if it is one. -/
def cvtFmt : CvtFmt → Option Fmt
  | .f32 => some fmtF32
  | .bf16 => some fmtBf16
  | .f16 => some fmtF16
  | .e4m3 => some fmtE4m3
  | .e5m2 => some fmtE5m2
  | .e2m3 => some fmtE2m3
  | .e3m2 => some fmtE3m2
  | .e2m1 => some fmtE2m1
  | _ => none
/-- The integer element type of a VCVT operand, if it is one. -/
def cvtInt : CvtFmt → Option ElemType
  | .i32 => some .i32
  | .n32 => some .n32
  | .i16 => some .i16
  | .i8 => some .i8
  | .n8 => some .n8
  | _ => none

/-- An integer element in a lane: sign-extended for I types, zero-extended otherwise (R195, R198). -/
def laneOfInt (t : ElemType) (x : Nat) : Word := BitVec.ofInt 32 (elemInt t x)

/-- FP32 to the other format: the lane and the flags. -/
def cvtFrom32 (o : CvtFmt) (rm : RoundMode) (r16 : Nat) (sat : Bool) (x : Word) : Word × Flags :=
  let v := fmtF32.decode x.toNat
  let plain (r : Nat × Flags) : Word × Flags := (BitVec.ofNat 32 r.1, r.2)
  match cvtFmt o with
  | some f => plain (convert f rm r16 sat v)
  | none =>
    match cvtInt o with
    | some t =>
      let r := toInt t.signed t.bits rm r16 v
      (laneOfInt t r.1, r.2)
    | none => plain (if o = .t2 then toT2 rm r16 v else toE8m0 rm r16 v)

/-- The other format to FP32: SAT changes nothing (R195). -/
def cvtTo32 (o : CvtFmt) (rm : RoundMode) (r16 : Nat) (x : Word) : Word × Flags :=
  let plain (r : Nat × Flags) : Word × Flags := (BitVec.ofNat 32 r.1, r.2)
  match cvtFmt o with
  | some f => plain (convert fmtF32 rm r16 false (f.decode (x.toNat % 2 ^ f.width)))
  | none =>
    match cvtInt o with
    | some t => plain (ofInt fmtF32 rm r16 false (elemInt t x.toNat))
    | none =>
      if o = .t2 then
        let v := ofT2 x.toNat
        let r := ofInt fmtF32 .rne 0 false v.1
        plain (r.1, v.2 ||| r.2)
      else plain (convert fmtF32 .rne 0 false (ofE8m0 x.toNat))

/-- VCVT; the draws of SR are those of R196. -/
def opVcvt (o : VcvtOp) (s : State) : State :=
  s.vword o.pipe1 o.hold o.va 0 fun s =>
    s.putLanes o.vd o.pg fun k =>
      let a := s.srcV o.pipe1 o.hold false o.va k
      let r16 := if o.rm = .sr then s.draw16 (vSlot o.pipe1) k else 0
      if o.toF32 then cvtTo32 o.fmt o.rm r16 a else cvtFrom32 o.fmt o.rm r16 o.sat a
def execVcvt (o : VcvtOp) (s : State) : Out := .next (opVcvt o s)

/-! ### Packing (R197, R198) -/

/-- VPACK: 16-bit types fill the lane; 8-bit types fill half of it and keep the other. -/
def packLane (t : ElemType) (hi : Bool) (a b d : Word) : Word :=
  let n := a.toNat % 2 ^ t.bits + 2 ^ t.bits * (b.toNat % 2 ^ t.bits)
  if t.bits = 16 then BitVec.ofNat 32 n else BitVec.ofNat 32 (setBits d.toNat (if hi then 16 else 0) 16 n)
def opVpack (o : V2Op) (s : State) : State :=
  s.vword o.pipe1 o.hold o.va o.vb fun s =>
    s.putWords o.vd o.pg fun k =>
      packLane o.ty o.m (s.srcV o.pipe1 o.hold false o.va k) (s.srcV o.pipe1 o.hold true o.vb k) (s.lane o.vd k)
def execVpack (o : V2Op) (s : State) : Out := .next (opVpack o s)

/-- VUNPK: element j in the low bits, sign-extended for I types. -/
def opVunpk (o : VunpkOp) (s : State) : State :=
  s.vword o.pipe1 o.hold o.va 0 fun s =>
    s.putWords o.vd o.pg fun k => laneOfInt o.ty (elemAt o.ty.bits (s.srcV o.pipe1 o.hold false o.va k) o.j.val)
def execVunpk (o : VunpkOp) (s : State) : Out := .next (opVunpk o s)

end Sys2Proof.Machine
end

