-- ==== Sys2Proof/Machine/VectorX.lean ====
section
/-!
DEFINITION. Slots 2 and 3, class V: moves within and between slabs, reductions and scans, random numbers (R199-R211).
-/
namespace Sys2Proof.Machine

/-- Copies of the low element of a scalar over a lane (R199). -/
def splat (t : ElemType) (v : DWord) : Word :=
  BitVec.ofNat 32 (packElems t.bits ((List.range t.perLane).map fun _ => v.toNat))

/-- VMOVS. -/
def opVmovs (o : VmovsOp) (s : State) : State := s.putWords o.vd o.pg fun _ => splat o.ty (s.sreg o.sa)
def execVmovs (o : VmovsOp) (s : State) : Out := .next (opVmovs o s)

/-- VLANE (R200). -/
def opVlane (o : VlaneOp) (s : State) : State :=
  s.putWords o.vd o.pg fun k => (s.sreg o.sa).truncate 32 + BitVec.ofNat 32 k
def execVlane (o : VlaneOp) (s : State) : Out := .next (opVlane o s)

/-- VEXT (R201). -/
def opVext (o : VextOp) (s : State) : State :=
  s.vword false o.hold o.va 0 fun s =>
    let x := s.srcV false o.hold false o.va ((s.sreg o.sb).toNat % 1024)
    s.setS o.sd (if o.ty = .i32 then x.signExtend 64 else x.zeroExtend 64)
def execVext (o : VextOp) (s : State) : Out := .next (opVext o s)

/-- VPERM permutes within each slab (R202). -/
def opVperm (o : VwOp) (s : State) : State :=
  s.vword o.pipe1 o.hold o.va o.vb fun s =>
    s.putWords o.vd o.pg fun k =>
      s.srcV o.pipe1 o.hold false o.va (k / 64 * 64 + (s.srcV o.pipe1 o.hold true o.vb k).toNat % 64)
def execVperm (o : VwOp) (s : State) : Out := .next (opVperm o s)

/-- VSHS shifts toward higher lanes by 1 to 64 (R203). -/
def opVshs (o : VshsOp) (s : State) : State :=
  s.vword false o.hold o.va 0 fun s =>
    let n := o.nm1.val + 1
    s.putWords o.vd o.pg fun k => if k < n then 0 else s.srcV false o.hold false o.va (k - n)
def execVshs (o : VshsOp) (s : State) : Out := .next (opVshs o s)

/-! ### Exact sums of FP32 terms (R207) -/

/-- A multiset of FP32 terms: what S needs of it; the sum is in units of 2^-149. -/
structure Sum32 where
  nan : Bool
  snan : Bool
  pinf : Bool
  ninf : Bool
  allNegZero : Bool
  total : Int
  deriving DecidableEq, Repr

def Sum32.empty : Sum32 := ⟨false, false, false, false, true, 0⟩
/-- One more term. -/
def Sum32.insert (c : Nat) (t : Sum32) : Sum32 :=
  match fmtF32.decode c with
  | .nan sig => { t with nan := true, snan := t.snan || sig, allNegZero := false }
  | .inf neg => { t with pinf := t.pinf || !neg, ninf := t.ninf || neg, allNegZero := false }
  | .fin neg m e =>
    { t with total := t.total + scaled neg m e (-149), allNegZero := t.allNegZero && decide (m = 0) && neg }
/-- S(T). -/
def Sum32.value (t : Sum32) : Nat × Flags :=
  if t.nan then (fmtF32.canon, flagIf t.snan flNV)
  else if t.pinf && t.ninf then (fmtF32.canon, flNV)
  else if t.pinf then (fmtF32.signed false fmtF32.infCode, flNone)
  else if t.ninf then (fmtF32.signed true fmtF32.infCode, flNone)
  else if t.total = 0 then (fmtF32.signed t.allNegZero 0, flNone)
  else fmtF32.round .rne 0 false (decide (t.total < 0)) ⟨t.total.natAbs, -149, false⟩

/-! ### Orders (R206) -/

/-- How a calibre groups the terms: sequential (1, 4), slab-exact (2, 6), whole-exact (3, 5). -/
inductive SumOrder where
  | sequential | slabExact | wholeExact
  deriving DecidableEq, Repr
def sumOrder : Calibre → SumOrder
  | .c1 | .c4 => .sequential
  | .c2 | .c6 => .slabExact
  | .c3 | .c5 => .wholeExact

/-- Whether the terms before lane k are first rounded into one carry: always, at a new slab, never. -/
def SumOrder.carries (o : SumOrder) (last k : Nat) : Bool :=
  match o with
  | .sequential => true
  | .slabExact => k / 64 != last / 64
  | .wholeExact => false

/-- The scan of FP32 sums over the active lanes (lane, code) in increasing lane. -/
def sumScan (o : SumOrder) : Option (Nat × Nat) → Sum32 → List (Nat × Nat) → List (Nat × Nat × Flags)
  | _, _, [] => []
  | prev, t, (k, x) :: rest =>
    let t0 := match prev with
      | none => t
      | some (last, out) => if o.carries last k then Sum32.empty.insert out else t
    let t1 := t0.insert x
    let r := t1.value
    (k, r.1, r.2) :: sumScan o (some (k, r.1)) t1 rest

/-- The running minimum or maximum (R208). -/
def pickScan (wantMax : Bool) (t : ElemType) : Option Nat → List (Nat × Nat) → List (Nat × Nat × Flags)
  | _, [] => []
  | prev, (k, x) :: rest =>
    let y := prev.getD x
    let r := match elemFmt t with
      | some f => f.minMax wantMax y x
      | none =>
        let less (a b : Nat) : Bool := decide (elemInt t a < elemInt t b)
        (if wantMax then (if less y x then x else y) else if less x y then x else y, flNone)
    (k, r.1, r.2) :: pickScan wantMax t (some r.1) rest

/-- The exact running sum of integers (R208). -/
def intScan (t : ElemType) (sat : Bool) : Int → List (Nat × Nat) → List (Nat × Nat × Flags)
  | _, [] => []
  | run, (k, x) :: rest =>
    let y := run + elemInt t x
    let r := intResult t sat y
    (k, r.1, r.2) :: intScan t sat y rest

/-- The scan of an addition. -/
def addScan (t : ElemType) (c : Calibre) (sat : Bool) (l : List (Nat × Nat)) : List (Nat × Nat × Flags) :=
  match elemFmt t with
  | some _ => sumScan (sumOrder c) none Sum32.empty l
  | none => intScan t sat 0 l

/-- The terms: the active lanes of va with their codes, in increasing lane (R204). -/
def State.terms (s : State) (o : VredOp) : List (Nat × Nat) :=
  ((List.range 1024).filter fun k => (s.preg o.pg).getLsbD k).map fun k => (k, (s.srcV false o.hold false o.va k).toNat)

/-- Writes the outputs of a scan into the active lanes (R205). -/
def opScan (f : VredOp → List (Nat × Nat) → List (Nat × Nat × Flags)) (o : VredOp) (s : State) : State :=
  s.vword false o.hold o.va 0 fun s =>
    let out := f o (s.terms o)
    (s.setV o.rd fun k =>
      match out.find? fun x => x.1 == k with
      | some x => BitVec.ofNat 32 x.2.1
      | none => s.lane o.rd k).raise (orFlags (out.map (·.2.2)))

/-- The scalar a reduction writes from a 32-bit result (R205, R208). -/
def widen (t : ElemType) (x : Nat) : DWord :=
  if t = .i32 then (BitVec.ofNat 32 x).signExtend 64 else BitVec.ofNat 64 (x % 2 ^ 32)

/-- A reduction: the scan's last output, or the empty value (R205, R209). -/
def opReduce (f : VredOp → List (Nat × Nat) → List (Nat × Nat × Flags)) (empty : ElemType → DWord) (o : VredOp)
    (s : State) : State :=
  s.vword false o.hold o.va 0 fun s =>
    let out := f o (s.terms o)
    (s.setS o.rd (match out.getLast? with
      | none => empty o.ty
      | some x => widen o.ty x.2.1)).raise (orFlags (out.map (·.2.2)))

/-- The empty values of VREDMAX and VREDMIN (R209). -/
def emptyMax : ElemType → DWord
  | .f32 => 0x7FC00000
  | .i32 => 0xFFFFFFFF80000000
  | _ => 0
def emptyMin : ElemType → DWord
  | .f32 => 0x7FC00000
  | .i32 => 0x7FFFFFFF
  | _ => 0xFFFFFFFF

/-- VREDADD: FP32 by the calibre's order; integers exactly, in all 64 bits (R208). -/
def opVredadd (o : VredOp) (s : State) : State :=
  match elemFmt o.ty with
  | some _ => opReduce (fun o l => addScan o.ty o.cal false l) (fun _ => 0) o s
  | none =>
    s.vword false o.hold o.va 0 fun s =>
      s.setS o.rd (BitVec.ofInt 64 (((s.terms o).map fun x => elemInt o.ty x.2).foldl (· + ·) 0))
def execVredadd (o : VredOp) (s : State) : Out := .next (opVredadd o s)
def execVredmax (o : VredOp) (s : State) : Out :=
  .next (opReduce (fun o l => pickScan true o.ty none l) emptyMax o s)
def execVredmin (o : VredOp) (s : State) : Out :=
  .next (opReduce (fun o l => pickScan false o.ty none l) emptyMin o s)
def execVscanadd (o : VredOp) (s : State) : Out := .next (opScan (fun o l => addScan o.ty o.cal o.sat l) o s)
def execVscanmax (o : VredOp) (s : State) : Out := .next (opScan (fun o l => pickScan true o.ty none l) o s)
def execVscanmin (o : VredOp) (s : State) : Out := .next (opScan (fun o l => pickScan false o.ty none l) o s)

/-! ### Random numbers (R211) -/

/-- VRNG: z[31:0], or z[63:40] · 2^-24 as FP32. -/
def rngLane (t : ElemType) (z : DWord) : Word :=
  match t with
  | .f32 => BitVec.ofNat 32 (fmtF32.round .rne 0 false false ⟨z.toNat / 2 ^ 40, -24, false⟩).1
  | _ => z.truncate 32
def opVrng (o : VmovsOp) (s : State) : State :=
  s.putWords o.vd o.pg fun k => rngLane o.ty (s.stream.rngword ((s.sreg o.sa <<< 10) + BitVec.ofNat 64 k))
def execVrng (o : VmovsOp) (s : State) : Out := .next (opVrng o s)

end Sys2Proof.Machine
end

