-- ==== Sys2Proof/Machine/Combine.lean ====
section
/-!
DEFINITION. Combining: the element functions and the complications (R297, R298, R305).
-/
namespace Sys2Proof.Machine

/-! ### Elements (R297) -/

/-- A subnormal operand under a flushing calibre. -/
def flushIn (f : Fmt) (ftz : Bool) (c : Nat) : Nat := if ftz && f.isSub c then f.zeroLike c else c

/-- Add, maximum or minimum of two floating codes. -/
def combineFloat (f : Fmt) (op : Nat) (ftz : Bool) (x y : Nat) : Nat × Flags :=
  let a := flushIn f ftz x
  let b := flushIn f ftz y
  if op = 0 then flushCell f ftz (f.sumOf [f.decode a, f.decode b]) else f.minMax (op == 1) a b

/-- The same of two 32-bit integers. -/
def combineInt (signed : Bool) (op x y : Nat) : Nat :=
  let v (a : Nat) : Int := if signed then signedOf 32 a else (a : Nat)
  if op = 0 then (x + y) % 2 ^ 32
  else if op = 1 then (if v x < v y then y else x)
  else if v y < v x then y else x

/-- combine(x, y) of a lane for OP 0-2; TYPE is a code of R44. -/
def combineLane (ty op : Nat) (ftz : Bool) (x y : Word) : Word × Flags :=
  match ty with
  | 0 =>
    let r := combineFloat fmtF32 op ftz x.toNat y.toNat
    (BitVec.ofNat 32 r.1, r.2)
  | 1 => mapElems .bf16 fun j => combineFloat fmtBf16 op ftz (elemAt 16 x j) (elemAt 16 y j)
  | 3 => (BitVec.ofNat 32 (combineInt true op x.toNat y.toNat), flNone)
  | _ => (BitVec.ofNat 32 (combineInt false op x.toNat y.toNat), flNone)

/-- One FP32 step of a compensated add: a plain RNE rounding. -/
def stepF32 (neg : Bool) (a b : Nat × Flags) : Nat × Flags :=
  let r := if neg then fmtF32.subOp .rne false a.1 b.1 else fmtF32.addOp .rne false a.1 b.1
  (r.1, a.2 ||| b.2 ||| r.2)

/-- R298: the sum, the error term, the flags. A flushing calibre acts on the four inputs and on the two results (R297;
log 29). -/
def twoSum (ftz : Bool) (xs xe ys ye : Nat) : Nat × Nat × Flags :=
  let c (x : Nat) : Nat × Flags := (flushIn fmtF32 ftz x, flNone)
  let t := stepF32 false (c xs) (c ys)
  let z := stepF32 true t (c xs)
  let err := stepF32 false (stepF32 true (c xs) (stepF32 true t z)) (stepF32 true (c ys) z)
  let sum := flushCell fmtF32 ftz t
  let e := flushCell fmtF32 ftz (stepF32 false (stepF32 false (c xe) (c ye)) err)
  (sum.1, if t.1 / 2 ^ 23 % 2 ^ 8 = 255 then 0 else e.1, sum.2 ||| e.2)

/-! ### Complications (R305) -/

/-- Whether a word may stand in a complication image. -/
def compWordOk (w : Nat) : Bool :=
  !stopBit w && field w 1 3 == 0 &&
    (let op := field w 25 6
     op < 0x22 || op == 0x2D || op == 0x2F) &&
    match decodeSlot 2 w with
    | .error _ => false
    | .ok i =>
      let u := usesOf i
      (u.reads ++ u.writes).all fun r => match r with
        | .v n => decide (n.val ≤ 7)
        | .p n => decide (n.val ≤ 3)
        | _ => true

/-- What the vector meanings answer, as a state. -/
def ranOf (s : State) (o : Out) : State := match o with | .next t => t | _ => s

/-- VCVT with the draws of a complication. -/
def compCvt (o : VcvtOp) (draw : Nat → Nat) (s : State) : State :=
  s.putLanes o.vd o.pg fun k =>
    let a := s.lane o.va k
    let r16 := if o.rm = .sr then draw (k % 64) else 0
    if o.toF32 then cvtTo32 o.fmt o.rm r16 a else cvtFrom32 o.fmt o.rm r16 o.sat a

/-- One word of a complication, as in the vector instructions. -/
def compStep (draw : Nat → Nat) (i : Instr) (s : State) : State :=
  match i with
  | .vadd o => ranOf s (execVadd o s)
  | .vsub o => ranOf s (execVsub o s)
  | .vmul o => ranOf s (execVmul o s)
  | .vfma o => ranOf s (execVfma o s)
  | .vfms o => ranOf s (execVfms o s)
  | .vmin o => ranOf s (execVmin o s)
  | .vmax o => ranOf s (execVmax o s)
  | .vabs o => ranOf s (execVabs o s)
  | .vneg o => ranOf s (execVneg o s)
  | .vand o => ranOf s (execVand o s)
  | .vor o => ranOf s (execVor o s)
  | .vxor o => ranOf s (execVxor o s)
  | .vshl o => ranOf s (execVshl o s)
  | .vshr o => ranOf s (execVshr o s)
  | .vdiv o => ranOf s (execVdiv o s)
  | .vrcp o => ranOf s (execVrcp o s)
  | .vrsqrt o => ranOf s (execVrsqrt o s)
  | .vsqrt o => ranOf s (execVsqrt o s)
  | .vexp2 o => ranOf s (execVexp2 o s)
  | .vlog2 o => ranOf s (execVlog2 o s)
  | .vtanh o => ranOf s (execVtanh o s)
  | .vsigm o => ranOf s (execVsigm o s)
  | .vsin o => ranOf s (execVsin o s)
  | .vcos o => ranOf s (execVcos o s)
  | .vcmpeq o => ranOf s (execVcmpeq o s)
  | .vcmpne o => ranOf s (execVcmpne o s)
  | .vcmplt o => ranOf s (execVcmplt o s)
  | .vcmple o => ranOf s (execVcmple o s)
  | .vsel o => ranOf s (execVsel o s)
  | .vcvt o => compCvt o draw s
  | .vpack o => ranOf s (execVpack o s)
  | .vunpk o => ranOf s (execVunpk o s)
  | .vperm o => ranOf s (execVperm o s)
  | .plog o => ranOf s (execPlog o s)
  | .vbit o => ranOf s (execVbit o s)
  | _ => s

/-- The registers at the start of a chunk: the 64 lanes stand in every slab alike, so that no other lane raises a flag
of its own; the words act within a slab. -/
def compStart (x y : Nat → Word) (lanes : Nat) : State :=
  { State.reset with stream := { Stream.cleared with
      v := Cells.blit (Cells.blit [] 0 1024 fun k => x (k % 64)) 1024 1024 fun k => y (k % 64),
      p := Stream.cleared.p.set 1 (predOf fun k => decide (k % 64 < lanes)) } }

/-- Runs an image over one chunk of `lanes` lanes: the lanes of v0 that p1 marks after its words, and the flags. `draw` gives
word w's draws. -/
def runComp (image : List Word) (draw : Nat → Nat → Nat) (x y : Nat → Word) (lanes : Nat) : List (Option Word) × Flags :=
  let s := (image.mapIdx fun w i => (w, i)).foldl (fun s wi =>
    match decodeSlot 2 wi.2.toNat with
    | .ok i => compStep (draw wi.1) i s
    | .error _ => s) (compStart x y lanes)
  ((List.range lanes).map fun k => if (s.preg 1).getLsbD k then some (s.lane 0 k) else none, s.stream.flags)

/-- The draws of R305. -/
def compDraw (cnum n lowNode slab chunk w j : Nat) : Nat :=
  let h := mix64 (BitVec.ofNat 64 (cnum * 2 ^ 8 + w)) ^^^ mix64 (BitVec.ofNat 64 n) ^^^ BitVec.ofNat 64 (lowNode * 2 ^ 48)
  (mix64 (h ^^^ BitVec.ofNat 64 (slab * 2 ^ 24) ^^^ BitVec.ofNat 64 (chunk * 2 ^ 8) ^^^ BitVec.ofNat 64 j)).toNat % 65536

end Sys2Proof.Machine
end

