-- ==== Sys2Proof/Machine/Tasks.lean ====
section
/-!
DEFINITION. Dispatch: the checks of a TASK entry, translation, the Repeater's answer, the start of the task and its
completion (R27, R90, R94, R328-R337, R346-R350).
-/
namespace Sys2Proof.Machine

/-- Why dispatch stops short of a start: a record, or a hold for a poisoned table (R99). -/
inductive Stop where
  | refuse (code trap detail : Nat)
  | hold (va : Nat)
  deriving DecidableEq, Repr

/-! ### Reading the descriptor and its tables (R328, R335) -/

/-- The first byte of each page of [va, va + n). -/
def pageStarts (va n : Nat) : List Nat :=
  if n = 0 then [] else (List.range ((va + n - 1) / 65536 - va / 65536 + 1)).map fun k => max va ((va / 65536 + k) * 65536)

/-- Bytes that dispatch reads: FAULT where a page cannot be read, a hold where a table is poisoned. -/
def State.fetch (s : State) (p : PartNo) (va n : Nat) : Except Stop (List Byte) :=
  if 2 ^ 48 < va + n then .error (.refuse ccFAULT 0 va)
  else
    match (pageStarts va n).findSome? fun a =>
        match s.walkPart p a true false with
        | .ok _ _ _ => none
        | .poisoned => some (Stop.hold a)
        | _ => some (Stop.refuse ccFAULT 0 a) with
    | some e => .error e
    | none => .ok ((s.vread p va n).getD [])

/-- What walking some pages does beside the answers, up to the first that is refused: address and rights of each (R93, R99). -/
def State.walkAll (p : PartNo) : List (Nat × Bool × Bool) → State → State
  | [], s => s
  | (va, rd, wr) :: l, s =>
    let s1 := s.afterWalk p va
    match s.walkPart p va rd wr with
    | .ok _ _ _ => s1.walkAll p l
    | _ => s1

/-- A little-endian number of n bytes inside a list of bytes. -/
def numAt (l : List Byte) (at' n : Nat) : Nat := ofBytes ((l.drop at').take n)
/-- The k-th entry of n bytes. -/
def entryAt (l : List Byte) (n k : Nat) : List Byte := (l.drop (n * k)).take n
/-- The entries of a table. -/
def tableOf (l : List Byte) (n count : Nat) : List (List Byte) := (List.range count).map (entryAt l n)

/-- R335, as far as the descriptor alone shows it. -/
def badDesc (d : List Byte) : Bool :=
  let w (k : Nat) : Nat := numAt d (8 * k) 8
  bits (w 0) 21 43 != 0 || bit (w 4) 63 || bits (w 6) 57 7 != 0 || bits (w 7) 61 3 != 0 || bits (w 8) 56 8 != 0 ||
    bits (w 9) 55 9 != 0 || bits (w 10) 16 48 != 0 || w 15 != 0 ||
    decide (w 1 < w 2) || decide (w 2 + w 3 ≤ w 1) || w 1 % 32 != 0 ||
    decide (256 < bits (w 6) 48 9) || decide (4096 < bits (w 7) 48 13) || decide (128 < bits (w 8) 48 8) ||
    decide (64 < bits (w 9) 48 7) || ([6, 7, 8, 9].any fun k => bits (w k) 0 48 % 8 != 0) ||
    bits (w 10) 0 16 != Nat.land (bits (w 10) 0 16) 0x7E || (bit (w 0) 20 && !bit (w 0) 16) ||
    w 2 % 64 != 0 || w 3 % 64 != 0 || w 3 == 0 || w 5 % 64 != 0

/-- The words of an image. -/
def imageWords (l : List Byte) (n : Nat) : List Nat := toWords 4 (l.drop 8) n

/-- R335 in the tables: reserved fields, images, duplicate numbers. -/
def badTables (segs routines comps : List (List Byte)) : Bool :=
  (segs.any fun e => numAt e 26 6 != 0 || bits (numAt e 25 1) 6 2 != 0) ||
    (routines.any fun e => decide (128 ≤ numAt e 0 8) || (imageWords e 16).any fun w => (routineFault w).isSome) ||
    (comps.any fun e => decide (64 ≤ numAt e 0 8) || (imageWords e 32).any fun w => !compWordOk w) ||
    !(routines.map fun e => numAt e 0 8).Nodup || !(comps.map fun e => numAt e 0 8).Nodup

/-- A window-table entry (R330). -/
def windowOf (e : List Byte) : Window :=
  let a := numAt e 16 8
  { base := numAt e 0 8, len := numAt e 8 8,
    attr := match bits a 0 3 with
      | 0 => .input
      | 1 => .output
      | 2 => .inout
      | 3 => .scratch
      | 4 => .spill
      | _ => .land,
    lazy := bit a 3, rebind := bit a 4 }

/-- The private copy of a task (R328). -/
def taskOfDesc (d : List Byte) (stubs segs : List (List Byte)) (routines comps : List Byte) (x : Dispatching) : Task :=
  let w (k : Nat) : Nat := numAt d (8 * k) 8
  { desc := d, routines := routines, comps := comps, ctl := BitVec.ofNat 64 (w 0), entry := w 1, codeBase := w 2,
    codeLen := w 3, crec := w 5, windows := (tableOf (d.drop 384) 32 16).map windowOf, extents := [],
    stubs := stubs.map fun e => ⟨numAt e 0 8, numAt e 8 8, numAt e 16 8⟩,
    segs := segs.map fun e =>
      ⟨numAt e 0 8, numAt e 8 8, BitVec.ofNat 32 (numAt e 16 4), BitVec.ofNat 32 (numAt e 20 4), BitVec.ofNat 8 (numAt e 24 1),
        BitVec.ofNat 8 (numAt e 25 1)⟩,
    args := (d.drop 128).take 256, entryId := x.idx, descAddr := x.descAddr, mask := x.mask, base := x.base, tstart := 0,
    attempts := 0, points := 0, seq := 0, rep := .none, evicted := false }

/-- Reads the descriptor and its tables and makes the checks of VERSION and R335. -/
def State.readTask (s : State) (p : PartNo) (x : Dispatching) : Except Stop Task := do
  let d ← s.fetch p x.descAddr 896
  let w (k : Nat) : Nat := numAt d (8 * k) 8
  if bits (w 0) 8 8 ≠ 1 then .error (.refuse ccBADVER 0 0)
  else if badDesc d then .error (.refuse ccBADDESC 0 0)
  else do
    let stubs ← s.fetch p (bits (w 6) 0 48) (24 * bits (w 6) 48 9)
    let segs ← s.fetch p (bits (w 7) 0 48) (32 * bits (w 7) 48 13)
    let routines ← s.fetch p (bits (w 8) 0 48) (72 * bits (w 8) 48 8)
    let comps ← s.fetch p (bits (w 9) 0 48) (136 * bits (w 9) 48 7)
    if badTables (tableOf segs 32 (bits (w 7) 48 13)) (tableOf routines 72 (bits (w 8) 48 8))
        (tableOf comps 136 (bits (w 9) 48 7)) then .error (.refuse ccBADDESC 0 0)
    else
      pure (taskOfDesc d (tableOf stubs 24 (bits (w 6) 48 9)) (tableOf segs 32 (bits (w 7) 48 13)) routines comps x)

/-- What reading the descriptor and its tables does beside the answer: walks and lines pass through the stash (R100). -/
def State.visitTask (p : PartNo) (x : Dispatching) (s : State) : State :=
  let s1 := s.visit p x.descAddr 896
  match s.fetch p x.descAddr 896 with
  | .error _ => s1
  | .ok d =>
    let w (k : Nat) : Nat := numAt d (8 * k) 8
    if bits (w 0) 8 8 ≠ 1 ∨ badDesc d then s1
    else
      [(24 * bits (w 6) 48 9, 6), (32 * bits (w 7) 48 13, 7), (72 * bits (w 8) 48 8, 8), (136 * bits (w 9) 48 7, 9)].foldl
        (fun s r => s.visit p (bits (w r.2) 0 48) r.1) s1

/-! ### The launch (R334, R336) -/

def Task.flag (t : Task) (k : Nat) : Bool := bit t.ctl.toNat k
/-- DOMAIN with an extent of zero. -/
def Task.isEmpty (t : Task) : Bool :=
  let n := t.descWord 32
  bits n 0 21 == 0 || bits n 21 21 == 0 || bits n 42 21 == 0
/-- A dimension of the subcube that is dead, or down, with no detour path. -/
def State.lostDim (s : State) (mask : BitVec 14) : Bool :=
  (bitList 14 mask.toNat).any fun d => (s.link d).state != 1 && !s.hasPath d
/-- EMPTY and the checks of R334. -/
def State.checkLaunch (s : State) (t : Task) : Except Stop Unit :=
  if t.isEmpty then .error (.refuse ccEMPTY 0 0)
  else if t.base &&& t.mask ≠ 0 ∨ s.node &&& ~~~t.mask ≠ t.base then .error (.refuse ccBADLAUNCH 0 0)
  else if t.flag 18 ∧ s.lostDim t.mask then .error (.refuse ccNOPATH 0 0)
  else .ok ()

/-! ### Windows (R88, R330, R348) -/

/-- Two windows that share a byte. -/
def Window.overlaps (a b : Window) : Bool := decide (a.base < b.base + b.len) && decide (b.base < a.base + a.len)

/-- Whether a present window is at fault; `a` is its attribute word, `r` the reserved word after it. -/
def Task.badWindow (t : Task) (w : Nat) : Bool :=
  let x := t.win w
  let a := numAt t.desc (384 + 32 * w + 16) 8
  let r := numAt t.desc (384 + 32 * w + 24) 8
  x.len != 0 &&
    (bits a 5 59 != 0 || r != 0 || decide (6 ≤ bits a 0 3) || x.base % 64 != 0 || x.len % 64 != 0 ||
      decide (2 ^ 47 < x.base + x.len) || (x.lazy && (t.flag 18 || x.attr == .land || x.attr == .spill)) ||
      (x.rebind && x.attr != .output) ||
      (List.range 16).any fun v =>
        let y := t.win v
        v != w && y.len != 0 && x.overlaps y && !(x.attr == .input && y.attr == .input))

/-- R330 and R88, then R348. -/
def Task.checkWindows (t : Task) : Except Stop Unit :=
  match (List.range 16).find? t.badWindow with
  | some w => .error (.refuse ccBADWIN 0 w)
  | none =>
    if t.flag 16 then
      match (List.range 16).find? fun w => (t.win w).len != 0 && (t.win w).lazy with
      | some w => .error (.refuse ccBADWIN 0 w)
      | none =>
        if t.flag 20 ∧ !((List.range 16).any fun w => (t.win w).isInput) then .error (.refuse ccBADWIN 0 16)
        else if (List.range 16).any fun w => (t.win w).len != 0 && (t.win w).attr == .land then
          .error (.refuse ccTRAPPED trPURITY t.entry)
        else .ok ()
    else .ok ()

/-! ### Translation (R90, R93, R94) -/

/-- Adds the pages of [va, stop) of a window, or of the code (16), to an extent table. The first page in walking order that
fails, or that needs a 257th extent, decides (log 75). -/
def State.walkRange (s : State) (p : PartNo) (w : Nat) (rd wr : Bool) (stop : Nat) :
    Nat → Nat → List Extent → Except Stop (List Extent)
  | 0, _, l => .ok l
  | k + 1, va, l =>
    if stop ≤ va then .ok l
    else
      match s.walkPart p va rd wr with
      | .notMapped => .error (.refuse ccFAULT 0 va)
      | .denied => .error (.refuse ccDENIED 0 va)
      | .key => .error (.refuse ccKEY 0 va)
      | .poisoned => .error (.hold va)
      | .ok pa key large =>
        match addPage l w va pa key large with
        | none => .error (.refuse ccEXTENTS 0 va)
        | some l' =>
          let n := if large then 2097152 else 65536
          s.walkRange p w rd wr stop k ((va / n + 1) * n) l'

/-- The extents of an eager window. -/
def State.walkWindow (s : State) (p : PartNo) (t : Task) (l : List Extent) (w : Nat) : Except Stop (List Extent) :=
  let x := t.win w
  if x.len = 0 ∨ x.lazy then .ok l
  else s.walkRange p w x.attr.needs.1 x.attr.needs.2 (x.base + x.len) (x.len / 65536 + 2) x.base l

/-- The extent table: windows in ascending number, then the code. -/
def State.translate (s : State) (p : PartNo) (t : Task) : Except Stop (List Extent) := do
  let l ← (List.range 16).foldlM (s.walkWindow p t) []
  s.walkRange p 16 true false (t.codeBase + t.codeLen) (t.codeLen / 65536 + 2) t.codeBase l

/-- The pages that translation walks, in its order, with the rights it asks for. -/
def Task.pages (t : Task) : List (Nat × Bool × Bool) :=
  (((List.range 16).filter fun w => (t.win w).len != 0 && !(t.win w).lazy).flatMap fun w =>
    (pageStarts (t.win w).base (t.win w).len).map fun a => (a, (t.win w).attr.needs)) ++
    (pageStarts t.codeBase t.codeLen).map fun a => (a, true, false)

/-! ### The start (R27, R218, R305, R350) -/

/-- Installs the routines and complications of the task's tables. -/
def Partition.installTables (t : Task) (x : Partition) : Partition :=
  let rs := tableOf t.routines 72 (t.routines.length / 72)
  let cs := tableOf t.comps 136 (t.comps.length / 136)
  let x1 := rs.foldl (fun x e => x.install (Fin.ofNat 128 (numAt e 0 8)) ((imageWords e 16).map (BitVec.ofNat 32))) x
  { x1 with comps := cs.foldl (fun l e =>
      let n : Fin 64 := Fin.ofNat 64 (numAt e 0 8)
      (n, (imageWords e 32).map (BitVec.ofNat 32)) :: l.filter fun y => y.1 != n) x1.comps }

/-- Zeroes a partition's whole plate share (R111, R350). -/
def State.zeroShare (p : PartNo) (s : State) : State :=
  s.putEverySlab p 0 (s.share p) fun c a => Cells.clear c a (s.share p)

/-- The working state that a missing PURE task finds (R350). -/
def State.clearPure (p : PartNo) (t : Task) (s : State) : State :=
  ((List.range 16).filter fun w => (t.win w).len != 0 && (t.win w).attr == .scratch).foldl
    (fun s w => s.writeMain none 8 (fun line => t.keyAt (line * 128)) ((List.range (t.win w).len).map fun k => (t.phys w ((t.win w).base + k), 0)))
    (s.zeroShare p)

/-- The stream's state at dispatch (R27, R30-R32). -/
def streamAtDispatch (p : PartNo) (t : Task) (seed : DWord) : Stream :=
  { Stream.cleared with
    pc := BitVec.ofNat 48 t.entry, subMask := t.mask, subBase := t.base, seedsnap := seed, det := t.flag 17,
    pure := t.flag 16, exch := t.flag 18, rqsafe := t.flag 19, domain := BitVec.ofNat 64 (t.descWord 32),
    taskid := BitVec.ofNat 64 (taskIdOf p (t.entryId + 1)), task := some t }

/-- A task that is translated waits for the stream with its state set. -/
def State.makeReady (p : PartNo) (t : Task) (seed : DWord) (s : State) : State :=
  ({ s with shadow := s.shadow.set p (some (streamAtDispatch p t seed)) }).onPart p fun x =>
    { x.installTables t with disp := .ready, work := none, heldBars := [], pairing := x.pairing.filter fun r => decide (t.seq ≤ r.seq) }

/-- The record of a task that dispatch ends. -/
def Task.refused (t : Task) (p : PartNo) (code trap detail : Nat) : Record :=
  { code := code, trap := trap, attempts := t.attempts, taskid := taskIdOf p (t.entryId + 1),
    tstart := if t.attempts = 0 then 0 else t.tstart.toNat, flags := 0, points := 0, detail := detail }

/-- Ends the entry in hand with a record. -/
def State.refuseEntry (p : PartNo) (t : Task) (r : Record) (s : State) : State :=
  (s.endEntry p t.entryId t.crec r).onPart p Partition.freed

/-- Holds dispatch at the entry in hand until a poisoned table is rebuilt (R99). -/
def State.holdEntry (p : PartNo) (x : Dispatching) (va : Nat) (s : State) : State :=
  (s.afterWalk p va).onPart p fun t => { t with disp := .translate, work := some x }

/-- What follows the walks of TRANSLATE (R347, R354, R355). -/
def State.mapped (p : PartNo) (x : Dispatching) (t : Task) (seed : DWord) (r : Except Stop (List Extent)) (s : State) : State :=
  match r with
  | .error (.hold va) => s.holdEntry p x va
  | .error (.refuse c tr d) => s.refuseEntry p t (t.refused p c tr d)
  | .ok l =>
    let t1 := { t with extents := l }
    if t.flag 16 then
      match s.repLookup p t1 seed with
      | (s1, .hit e) =>
        (s1.repHit p t1 e).refuseEntry p t1 { t1.refused p ccHIT 0 0 with flags := e.flags.toNat, points := e.points, tstart := 0 }
      | (s1, .missRec key) => (s1.clearPure p t1).makeReady p { t1 with rep := .pending key } seed
      | (s1, .missNoRec key) => (s1.clearPure p t1).makeReady p { t1 with rep := .noRecord key } seed
    else s.makeReady p t1 seed

/-- TRANSLATE (R347). -/
def State.translateTask (p : PartNo) (x : Dispatching) (t : Task) (seed : DWord) (s : State) : State :=
  match t.checkWindows with
  | .error (.hold va) => s.holdEntry p x va
  | .error (.refuse c tr d) => s.refuseEntry p t (t.refused p c tr d)
  | .ok () => (s.walkAll p t.pages).mapped p x t seed (s.translate p t)

/-- The record of an entry whose DOMAIN is empty waits for those of the earlier GRAPH entries, but not for that of the walk that has
queued it (R336; log 37). -/
def State.endEmpty (p : PartNo) (t : Task) (s : State) : State :=
  if (s.pt p).openGraph t.entryId then
    s.onPart p fun x => Partition.freed { x with empties := x.empties ++ [(t.entryId, t.crec)] }
  else s.refuseEntry p t (t.refused p ccEMPTY 0 0)

/-- CREC of a descriptor that may be only partly readable; 1, which is no record's address, where it cannot be read. -/
def State.crecOf (s : State) (p : PartNo) (x : Dispatching) : Nat := (s.vread64 p (x.descAddr + 40)).getD 1

/-- How many EXCHANGE tasks of its JOB a partition has dispatched (R308). -/
def Partition.exchCount (t : Partition) : Nat := (t.exchTasks.find? fun x => x.1 == t.bind.job).elim 0 (·.2)
/-- Counts one more. -/
def Partition.countExch (t : Partition) : Partition :=
  { t with exchTasks := (t.bind.job, t.exchCount + 1) :: t.exchTasks.filter fun x => x.1 != t.bind.job }

/-- CHECK (R334-R336, R346): the snapshot of SEED, TSTART and the EXCHANGE task's number follow the checks. -/
def State.checkTask (p : PartNo) (x : Dispatching) (s : State) : State :=
  let r := s.readTask p x
  let s := s.visitTask p x
  match r with
  | .error (.hold va) => s.holdEntry p x va
  | .error (.refuse c tr d) =>
    let t := { Task.empty with crec := s.crecOf p x, entryId := x.idx }
    s.refuseEntry p t (t.refused p c tr d)
  | .ok t =>
    match s.checkLaunch t with
    | .error (.hold va) => s.holdEntry p x va
    | .error (.refuse c tr d) => if c = ccEMPTY then s.endEmpty p t else s.refuseEntry p t (t.refused p c tr d)
    | .ok () =>
      let t1 := { t with tstart := s.gtime, seq := (s.pt p).exchCount }
      let s1 := if t.flag 18 then s.onPart p Partition.countExch else s
      let seed := (s.pt p).seed
      s1.translateTask p { x with checked := some (t1, seed) } t1 seed

/-- Starts a translated task on the stream (R342, R346); the trap record is cleared (R364). -/
def State.startTask (p : PartNo) (x : Stream) (s : State) : State :=
  ({ s with stream := { x with status := .running }, holder := some p, shadow := s.shadow.set p none, abuf := [],
            trapRecord := Vector.replicate 6 0, divertClock := s.divertClock + 1 }).onPart p fun t =>
    { t with disp := .run, lastHeld := s.divertClock }

/-- Whether a translated task may take the stream now. -/
def State.mayStart (s : State) (p : PartNo) : Bool :=
  s.dispatchable p && s.mayTake p

/-- TASK_ENTRY: dispatch takes the next TASK entry, goes on with the one in hand, or starts the one that is ready. -/
def opTaskEntry (p : PartNo) (s : State) : State :=
  match (s.pt p).disp with
  | .idle =>
    match s.entryOf p (· == 1) with
    | none => s.tryEntry p
    | some (n, ws) =>
      ((s.passEntry p n).checkTask p
        { idx := n, descAddr := ws.getD 1 0, mask := entryMask ws, base := entryBase ws, checked := none }).reconsider
  | .translate =>
    match (s.pt p).work with
    | none => s
    | some x =>
      (match x.checked with
       | none => s.checkTask p x
       | some (t, seed) => s.translateTask p x t seed).reconsider
  | .ready =>
    match s.shadow[p] with
    | none => s
    | some x => if s.mayStart p then s.startTask p x else s
  | _ => s
def execTaskEntry (p : PartNo) (s : State) : Out := .next (opTaskEntry p s)

/-! ### Completion (R337, R356) -/

/-- The steps of tick.die but for TICKNO, once. -/
def State.lastTick (p : PartNo) (s : State) : State :=
  ((s.writeBack p).merge p).waitNext .closed

/-- Whether the last tick of a completing task has been made. -/
def Stream.ticked (x : Stream) : Bool := x.wait == some .closed
/-- Whether the task's packets, E-class instructions and exchange operations are over. -/
def State.allOver (s : State) (p : PartNo) : Bool :=
  !(s.pt p).ownPackets && !(s.matrix.any fun e => e.part == p) && !(s.pt p).exchanging

/-- Whether the next completion step can be taken. -/
def State.mayComplete (s : State) : Bool :=
  s.stream.status == .completing && s.stream.preempt.isNone &&
    (if s.stream.ticked then s.allOver s.part
     else s.stream.wait.isNone && s.accessesDone s.part && !(s.pt s.part).exchanging)

/-- TASK_COMPLETION: the last tick, once what the last group waits for has come; then, with everything over, the Repeater's recording and the record with OK. -/
def opTaskCompletion (s : State) : State :=
  if s.mayComplete then
    let p := s.part
    if s.stream.ticked then (s.repRecord p s.stream.theTask s.stream.flags).endTask p ccOK 0 0 else s.lastTick p
  else s
def execTaskCompletion (s : State) : Out := .next (opTaskCompletion s)

end Sys2Proof.Machine
end

