-- ==== Sys2Proof/Machine/Bind.lean ====
section
/-!
DEFINITION. The slot table as the Regulator writes it: the checks of a record, binding and unbinding (R121, R122, R341,
R344, R392).
-/
namespace Sys2Proof.Machine

/-! ### The checks of a record -/

/-- Whether the plate share of a record is legal: 1-64 units that end at or below unit 64 (R106, R341). -/
def shareOk (r : BindRecord) : Bool := decide (1 ≤ r.plates) && decide (r.pbase + r.plates ≤ 64)

/-- Whether the shares of two records are apart. -/
def sharesApart (a b : BindRecord) : Bool := decide (a.pbase + a.plates ≤ b.pbase) || decide (b.pbase + b.plates ≤ a.pbase)

/-- A record without the fields in which the records of one partition may differ (R341). -/
def sameBinding (a b : BindRecord) : Bool :=
  { a with prio := 0, start := 0, period := 0, quantum := 0 } == { b with prio := 0, start := 0, period := 0, quantum := 0 }

/-- The quantum rule of a gang record (R344). -/
def gangQuantumOk (r : BindRecord) : Bool :=
  (r.quantum == 0 || decide (20000 ≤ r.quantum.toNat)) && (r.quantum != 0 || r.period == 0)

/-- Whether some window of record a opens less than L after some window of record b closes (R344). -/
def opensTooSoon (a b : BindRecord) (lead : Nat) : Bool :=
  let d : Int := (a.start.toNat : Int) - b.start.toNat - b.quantum.toNat
  let pa : Int := a.period.toNat
  let pb : Int := b.period.toNat
  b.quantum != 0 &&
    (if pa = 0 ∧ pb = 0 then decide (0 ≤ d) && decide (d < lead)
     else if pa = 0 then decide (0 ≤ d) && decide (d % pb < lead)
     else if pb = 0 then decide ((if d < 0 then d % pa else d) < lead)
     else decide (d % (Nat.gcd a.period.toNat b.period.toNat : Int) < lead))

/-- L of a gang record by the slot table: 4 µs plus the largest DRAIN of another bound partition. -/
def leadOf (l : List BindRecord) (r : BindRecord) : Nat :=
  4000 + (l.filter fun x => x.part != r.part).foldl (fun m x => max m x.drainNs) 0

/-- Whether the gang records of a slot table meet the spacing rule. -/
def gangsSpaced (l : List BindRecord) : Bool :=
  l.all fun a => !a.gang || l.all fun b => !b.gang || b.part == a.part || !opensTooSoon a b (leadOf l a)

/-- Whether a queue header is as the binding needs it (R121). -/
def State.ringOk (s : State) (p : PartNo) (root : DWord) (tenant : BitVec 12) (hdr : Nat) : Bool :=
  let t : State := s.onPart p fun x => { x with bind := { x.bind with root := root, tenant := tenant } }
  match t.queueAt p hdr with
  | none => false
  | some v => decide (16 ≤ v.size) && v.ring % (64 * v.size) == 0

/-- The nine queue headers of a record. -/
def headersOf (r : BindRecord) : List Nat := ((List.range 8).map fun c => r.cqhdr.toNat + 64 * c) ++ [r.tqhdr.toNat]

/-- Whether a partition is bound as a record says, but for the fields in which the records of one partition differ. -/
def State.boundAs (s : State) (r : BindRecord) : Bool :=
  (s.pt r.part).bound && !(s.pt r.part).unbinding && sameBinding (s.pt r.part).bind r

/-- Whether the Regulator accepts a slot table with a new valid record at an index. R91 aligns ROOT to 32 KiB and gives a
misaligned one no outcome: it is taken as it stands (log 79), and so is a header that is not 64-byte-aligned (R121, log 89). -/
def State.acceptsRecord (s : State) (k : Fin 16) (r : BindRecord) : Bool :=
  let others := (s.records.filter fun x => x.1 != k && x.2.valid).map (·.2)
  s.stage == 4 && shareOk r && others.all (fun x => if x.part = r.part then sameBinding x r else sharesApart x r) &&
    (!r.gang || gangQuantumOk r) && gangsSpaced (r :: others) &&
    (s.boundAs r || (headersOf r).all (s.ringOk r.part r.root r.tenant))

/-! ### Binding (R347) -/

/-- Sets up a queue: the header's other fields and every slot take their reset values (R121, R122). -/
def State.setUpQueue (p : PartNo) (hdr : Nat) (s : State) : State :=
  match s.queueAt p hdr with
  | none => s
  | some v =>
    let s := s.visit p hdr 24
    let w := v.ring + Nat.log2 v.size * 2 ^ 48
    let s1 := s.vwrite p hdr (toBytes 8 0 ++ toBytes 8 0 ++ toBytes 8 w ++ List.replicate 40 0)
    (List.range v.size).foldl (fun s n => s.vwrite p (v.slot n) (toBytes 8 (2 ^ 63) ++ List.replicate 56 0)) s1

/-- The lowest-numbered valid record of a partition. -/
def State.recordOf (s : State) (p : PartNo) : Option BindRecord :=
  (s.records.find? fun x => x.2.valid && x.2.part == p).map (·.2)

/-- Whether the share of a record is free: every partition still bound to other units (R341). -/
def State.shareFree (s : State) (r : BindRecord) : Bool :=
  (List.finRange 4).all fun p => !(s.pt p).bound || sharesApart (s.pt p).bind r

/-- The first valid record of a partition: share zeroed, stores empty, queues set up. -/
def State.bindFirst (p : PartNo) (r : BindRecord) (s : State) : State :=
  let s1 := (s.onPart p fun _ => { Partition.cleared with bound := true, bind := r, seed := r.seed, disp := .idle }).zeroShare p
  (headersOf r).foldl (fun s h => s.setUpQueue p h) s1

/-- A partition loses its binding: a running or parked task is killed first, with KILLED (R341). What waits in its queues, postings and
claimed packets, goes with it and no sender is told (log 87). -/
def State.unbind (p : PartNo) (s : State) : State :=
  match (s.pt p).disp with
  | .run | .drain | .parked => (s.beginAbort p (.kill ccKILLED 0 0)).onPart p fun t => { t with unbinding := true }
  | .ending => s.onPart p fun t => { t with unbinding := true }
  | _ =>
    let rep := (s.taskOf p).elim RepOutcome.none (·.rep)
    { s.abandon p rep with shadow := s.shadow.set p none }.onPart p fun _ => Partition.cleared

/-- A bound partition takes its lowest-numbered record, or loses its binding where the slot table no longer names it, or binds
it otherwise: a binding that changes is an unbinding and a first binding (log 80). -/
def State.rebindOld (s : State) (p : PartNo) : State :=
  if (s.pt p).bound && !(s.pt p).unbinding then
    match s.recordOf p with
    | none => s.unbind p
    | some r => if s.boundAs r then s.onPart p fun t => { t with bind := r } else s.unbind p
  else s

/-- The record that a partition is now to be bound by: it is unbound, a valid record names it and the share is free. -/
def State.awaited (s : State) (p : PartNo) : Option BindRecord :=
  if (s.pt p).bound then none else (s.recordOf p).filter s.shareFree

/-- Binds a partition that waits to be bound. -/
def State.bindAwaited (s : State) (p : PartNo) : State := (s.awaited p).elim s fun r => s.bindFirst p r

/-- Whether the window for which a partition was made ready is still to come (R344). -/
def State.gangStillDue (s : State) (g : PartNo × Nat) : Bool :=
  s.records.any fun x => x.2.part == g.1 && s.gangOpening x.2 == some g.2

/-- The partitions follow the slot table: bindings end first, so that the shares of bound partitions stay apart (R341). -/
def State.rebindAll (s : State) : State :=
  let s := (List.finRange 4).foldl State.bindAwaited ((List.finRange 4).foldl State.rebindOld s)
  if s.gangReady.any fun g => !s.gangStillDue g then { s with gangReady := none } else s

/-- The highest version of a partner is reported where no major is common (R386, R392). -/
def State.versionEvent (dim : Nat) (version : BitVec 16) (s : State) : State := s.event 0x000B (dim + version.toNat * 2 ^ 16)

/-- BIND_PARTITION: the Regulator writes one record of the slot table. -/
def opBindPartition (o : BindMsg) (s : State) : State :=
  let r := o.record
  let put (s : State) : State := { s with slotTable := s.slotTable.set o.index r }
  if r.valid = false then (put s).rebindAll
  else if bits r.version.toNat 8 8 ≠ 1 then s.versionEvent 0xF r.version
  else if bits r.hpver.toNat 8 8 ≠ 1 then s.versionEvent 0xF r.hpver
  else if s.acceptsRecord o.index r then (put s).rebindAll
  else s
def execBindPartition (o : BindMsg) (s : State) : Out := .next (opBindPartition o s)

/-- UNBIND_PARTITION: every record of the partition is cleared. -/
def opUnbindPartition (p : PartNo) (s : State) : State :=
  { s with slotTable := s.slotTable.map fun (r : BindRecord) => if r.valid && r.part == p then BindRecord.cleared else r }.rebindAll
def execUnbindPartition (p : PartNo) (s : State) : Out := .next (opUnbindPartition p s)

end Sys2Proof.Machine
end

