-- ==== Sys2Proof/Machine/Exchange.lean ====
section
/-!
DEFINITION. Slot 7, class X: the exchange engine (R286-R308).
-/
namespace Sys2Proof

def XKind.combines : XKind → Bool
  | .xcb | .sibc | .shfc => true
  | _ => false
def XKind.shifts : XKind → Bool
  | .shf | .shfc => true
  | _ => false

end Sys2Proof

namespace Sys2Proof.Machine

/-! ### Registers of a slot (R288) -/

/-- The engine registers XADDR, XLEN, XCTL and XSTS of slot K. -/
def xReg (k : Fin 4) (j : Nat) : Fin 64 := Fin.ofNat 64 (32 + 4 * k.val + j)
/-- XSTS after a change of its fields: BUSY and WAITP. -/
def xBusy (busy waitp : Bool) (v : DWord) : DWord :=
  BitVec.ofNat 64 (setBits v.toNat 0 2 (b2n busy 0 + b2n waitp 1))
/-- XSTS after a completion. -/
def xDone (code : Nat) (fl : Flags) (v : DWord) : DWord :=
  BitVec.ofNat 64 (code * 2 ^ 4 + fl.toNat * 2 ^ 8 + (bits v.toNat 16 32 + 1) % 2 ^ 32 * 2 ^ 16)
/-- Changes XSTS of a slot. -/
def Stream.onXsts (k : Fin 4) (f : DWord → DWord) (x : Stream) : Stream :=
  x.setE (xReg k 3) (f (x.ereg (xReg k 3)))

/-- The geometry and control that an operation copies at issue (R288, R289). -/
structure XGeo where
  snd : Int
  rcv : Int
  len : Nat
  slabs : BitVec 16
  bar : Fin 64
  baren : Bool
  ty : Fin 8
  op : Nat
  cnum : Fin 64
  deriving DecidableEq, Repr

def Stream.xgeo (x : Stream) (k : Fin 4) (b : DWord) : XGeo :=
  let a := (x.ereg (xReg k 0)).toNat
  let l := (x.ereg (xReg k 1)).toNat
  let c := (x.ereg (xReg k 2)).toNat
  { snd := (bits a 0 22 : Nat) + signedOf 32 (bits b.toNat 0 32), rcv := (bits a 32 22 : Nat) + signedOf 32 (bits b.toNat 32 32),
    len := bits l 0 22, slabs := BitVec.ofNat 16 (bits l 32 16), bar := Fin.ofNat 64 (bits c 0 6), baren := bit c 6,
    ty := Fin.ofNat 8 (bits c 8 3), op := bits c 13 3, cnum := Fin.ofNat 64 (bits c 16 6) }

/-- The length of a region: sums and error terms under OP 3. -/
def XGeo.region (g : XGeo) (kind : XKind) : Nat := if kind.combines ∧ g.op = 3 then 2 * g.len else g.len
/-- R301. -/
def zeroCount (kind : XKind) (g : XGeo) (a : DWord) : Bool := g.len == 0 || g.slabs == 0 || (kind.shifts && a == 0)

/-- The image that is current for a complication (R305, R306). -/
def Partition.comp (t : Partition) (n : Fin 64) : Option (List Word) := (t.comps.find? fun c => c.1 == n).map (·.2)
/-- The bytes of an image of 32-bit words. -/
def imageBytes (l : List Word) : List Byte := l.flatMap fun w => toBytes 4 w.toNat

/-! ### The checks of R293 -/

/-- XDIM's condition. -/
def State.xBadDim (s : State) (kind : XKind) (a : DWord) (b : Nat) : Bool :=
  let o := s.stream.order
  if kind.shifts then decide (2 ^ o ≤ a.toNat)
  else decide (o ≤ a.toNat) || ((kind == XKind.sib || kind == XKind.sibc) && decide (o ≤ b))

/-- Steps 3 to 5. INFO of a PLATE trap is the base of the first region that fails, the send region before the other (log 98). -/
def State.xShapeTrap (s : State) (kind : XKind) (g : XGeo) : Option Trap :=
  let n := g.region kind
  if kind.combines ∧ (!([0, 1, 3, 4].contains g.ty.val) ∨ 5 ≤ g.op ∨ (g.op = 3 ∧ g.ty.val ≠ 0) ∨
      (g.op = 4 ∧ ((s.pt s.part).comp g.cnum).isNone)) then some (xTrap trXSHAPE)
  else if g.snd ≠ g.rcv ∧ g.snd < g.rcv + n ∧ g.rcv < g.snd + n then some (xTrap trXSHAPE)
  else if g.snd % 4 ≠ 0 ∨ g.rcv % 4 ≠ 0 ∨ g.len % 4 ≠ 0 then some (xTrap trALIGN)
  else if s.inShare s.part g.snd n = false then some { xTrap trPLATE with info := lowBits 64 g.snd }
  else if s.inShare s.part g.rcv n = false then some { xTrap trPLATE with info := lowBits 64 g.rcv }
  else none

/-- The checks in order. -/
def State.checkX (s : State) (kind : XKind) (g : XGeo) (a : DWord) (b : Nat) : Option Trap :=
  if s.stream.pure then some (xTrap trPURITY)
  else if s.inStub then some (xTrap trSTUB)
  else if s.stream.exch = false ∨ s.xBadDim kind a b then some (xTrap trXDIM)
  else if zeroCount kind g a then none
  else s.xShapeTrap kind g

/-! ### Partners (R287, R296) -/

def gray (p : Nat) : Nat := Nat.xor p (p / 2)
/-- The inverse of the Gray code over 14 bits. -/
def ginv (g : Nat) : Nat := (List.range 14).foldl (fun v k => Nat.xor v (g / 2 ^ k)) 0

/-- A rank with the bits under a mask replaced. -/
def ringRank (mask rank g : Nat) : Nat :=
  ((bitList 14 mask).mapIdx fun j d => (j, d)).foldl (fun r x => setBits r x.2 1 (bits g x.1 1)) rank

/-- The ranks of successor and predecessor along the ring. -/
def ringPair (mask rank : Nat) : Nat × Nat :=
  let l := bitList 14 mask
  let m := 2 ^ l.length
  let g := (l.mapIdx fun j d => if bit rank d then 2 ^ j else 0).foldl (· + ·) 0
  let p := ginv g % m
  (ringRank mask rank (gray ((p + 1) % m)), ringRank mask rank (gray ((p + m - 1) % m)))

/-- The pair with a rank one logical dimension away. -/
def State.pairWith (s : State) (rank : Nat) : XPair :=
  let d := physDim s.stream.subMask ((bitList 14 (Nat.xor rank s.rank)).headD 0)
  { node := s.node ^^^ BitVec.ofNat 14 (2 ^ d), dim := d, state := .awaited }

/-! ### Issue (R290-R296) -/

/-- The chunks of an operation, slab by slab. -/
def xChunks (g : XGeo) : List (Fin 16 × Nat) :=
  ((List.finRange 16).filter fun k => g.slabs.getLsbD k.val).flatMap fun k =>
    (List.range ((g.len + 255) / 256)).map fun c => (k, c)

/-- What one of the six instructions asks for: its pairs, and whether it sends and receives. -/
structure XRole where
  ctr : PairCounter
  dest : XPair
  frm : XPair
  sends : Bool
  receives : Bool
  deriving DecidableEq, Repr

/-- The roles of R294-R296; `a` is the dimension or the ring mask. -/
def State.xRole (s : State) (kind : XKind) (a : DWord) (b : Nat) (back : Bool) : XRole :=
  if kind.shifts then
    let r := ringPair a.toNat s.rank
    { ctr := .shift, dest := s.pairWith (if back then r.2 else r.1), frm := s.pairWith (if back then r.1 else r.2),
      sends := true, receives := true }
  else
    let other := Nat.xor s.rank (2 ^ a.toNat)
    let pr := s.pairWith other
    let sib := kind == XKind.sib || kind == XKind.sibc
    { ctr := .dim (Fin.ofNat 14 a.toNat), dest := pr, frm := pr, sends := !sib || bit s.rank b, receives := !sib || bit other b }

def Stream.pairNumber (x : Stream) : PairCounter → Nat
  | .dim d => x.px[d]
  | .shift => x.ps
def Stream.takeNumber (c : PairCounter) (x : Stream) : Stream :=
  match c with
  | .dim d => { x with px := x.px.set d (x.px[d] + 1) }
  | .shift => { x with ps := x.ps + 1 }

/-- The signature of R291; fields that a kind does not use are zero. The version of a complication stands in it, so that partners of
another version do not agree (R305, log 97). -/
def State.xSignature (s : State) (kind : XKind) (g : XGeo) (a : DWord) (b : Nat) (back : Bool) (cal : Option Calibre) :
    Signature :=
  let c := kind.combines
  let comp := c && g.op == 4
  { kind := kind, len := g.len, slabs := g.slabs, ety := if c then g.ty.val else 0, op := if c then g.op else 0,
    cal := if c then cal.elim 0 Calibre.code else 0,
    crc := if comp then crc32c (imageBytes (((s.pt s.part).comp g.cnum).getD [])) else 0,
    bit := if kind = .sib ∨ kind = .sibc then b else 0, mask := if kind.shifts then a else 0,
    back := kind.shifts && back, version := if comp then 0x0100 else 0 }

/-- The operation that an instruction puts into its slot. -/
def State.xOp (s : State) (kind : XKind) (g : XGeo) (a : DWord) (b : Nat) (back : Bool) (cal : Option Calibre) : XOp :=
  let r := s.xRole kind a b back
  let low := decide (s.node.toNat < r.frm.node.toNat)
  { kind := kind, ctr := r.ctr, num := s.stream.pairNumber r.ctr, sig := s.xSignature kind g a b back cal, snd := g.snd.toNat,
    rcv := g.rcv.toNat, len := g.len, slabs := g.slabs, ty := g.ty, op := g.op, cal := cal, cnum := g.cnum.val,
    image := ((s.pt s.part).comp g.cnum).getD [], sendTo := some r.dest, recvFrom := some r.frm, selfLow := low,
    lowNode := if low then s.node else r.frm.node, toSend := if r.sends then xChunks g else [],
    toRecv := if r.receives then xChunks g else [],
    sendRows := [], ownRows := [], recvBytes := [], bar := g.bar, baren := g.baren, job := (s.pt s.part).bind.job,
    seq := s.stream.theTask.seq, flags := flNone }

/-! ### Pairing (R291, R308) -/

/-- Whether a READY is the counterpart of an operation from some node. -/
def XOp.meets (o : XOp) (r : Ready) : Bool := r.ctr == o.ctr && r.num == o.num && r.seq == o.seq
/-- A pair judged by a READY. -/
def XPair.judge (p : XPair) (ok : Bool) (r : Ready) : XPair :=
  if p.state = .awaited ∧ p.node = r.src then { p with state := if ok then .matched else .mismatched } else p
/-- Whether a pair awaits the node of a READY. -/
def XPair.wants (p : XPair) (r : Ready) : Bool := p.state == .awaited && p.node == r.src

/-- An operation judged by a READY: on a mismatched pair nothing is sent and nothing is written. -/
def XOp.judge (o : XOp) (r : Ready) : XOp :=
  let ok := o.sig == r.sig
  let snd := o.sendTo.map fun p => p.judge ok r
  let frm := o.recvFrom.map fun p => p.judge ok r
  { o with sendTo := snd, recvFrom := frm,
           toSend := if snd.any fun p => p.state == .mismatched then [] else o.toSend,
           toRecv := if frm.any fun p => p.state == .mismatched then [] else o.toRecv }

/-- Whether an operation awaits a READY. -/
def XOp.awaits (o : XOp) (r : Ready) : Bool := o.meets r && ((o.sendTo.any fun p => p.wants r) || (o.recvFrom.any fun p => p.wants r))
/-- Whether a pair of the operation is still unmatched (XSTS.WAITP). -/
def XOp.waiting (o : XOp) : Bool :=
  (o.sendTo.any fun p => p.state == .awaited) || (o.recvFrom.any fun p => p.state == .awaited)

/-- Judges the operation of a slot by every READY held for it, and removes those from the table. -/
def State.settleSlot (p : PartNo) (s : State) (k : Fin 4) : State :=
  match (s.pt p).xslots[k] with
  | none => s
  | some o =>
    let mine := (s.pt p).pairing.filter o.awaits
    if mine.isEmpty then s
    else
      let o' := mine.foldl XOp.judge o
      (s.onPart p fun t =>
        { t with xslots := t.xslots.set k (some o'), pairing := t.pairing.filter fun r => !o.awaits r }).onCtx p
          (Stream.onXsts k (xBusy true o'.waiting))

/-- Matches the table's entries with the operations in the slots, x0 first. -/
def State.settlePairs (p : PartNo) (s : State) : State := (List.finRange 4).foldl (State.settleSlot p) s

/-- A READY enters the pairing table of its job's partition (R308); the table holds 64. -/
def State.takeReady (r : Ready) (s : State) : State :=
  match s.partOfJob r.job with
  | none => s.event 0x000D r.job.toNat
  | some p =>
    let cur := (s.taskOf p).elim 0 (·.seq)
    if r.seq < cur ∨ 64 ≤ (s.pt p).pairing.length then s
    else (s.onPart p fun t => { t with pairing := t.pairing ++ [r] }).settlePairs p

/-- The six instructions at issue. -/
def State.issueX (k : Fin 4) (kind : XKind) (a b : DWord) (bb : Nat) (back : Bool) (cal : Option Calibre) (s : State) :
    State :=
  let p := s.part
  if (s.pt p).xslots[k].isSome then s.holdFor .stall
  else
    let g := s.stream.xgeo k b
    match s.checkX kind g a bb with
    | some t => s.takeTrap t
    | none =>
      let s0 := s.closeSeg
      if zeroCount kind g a then
        let s1 := s0.onStream (Stream.onXsts k (xDone 3 flNone))
        if g.baren then s1.arriveAt p g.bar else s1
      else
        let o := s0.xOp kind g a bb back cal
        let s1 := (s0.onStream fun x => (x.takeNumber o.ctr).onXsts k (xBusy true true)).onPart p fun t =>
          { t with xslots := t.xslots.set k (some o) }
        let r : Ready := { job := o.job, seq := o.seq, ctr := o.ctr, num := o.num, sig := o.sig, src := s.node }
        let dims := ((o.sendTo.toList ++ o.recvFrom.toList).map (·.dim)).eraseDups
        (dims.foldl (fun s d => s.sendPair d (.ready r)) s1).settlePairs p

def opXch (o : XchOp) (s : State) : State :=
  s.cword true o.hold o.sa o.sb fun a b s => s.issueX o.k .xch a b 0 false none
def execXch (o : XchOp) (s : State) : Out := .next (opXch o s)
def opXcb (o : XcbOp) (s : State) : State :=
  s.cword true o.hold o.sa o.sb fun a b s => s.issueX o.k .xcb a b 0 false (some o.cal)
def execXcb (o : XcbOp) (s : State) : Out := .next (opXcb o s)
def opSib (o : SibOp) (s : State) : State :=
  s.cword true o.hold o.sa o.sb fun a b s => s.issueX o.k .sib a b o.b.val false none
def execSib (o : SibOp) (s : State) : Out := .next (opSib o s)
def opSibc (o : SibcOp) (s : State) : State :=
  s.cword true o.hold o.sa o.sb fun a b s => s.issueX o.k .sibc a b o.b.val false (some o.cal)
def execSibc (o : SibcOp) (s : State) : Out := .next (opSibc o s)
def opShf (o : ShfOp) (s : State) : State :=
  s.cword true o.hold o.sa o.sb fun a b s => s.issueX o.k .shf a b 0 o.back none
def execShf (o : ShfOp) (s : State) : Out := .next (opShf o s)
def opShfc (o : ShfcOp) (s : State) : State :=
  s.cword true o.hold o.sa o.sb fun a b s => s.issueX o.k .shfc a b 0 o.back (some o.cal)
def execShfc (o : ShfcOp) (s : State) : Out := .next (opShfc o s)

/-! ### Waiting and reading (R303, R304, R306) -/

/-- XWAIT. -/
def opXwait (mask : BitVec 4) (s : State) : State :=
  if (List.finRange 4).any fun k => mask.getLsbD k.val && (s.pt s.part).xslots[k].isSome then s.waitHere else s.spoil
def execXwait (mask : BitVec 4) (s : State) : Out := .next (opXwait mask s)

/-- XSTAT. -/
def opXstat (o : XqOp) (s : State) : State :=
  s.cword true o.hold 0 o.sb fun _ b s =>
    let n := b.toNat
    s.setS o.sd (BitVec.ofNat 64
      (if n < s.stream.order then s.stream.px.toList.getD n 0 else if n = 14 then s.stream.ps else 0))
def execXstat (o : XqOp) (s : State) : Out := .next (opXstat o s)

/-- XCINS: the image becomes current at the partition's next merge (R306). -/
def opXcins (o : C2Op) (s : State) : State :=
  s.cword true o.hold o.sa o.sb fun a b s =>
    let off := b.toInt
    if s.stream.pure then s.takeTrap (xTrap trPURITY)
    else if off % 128 ≠ 0 then s.takeTrap (xTrap trALIGN)
    else if s.inShare s.part off 128 = false then s.takeTrap { xTrap trPLATE with info := b.toNat }
    else
      let words := toWords 4 (s.plateBytes s.part 0 off.toNat 128) 32
      if s.platesBad s.part 0 off.toNat 128 then s.takeTrap (xTrap trUNCORR)
      else if words.all compWordOk then
        s.spoil.onPart s.part fun t =>
          { t with compsNext := t.compsNext ++ [(Fin.ofNat 64 a.toNat, words.map (BitVec.ofNat 32))] }
      else s.takeTrap (xTrap trILLEGAL)
def execXcins (o : C2Op) (s : State) : Out := .next (opXcins o s)

/-! ### The engine's steps (R294-R299) -/

/-- Whether the pair that an operation sends on, or receives on, has matched. -/
def XOp.mayMove (p : Option XPair) : Bool := p.any fun p => p.state == .matched

/-- Rows of 256 bytes of a share that an operation has read, with slab and row number: each is read as a whole (R300). -/
abbrev RowCache := List (Nat × Nat × List Byte)
/-- Reads the rows that hold n bytes of a slab from an offset on, unless they have been read. -/
def State.readRows (s : State) (p : PartNo) (slab o n : Nat) (c : RowCache) : RowCache :=
  (if n = 0 then [] else (List.range ((o + n - 1) / 256 - o / 256 + 1)).map (o / 256 + ·)).foldl (fun c r =>
    if c.any fun x => x.1 == slab && x.2.1 == r then c else (slab, r, s.plateBytes p slab (256 * r) 256) :: c) c
/-- Bytes of rows that have been read. -/
def RowCache.bytes (c : RowCache) (slab o n : Nat) : List Byte :=
  (List.range n).map fun k =>
    ((c.find? fun x => x.1 == slab && x.2.1 == (o + k) / 256).map fun x => x.2.2.getD ((o + k) % 256) 0).getD 0
/-- Bytes of chunk c of a region. -/
def chunkLen (len c : Nat) : Nat := min 256 (len - 256 * c)

/-- An uncorrectable plate word read for a partition's operation: the task whose operation it is takes UNCORR, and as no segment
can be open it is aborted (R307, R372). For a parked partition no trap is taken, and its task aborts alike (log 61). -/
def State.failExchange (p : PartNo) (s : State) : State :=
  if s.holder = some p ∧ s.stream.live then
    (s.takeTrap { num := trUNCORR, slot := pcSlot s.stream.pc }).abortUncorr p
  else s.abortUncorr p

/-- EXCHANGE_SEND: the next chunk leaves (R294), unless the replay buffer of its pair is full (R271). -/
def opExchangeSend (o : SlotId) (s : State) : State :=
  match (s.pt o.part).xslots[o.k] with
  | none => s
  | some x =>
    match x.sendTo, x.toSend with
    | some pr, (slab, c) :: rest =>
      if pr.state = .matched ∧ s.pairFull pr.dim = false then
        let n := chunkLen x.len c
        let a := x.snd + 256 * c
        let e := if x.kind.combines ∧ x.op = 3 then n else 0
        if s.platesBad o.part slab.val a n || s.platesBad o.part slab.val (a + x.len) e then s.failExchange o.part
        else
          let rows := s.readRows o.part slab.val (a + x.len) e (s.readRows o.part slab.val a n x.sendRows)
          let k : Chunk :=
            { job := x.job, seq := x.seq, ctr := x.ctr, num := x.num, src := s.node, slab := slab, index := c,
              bytes := RowCache.bytes rows slab.val a n, errBytes := RowCache.bytes rows slab.val (a + x.len) e }
          (s.sendPair pr.dim (.chunk k)).onPart o.part fun t =>
            { t with xslots := t.xslots.set o.k (some { x with toSend := rest, sendRows := rows }) }
      else s
    | _, _ => s
def execExchangeSend (o : SlotId) (s : State) : Out := .next (opExchangeSend o s)

/-- Lane k of a run of bytes; a lane outside the run is a free value. -/
def laneOf (free side : Nat) (l : List Byte) (k : Nat) : Word :=
  if 4 * k + 4 ≤ l.length then BitVec.ofNat 32 (ofBytes ((l.drop (4 * k)).take 4)) else Config.freeLane free (64 * side + k)

/-- The bytes of lanes, of which some are not written. -/
def laneBytes (l : List (Option Word)) : List (Option Byte) :=
  l.flatMap fun w => match w with
    | some w => (toBytes 4 w.toNat).map some
    | none => List.replicate 4 none

/-- combine(x, y) of a chunk: the result, the error terms, the flags (R297, R298, R305). -/
def combineChunk (o : XOp) (free : Nat) (slab : Fin 16) (c : Nat) (x xe y ye : List Byte) :
    List (Option Byte) × List (Option Byte) × Flags :=
  let n := x.length / 4
  let ftz := o.cal.elim false calFtz
  let l (b : List Byte) (k : Nat) : Nat := (laneOf free 0 b k).toNat
  if o.op = 3 then
    let r := (List.range n).map fun k => twoSum ftz (l x k) (l xe k) (l y k) (l ye k)
    (r.flatMap fun t => (toBytes 4 t.1).map some, r.flatMap fun t => (toBytes 4 t.2.1).map some, orFlags (r.map (·.2.2)))
  else if o.op = 4 then
    let r := runComp o.image (compDraw o.cnum o.num o.lowNode.toNat slab.val c) (laneOf free 0 x) (laneOf free 1 y) n
    (laneBytes r.1, [], r.2)
  else
    let r := (List.range n).map fun k => combineLane o.ty.val o.op ftz (laneOf free 0 x k) (laneOf free 0 y k)
    (laneBytes (r.map fun x => some x.1), [], orFlags (r.map (·.2)))

/-- Whether an operation can take an arriving chunk: its pair has matched, the chunk is one it awaits, and over identical
regions its own chunk has been sent (R294). -/
def XOp.takes (o : XOp) (c : Chunk) : Bool :=
  c.ctr == o.ctr && c.num == o.num && c.seq == o.seq && (o.recvFrom.any fun p => p.state == .matched && p.node == c.src) &&
    o.toRecv.contains (c.slab, c.index) && !(o.snd == o.rcv && o.toSend.contains (c.slab, c.index))

/-- The first arrival of a partition that an operation of it can take, x0 first. -/
def Partition.nextArrival (t : Partition) : Option (Fin 4 × XOp × Chunk) :=
  (List.finRange 4).findSome? fun k =>
    match t.xslots[k] with
    | none => none
    | some o => (t.arrivals.find? o.takes).map fun c => (k, o, c)

/-- Bytes of the receive region that lie in a row. -/
def XOp.inRow (o : XOp) (row : Nat) : Nat :=
  let n := if o.kind.combines ∧ o.op = 3 then 2 * o.len else o.len
  min (256 * row + 256) (o.rcv + n) - max (256 * row) o.rcv
/-- The rows of a slab whose bytes have all come: each is written as a whole (R300). -/
def XOp.fullRows (o : XOp) (slab : Nat) : List Nat :=
  ((((o.recvBytes.filter fun x => x.1 == slab).map fun x => x.2.1 / 256)).eraseDups).filter fun r =>
    (o.recvBytes.filter fun x => x.1 == slab && x.2.1 / 256 == r).length == o.inRow r

/-- Writes or combines a chunk into the receive region by way of landing rows, row by row. -/
def State.takeChunk (p : PartNo) (k : Fin 4) (o : XOp) (c : Chunk) (s : State) : State :=
  let dim := o.recvFrom.elim 0 (·.dim)
  let n := chunkLen o.len c.index
  let a := o.rcv + 256 * c.index
  let own := if o.kind.combines then n else 0
  let ownE := if o.kind.combines ∧ o.op = 3 then n else 0
  if s.platesBad p c.slab.val a own || s.platesBad p c.slab.val (a + o.len) ownE then s.failExchange p
  else
    let rows := s.readRows p c.slab.val (a + o.len) ownE (s.readRows p c.slab.val a own o.ownRows)
    let mine := RowCache.bytes rows c.slab.val a own
    let mineE := RowCache.bytes rows c.slab.val (a + o.len) ownE
    let r := if o.kind.combines then
        (if o.selfLow then combineChunk o s.free c.slab c.index mine mineE c.bytes c.errBytes
          else combineChunk o s.free c.slab c.index c.bytes c.errBytes mine mineE)
      else ((c.bytes.take n).map some, [], flNone)
    let at' (base : Nat) (l : List (Option Byte)) : List (Nat × Nat × Option Byte) :=
      l.mapIdx fun j b => (c.slab.val, base + j, b)
    let o1 := { o with toRecv := o.toRecv.erase (c.slab, c.index), flags := o.flags ||| r.2.2, ownRows := rows,
                       recvBytes := o.recvBytes ++ at' a r.1 ++ at' (a + o.len) r.2.1 }
    let full := o1.fullRows c.slab.val
    let goes (x : Nat × Nat × Option Byte) : Bool := x.1 == c.slab.val && full.contains (x.2.1 / 256)
    let items := full.map fun row => RowItem.mk (.exchange (Fin.ofNat 14 dim)) k p c.slab
      ((o1.recvBytes.filter fun x => x.1 == c.slab.val && x.2.1 / 256 == row).filterMap fun x => x.2.2.map fun b => (x.2.1, b))
    { s with free := s.free + 1, rowsWaiting := s.rowsWaiting ++ items }.onPart p fun t =>
      { t with arrivals := t.arrivals.erase c,
               xslots := t.xslots.set k (some { o1 with recvBytes := o1.recvBytes.filter fun x => !goes x }) }

/-- EXCHANGE_CHUNK_ARRIVE. -/
def opExchangeChunkArrive (s : State) : State :=
  match (List.finRange 4).findSome? fun p => ((s.pt p).nextArrival).map fun x => (p, x) with
  | none => s
  | some (p, k, o, c) => s.takeChunk p k o c
def execExchangeChunkArrive (s : State) : Out := .next (opExchangeChunkArrive s)

/-- Whether every byte has been read and written (R299). -/
def State.xFinished (s : State) (p : PartNo) (o : XOp) : Bool :=
  !o.waiting && o.toSend.isEmpty && o.toRecv.isEmpty &&
    !(s.flowBusy (.exchange (Fin.ofNat 14 (o.recvFrom.elim 0 (·.dim)))) p)

/-- EXCHANGE_COMPLETE: XSTS, FLAGS, the barrier (R299, R307). -/
def opExchangeComplete (o : SlotId) (s : State) : State :=
  match (s.pt o.part).xslots[o.k] with
  | none => s
  | some x =>
    if s.xFinished o.part x then
      let bad (p : Option XPair) : Bool := p.any fun p => p.state == .mismatched
      let code := if bad x.sendTo || bad x.recvFrom then 2 else 1
      let s1 := (s.onPart o.part fun t => { t with xslots := t.xslots.set o.k none }).onCtx o.part fun c =>
        (c.onXsts o.k (xDone code x.flags)).raise x.flags
      if x.baren then s1.arriveAt o.part x.bar else s1
    else s
def execExchangeComplete (o : SlotId) (s : State) : Out := .next (opExchangeComplete o s)

end Sys2Proof.Machine
end

