-- ==== Sys2Proof/Machine/Graph.lean ====
section
/-!
DEFINITION. The graph walker (R338-R340). A visit acts on the first walk of the partition whose next visit is of the kind;
what a visit leads to comes before the visits that waited, what a task's record leads to comes after them (log 33).
-/
namespace Sys2Proof.Machine

/-- What the next visit of a walk finds: a node, or nothing that can be visited. -/
inductive Visit where
  | node (n : Nat) (x : GraphNode)
  | bad (at' : Nat)
  deriving DecidableEq, Repr

/-- The next visit of a walk: an index at or above the node count, a bad TYPE or an unreadable node is malformed (R339). -/
def State.visitOf (s : State) (p : PartNo) (g : GraphWalk) : Option Visit :=
  if g.ended.isSome then none
  else
    match g.visits with
    | [] => none
    | (frm, n) :: _ =>
      if (s.pt p).bind.nodes.toNat ≤ n then some (.bad frm)
      else
        match s.graphNode p n with
        | none => some (.bad n)
        | some x => if 5 ≤ x.type ∨ (x.type = 3 ∧ x.nin = 0) then some (.bad n) else some (.node n x)

/-- A walk as a visit finds it: TSTART is the GTIME of the visit of the start node (R340). -/
def GraphWalk.visited (now : DWord) (g : GraphWalk) : GraphWalk := if g.begun then g else { g with begun := true, tstart := now }

/-- The first walk whose next visit passes a test, as the visit finds it. -/
def State.findVisit (s : State) (p : PartNo) (want : Visit → Bool) : Option (GraphWalk × Visit) :=
  if (s.pt p).bound then
    (s.pt p).graphs.findSome? fun g => ((s.visitOf p g).filter want).map fun x => (g.visited s.gtime, x)
  else none

def Visit.isType (k : Nat) : Visit → Bool
  | .node _ x => x.type == k
  | .bad _ => false

/-- Replaces a walk; a walk that is over writes its record. -/
def State.putGraph (p : PartNo) (g : GraphWalk) (s : State) : State :=
  (s.onPart p fun t => { t with graphs := t.graphs.map fun x => if x.entryIdx = g.entryIdx then g else x }).settleGraphs p

/-- The walk after its next visit, which leads to the given successors of node n. -/
def GraphWalk.go (g : GraphWalk) (n : Nat) (l : List Nat) : GraphWalk := { g with visits := visitsOf n l ++ g.visits.drop 1 }
/-- A walk that ends early at a node. -/
def GraphWalk.stop (g : GraphWalk) (code node : Nat) : GraphWalk := { g with visits := [], ended := some (code, 0, node) }

/-- Writes the STATE word of a node. -/
def State.putNodeState (p : PartNo) (n x : Nat) (s : State) : State := s.vput64 p (s.nodeAddr p n + 24) x

/-- GRAPH_ENTRY: every STATE word is zeroed and the walker starts (R338, R339). -/
def opGraphEntry (p : PartNo) (s : State) : State :=
  match s.entryOf p (· == 2) with
  | none => s.tryEntry p
  | some (n, ws) =>
    let start := bits (ws.getD 1 0) 0 16
    let g : GraphWalk :=
      { entryIdx := n, grec := ws.getD 3 0, mask := entryMask ws, base := entryBase ws, tstart := s.gtime,
        visits := [(start, start)], queued := [], flags := flNone, points := 0, begun := false, atEnd := none, ended := none }
    let s1 := (List.range (s.pt p).bind.nodes.toNat).foldl (fun s k => s.putNodeState p k 0) (s.passEntry p n)
    s1.onPart p fun t => { t with graphs := t.graphs ++ [g] }
def execGraphEntry (p : PartNo) (s : State) : Out := .next (opGraphEntry p s)

/-- The TASK entry that a TASK node queues: an origin entry with FANOUT 0. -/
def graphTaskEntry (g : GraphWalk) (x : GraphNode) : List Nat :=
  [1 + 15 * 2 ^ 5, x.addr, g.mask.toNat + g.base.toNat * 2 ^ 16, 0, 0, 0, 0, 0]

/-- GRAPH_TASK_NODE: waits for room in the task queue (R122). -/
def opGraphTaskNode (p : PartNo) (s : State) : State :=
  match s.findVisit p (Visit.isType 0), s.taskView p with
  | some (g, .node n x), some v =>
    if v.room then
      (((s.visitNode p n).visit p v.hdr 24).claimSlot p v (graphTaskEntry g x)).putGraph p { g.go n [] with queued := g.queued ++ [(v.wr, n)] }
    else s
  | _, _ => s
def execGraphTaskNode (p : PartNo) (s : State) : Out := .next (opGraphTaskNode p s)

/-- What a visit to a COND or WHILE node reads: the node, and its condition word through the stash (R339). -/
def State.readsOfVisit (p : PartNo) (n : Nat) (x : GraphNode) (s : State) : State := (s.visitNode p n).visit p x.addr 8

/-- GRAPH_COND_NODE. -/
def opGraphCondNode (p : PartNo) (s : State) : State :=
  match s.findVisit p (Visit.isType 1) with
  | some (g, .node n x) =>
    let s1 := s.readsOfVisit p n x
    match s.vread64 p x.addr with
    | none => s1.putGraph p (g.stop ccBADGRAPH n)
    | some w => s1.putGraph p (g.go n [if w ≠ 0 then x.s0 else x.s1])
  | _ => s
def execGraphCondNode (p : PartNo) (s : State) : Out := .next (opGraphCondNode p s)

/-- GRAPH_WHILE_NODE. -/
def opGraphWhileNode (p : PartNo) (s : State) : State :=
  match s.findVisit p (Visit.isType 2) with
  | some (g, .node n x) =>
    let s1 := s.readsOfVisit p n x
    match s.vread64 p x.addr with
    | none => s1.putGraph p (g.stop ccBADGRAPH n)
    | some w =>
      if w = 0 then (s1.putNodeState p n 0).putGraph p (g.go n [x.s1])
      else if x.limit = 0 ∨ x.state < x.limit then (s1.putNodeState p n (x.state + 1)).putGraph p (g.go n [x.s0])
      else s1.putGraph p (g.stop ccLOOPMAX n)
  | _ => s
def execGraphWhileNode (p : PartNo) (s : State) : Out := .next (opGraphWhileNode p s)

/-- GRAPH_JOIN_NODE. -/
def opGraphJoinNode (p : PartNo) (s : State) : State :=
  match s.findVisit p (Visit.isType 3) with
  | some (g, .node n x) =>
    let s1 := s.visitNode p n
    if x.state + 1 = x.nin then (s1.putNodeState p n 0).putGraph p (g.go n [x.s0])
    else (s1.putNodeState p n (x.state + 1)).putGraph p (g.go n [])
  | _ => s
def execGraphJoinNode (p : PartNo) (s : State) : Out := .next (opGraphJoinNode p s)

/-- What reading the node of a walk's next visit does, where its index names one. -/
def State.visitNext (p : PartNo) (g : GraphWalk) (s : State) : State :=
  match g.visits with
  | (_, n) :: _ => if n < (s.pt p).bind.nodes.toNat then s.visitNode p n else s
  | [] => s
/-- A visit that ends the walk: an END node, or a malformed one. -/
def Visit.isLast : Visit → Bool
  | .node _ x => x.type == 4
  | .bad _ => true

/-- GRAPH_END_NODE: the record follows once every queued task has its own; a malformed node ends the walk with BADGRAPH. -/
def opGraphEndNode (p : PartNo) (s : State) : State :=
  match s.findVisit p Visit.isLast with
  | some (g, .node n _) => (s.visitNode p n).putGraph p { g.go n [] with atEnd := some (g.atEnd.getD n) }
  | some (g, .bad n) => (s.visitNext p g).putGraph p (g.stop ccBADGRAPH n)
  | none => s
def execGraphEndNode (p : PartNo) (s : State) : Out := .next (opGraphEndNode p s)

end Sys2Proof.Machine
end

