-- ==== Sys2Proof/Machine/HostAccess.lean ====
section
/-!
DEFINITION. Home memory as the host, CXL.mem and the Ethernet function reach it (R310, R314, R382-R384, R388, R394,
R395).
-/
namespace Sys2Proof.Machine

/-- Whether a CHKPT that has been accepted runs (R395): one that is answered with BADARG was not. -/
def State.chkptRuns (s : State) : Bool := s.mbxRun.any fun r => r.code == 5 && r.result == 0

/-- Whether the ports of the host reach home memory: stage 4, no alarm, and an address of this die. -/
def State.portOpen (s : State) (addr len : Nat) : Bool :=
  s.stage == 4 && s.alarm == 0 && decide (addr + len ≤ 2 ^ 36)

/-- How a port refuses: CXL.mem with a poison response; PCIe with Unsupported Request before stage 4 and for what the device
does not support, and with Completer Abort under an alarm (R394) and for a write while a CHKPT runs (R395). -/
def State.refusal (s : State) (cxl write : Bool) : HostRefusal :=
  if cxl then .cxlPoison
  else if s.alarm != 0 || (s.stage == 4 && write && s.chkptRuns) then .completerAbort
  else .unsupportedRequest

/-- A byte of the merged view for a reader outside the die; an uncorrectable one has no stated value. -/
def State.outsideByte (s : State) (a : Nat) : Byte :=
  if s.badView a then (Config.freeLane s.free a).truncate 8 else s.merged a

/-- A read by an agent outside the die: its lines become the most recently used, and the bytes are answered (R100, R314). -/
def State.hostRead (addr len : Nat) (s : State) : State :=
  let l := (List.range len).map (addr + ·)
  ((s.touchLines l).draw).send (.hostReply (l.map s.outsideByte))

/-- Whether an access of the host of 1, 2, 4 or 8 bytes is aligned, and so single-copy atomic (R321). -/
def hostWhole (addr len : Nat) : Bool := [1, 2, 4, 8].contains len && addr % len == 0

/-- A write of the host: a landing, unless its port is closed or a CHKPT runs. -/
def State.hostWrite (cxl : Bool) (addr : Nat) (bytes : List Byte) (s : State) : State :=
  if s.portOpen addr bytes.length && !s.chkptRuns then s.landBytes .host (hostWhole addr bytes.length) noKey addr bytes
  else s.send (.hostRefused (s.refusal cxl true))

/-- HOST_WRITE. -/
def opHostWrite (o : HostBytes) (s : State) : State := s.hostWrite false o.addr o.bytes
def execHostWrite (o : HostBytes) (s : State) : Out := .next (opHostWrite o s)

/-- CXL_MEM_STORE. -/
def opCxlMemStore (o : HostBytes) (s : State) : State := s.hostWrite true o.addr o.bytes
def execCxlMemStore (o : HostBytes) (s : State) : Out := .next (opCxlMemStore o s)

/-- HOST_READ. -/
def opHostRead (o : HostSpan) (s : State) : State :=
  if s.portOpen o.addr o.len then s.hostRead o.addr o.len else s.send (.hostRefused (s.refusal false false))
def execHostRead (o : HostSpan) (s : State) : Out := .next (opHostRead o s)

/-- CXL_MEM_LOAD. -/
def opCxlMemLoad (o : HostSpan) (s : State) : State :=
  if s.portOpen o.addr o.len then s.hostRead o.addr o.len else s.send (.hostRefused (s.refusal true false))
def execCxlMemLoad (o : HostSpan) (s : State) : Out := .next (opCxlMemLoad o s)

/-- An AtomicOp of a width: the old value is answered and the new one lands (R382). -/
def State.hostAtomic (o : HostAtomic) (ok : Bool) (f : Nat → Nat) (s : State) : State :=
  let n := if o.wide then 8 else 4
  if ok && s.portOpen o.addr n && !s.chkptRuns then
    let old := ofBytes ((List.range n).map fun k => s.outsideByte (o.addr + k))
    (s.hostRead o.addr n).landBytes .host true noKey o.addr (toBytes n (f old))
  else s.send (.hostRefused (s.refusal false true))

/-- HOST_FETCHADD, of 4 or 8 bytes. -/
def opHostFetchadd (o : HostAtomic) (s : State) : State := s.hostAtomic o true (· + o.operand.toNat)
def execHostFetchadd (o : HostAtomic) (s : State) : Out := .next (opHostFetchadd o s)

/-- HOST_SWAP, of 8 bytes. -/
def opHostSwap (o : HostAtomic) (s : State) : State := s.hostAtomic o o.wide fun _ => o.operand.toNat
def execHostSwap (o : HostAtomic) (s : State) : Out := .next (opHostSwap o s)

/-- HOST_CAS, of 8 bytes. -/
def opHostCas (o : HostAtomic) (s : State) : State :=
  s.hostAtomic o o.wide fun old => if old = o.compare.toNat then o.operand.toNat else old
def execHostCas (o : HostAtomic) (s : State) : Out := .next (opHostCas o s)

/-- Whether the die's IOD has an Ethernet port (R10, R384): IOD 0 and IOD 2. -/
def State.hasEthernet (s : State) : Bool := s.dieNo.toNat / 4 == 0 || s.dieNo.toNat / 4 == 2

/-- ETHERNET_DMA: it stops at alarm level 1 (R394). -/
def opEthernetDma (o : EthDma) (s : State) : State :=
  if s.hasEthernet && s.portOpen o.addr (if o.write then o.bytes.length else o.len) then
    if o.write then s.landBytes .host (hostWhole o.addr o.bytes.length) noKey o.addr o.bytes else s.hostRead o.addr o.len
  else s
def execEthernetDma (o : EthDma) (s : State) : Out := .next (opEthernetDma o s)

end Sys2Proof.Machine
end

