-- ==== Sys2Proof/Machine/Landing.lean ====
section
/-!
DEFINITION. Landings that waited for staging room, and the merge of a tick whose agreement has come (R103, R104, R179,
R319).
-/
namespace Sys2Proof.Machine

/-- STAGING_ROOM_WAIT_END: landings that waited proceed, as far as ways have become free (R319). -/
def opStagingRoomWaitEnd (s : State) : State := s.retryLandings
def execStagingRoomWaitEnd (s : State) : Out := .next (opStagingRoomWaitEnd s)

/-- The TICK that waits, its own lines written back and its merge still to come, with its scope. -/
def Stream.mergeDue (x : Stream) : Option (Scope × Join) :=
  match x.wait with
  | some (.agree j) =>
    match j.kind with
    | .tick sc => if j.cleaned && !j.merged then some (sc, j) else none
    | _ => none
  | _ => none

/-- STAGED_MERGE: the partition's tick ends and its staged lines merge, once the agreement has been released (R104, R179). -/
def opStagedMerge (p : PartNo) (s : State) : State :=
  if s.holder = some p then
    match s.stream.mergeDue with
    | none => s
    | some (sc, j) =>
      let r := if j.releases = 1 then (j, true, s) else joinScope true sc j s
      if r.2.1 then (r.2.2.merge p).waitNext (.agree { r.1 with merged := true, releases := 1 }) else s
  else s
def execStagedMerge (p : PartNo) (s : State) : Out := .next (opStagedMerge p s)

end Sys2Proof.Machine
end

