-- ==== Sys2Proof/Machine/Link.lean ====
section
/-!
DEFINITION. The die's ends of its links: receiving and replay, retraining, death, the detour and the return from it
(R269-R285), and what arrives for the engines (R123, R174, R180, R270, R308, R333).
-/
namespace Sys2Proof.Machine

/-- One more, saturating. -/
def satInc {n : Nat} (x : BitVec n) : BitVec n := if x = BitVec.allOnes n then x else x + 1

/-! ### Wavelengths (R273, R274) -/

/-- The laser of wavelength w of an optical dimension. -/
def laserIdx (d w : Nat) : Nat := (d - 6) * 9 + w
def State.laser (s : State) (d w : Nat) : Laser := s.lasers.toArray.getD (laserIdx d w) (Laser.cleared false)
def State.onLaser (d w : Nat) (f : Laser → Laser) (s : State) : State :=
  if h : 6 ≤ d ∧ laserIdx d w < 72 then { s with lasers := s.lasers.set (laserIdx d w) (f s.lasers[laserIdx d w]) h.2 } else s

/-- Whether the spare of a dimension is in use. -/
def State.onSpare (s : State) (d : Nat) : Bool := decide (6 ≤ d) && (s.laser d 8).state != 0

/-- A retraining that the Regulator orders returns failed wavelengths to service and darkens the spare (R273). -/
def State.relight (d : Nat) (s : State) : State :=
  ((List.range 8).foldl
    (fun s w => s.onLaser d w fun x => if x.state = 2 then { x with state := 1 } else x) s).onLaser d 8 fun x => { x with state := 0 }

/-! ### Retraining, death and the detour (R272, R277, R280-R282) -/

/-- Starts a retraining: flits wait, TRAIN goes out (R272, R284). -/
def State.retrain (d : Nat) (s : State) : State :=
  (s.onLink d fun l => { l with state := 1, retrain := satInc l.retrain, tries := [] }).sendTrain d

/-! ### Resending (R271, R283) -/

/-- Whether the loss of a flit is one that R283 names: a DATA or CTRL flit; its list has no end-to-end acknowledgement. -/
def OutCargo.vital (c : OutCargo) : Bool :=
  (c.ftype == 1 || c.ftype == 2) && match c with
    | .ack _ _ => false
    | _ => true
def OutFlit.harms (f : OutFlit) : Bool := f.bad && f.cargo.vital
/-- A flit as it can be resent: one whose stored copy is uncorrectable goes out under its numbers without contents; a FENCE has
none (R283; log 76). -/
def OutFlit.sound (f : OutFlit) : OutFlit :=
  if f.bad then
    match f.cargo with
    | .fence _ => { f with bad := false }
    | .transit ftype src dst _ _ _ =>
      { f with cargo := .transit 0 src dst 0 (OutCargo.void (ftype == 1 || ftype == 2)).word [], bad := false }
    | c => { f with cargo := .void c.vital, bad := false }
  else f
/-- Whether this die is an end of the flit's pair. -/
def OutFlit.isOwn (f : OutFlit) : Bool :=
  match f.cargo with
  | .transit _ _ _ _ _ _ => false
  | _ => true

/-- UNCORR of a link: the current task, which is the one that holds the stream, aborts (R283, R372, log 42). -/
def State.linkUncorr (s : State) : State :=
  if s.stream.live then (s.takeTrap { num := trUNCORR, slot := pcSlot s.stream.pc }).abortUncorr s.part else s
/-- What the loss of resent flits does to the current task. -/
def State.hurt (l : List OutFlit) (s : State) : State := if l.any fun f => f.harms && f.isOwn then s.linkUncorr else s
/-- The copies of some flits in the replay buffers of the pairs, once they have been resent. -/
def State.soundPairs (l : List OutFlit) (s : State) : State :=
  { s with links := s.links.map fun k => { k with replay := k.replay.map fun f => if l.contains f then f.sound else f } }

/-- Everything a hop holds is resent, in order. -/
def State.resendHop (d : Nat) (s : State) : State :=
  let l := (s.link d).hop.map fun x => x.2.2
  let s1 := (s.soundPairs l).onLink d fun k => { k with hop := k.hop.map fun x => (x.1, x.2.1, x.2.2.sound) }
  ((s1.link d).hop.foldl (fun s x => s.emit d x) s1).hurt l
/-- Every flit of a pair that has not set out on the path in use is sent there. -/
def State.resendPair (d : Nat) (s : State) : State :=
  let l := (s.link d).replay.filter fun f => decide ((s.link d).sent < f.pseq)
  ((s.soundPairs l).flushPair d).hurt l
/-- Whether what a hop holds, or what a pair has yet to resend, includes a flit whose loss retrains the link (R283). -/
def State.hopHarmed (s : State) (d : Nat) : Bool := (s.link d).hop.any fun x => x.2.2.harms
def State.pairHarmed (s : State) (d : Nat) : Bool := (s.link d).replay.any fun f => decide ((s.link d).sent < f.pseq) && f.harms

/-- The changeover of a dead link to the detour its entry names: FENCE on D1, then every unacknowledged flit in PSEQ order
(R280); without a path the pair's flits wait (R282). -/
def State.changeover (d : Nat) (s : State) : State :=
  let l := s.link d
  if !l.up && s.hasPath d then
    ((s.onLink d fun l => { l with deton := true, returning := false, fenceAcked := false, sent := l.lowest - 1 }).sendFence
      d).resendPair d
  else s.onLink d fun l => { l with deton := false, returning := false, fenceAcked := false, sent := l.lowest - 1 }
/-- The changeover of every pair that a test picks. -/
def State.changeovers (f : Nat → Link → Bool) (s : State) : State :=
  ((List.range 14).filter fun j => f j (s.link j)).foldl (fun s j => s.changeover j) s

/-- The detour dimensions among which the Regulator's firmware chooses (R277). -/
def State.detourChoices (s : State) (d : Nat) : List Nat :=
  (List.range 14).filter fun e => e != d && s.trained.getLsbD e && (s.link e).up

/-- The Regulator writes a new detour entry (R277); which of several is free. -/
def State.chooseDetour (d : Nat) (s : State) : State :=
  match s.detourChoices d with
  | [] => s.onLink d fun l => { l with detv := false }
  | e :: es =>
    { s with free := s.free + 1 }.onLink d fun l =>
      { l with detv := true, dete := BitVec.ofNat 4 ((e :: es).getD (Config.freePick s.free % (es.length + 1)) e) }

/-- A pair on a detour begins again on the detour that its entry now names: behind a FENCE, with every unacknowledged flit; one whose
own link is up, and which was returning, then sends the fence of its return again, and waits with it where the entry names none (R277,
R280, R281; log 94). -/
def State.redetour (d : Nat) (s : State) : State :=
  if (s.link d).up = false then s.changeover d
  else
    let s1 := s.onLink d fun l => { l with returning := true, fenceAcked := false, sent := l.lowest - 1 }
    if (s.link d).detv && (s.link (s.link d).dete.toNat).up then
      ((((s1.onLink d fun l => { l with returning := false }).sendFence d).resendPair d).sendFence d).onLink d fun l =>
        { l with returning := true }
    else s1

/-- A link is declared dead: its traffic goes over to the detour, and every pair whose detour begins with it gets another. -/
def State.linkDies (d : Nat) (s : State) : State :=
  if (s.link d).state = 4 then s
  else
    let s1 := s.onLink d fun l =>
      { l with state := 4, hop := [], waiting := [], turn := 0, lseqOut := 0, lseqIn := 0, tries := [], fallen := true,
               credits := freshCredits d, owed := Vector.replicate 4 0 }
    let s2 := s1.changeover d
    (((List.range 14).filter fun j => j != d && (s2.link j).deton && (s2.link j).dete.toNat == d).foldl
      (fun s j => (s.chooseDetour j).redetour j) s2).clockPaths

/-- LINK_RETRAIN. -/
def opLinkRetrain (d : DimNo) (s : State) : State := if (s.link d.val).up then s.retrain d.val else s
def execLinkRetrain (d : DimNo) (s : State) : Out := .next (opLinkRetrain d s)

/-- LINK_DEAD. -/
def opLinkDead (d : DimNo) (s : State) : State := s.linkDies d.val
def execLinkDead (d : DimNo) (s : State) : Out := .next (opLinkDead d s)

/-- REGULATOR_ORDERED_RETRAINING. -/
def opRegulatorOrderedRetraining (d : DimNo) (s : State) : State :=
  if (s.link d.val).state = 1 ∨ s.stage.val < 4 then s else (s.relight d.val).retrain d.val
def execRegulatorOrderedRetraining (d : DimNo) (s : State) : Out := .next (opRegulatorOrderedRetraining d s)

/-- The credits for what was accepted while a link trained are returned (R279). -/
def State.payCredits (d : Nat) (s : State) : State :=
  (List.finRange 4).foldl (fun s k => if (s.link d).owed[k] = 0 then s else
    (s.sendBare d (.credit k (s.link d).owed[k])).onLink d fun l => { l with owed := l.owed.set k 0 }) s

/-- A link is up again: what its hop holds is resent, and what waited for it goes out; a pair on the detour sends the fence of its
return, any other sends on (R271, R281). The dimension is trained (R22). A pair that waited for this link as the first hop of its
detour changes over (R280), and one that waits to return finds a detour again. That the hop's flits are sent again counts as no replay
in REPLAYS: R276 counts those that a NAK starts (log 95). -/
def State.linkUp (d : Nat) (s : State) : State :=
  let s1 := { s with trained := s.trained ||| BitVec.ofNat 14 (2 ^ d) }.onLink d fun l =>
    { l with state := if s.onSpare d then 3 else 2, fallen := false, lost := false, tries := [] }
  let s2 := ((s1.payCredits d).resendHop d).pump d
  let s3 :=
    if (s2.link d).deton then (s2.sendFence d).onLink d fun l => { l with returning := true, fenceAcked := false }
    else s2.resendPair d
  let s4 := s3.changeovers fun j l => j != d && l.state == 4 && !l.deton && l.detv && l.dete.toNat == d
  let s5 := (((List.range 14).filter fun j => j != d && (s4.link j).up && (s4.link j).deton && !(s4.link j).detv).foldl
    (fun s j => (s.chooseDetour j).redetour j) s4).clockPaths
  if s1.hopHarmed d || s2.pairHarmed d then s5.retrain d else s5

/-- RETRAIN_COMPLETE. -/
def opRetrainComplete (o : RetrainMsg) (s : State) : State :=
  if (s.link o.link.val).state = 1 then (if o.ok then s.linkUp o.link.val else s.linkDies o.link.val) else s
def execRetrainComplete (o : RetrainMsg) (s : State) : Out := .next (opRetrainComplete o s)

/-- DETOUR_RETURN: only after the fence's end-to-end acknowledgement (R281). -/
def opDetourReturn (d : DimNo) (s : State) : State :=
  let l := s.link d.val
  if l.returning && l.fenceAcked && l.up then
    let s1 := s.onLink d.val fun l => { l with deton := false, returning := false, fenceAcked := false, sent := l.lowest - 1 }
    let s2 := s1.resendPair d.val
    if s1.pairHarmed d.val then s2.retrain d.val else s2
  else s
def execDetourReturn (d : DimNo) (s : State) : Out := .next (opDetourReturn d s)

/-- WAVELENGTH_FAILOVER: the spare takes over; a second failure makes the link dead (R273). -/
def opWavelengthFailover (o : WaveMsg) (s : State) : State :=
  let d := o.link.val
  let x := s.laser d o.wave.val
  if d < 6 ∨ x.state = 0 ∨ x.state = 2 then s
  else
    let s1 := s.onLaser d o.wave.val fun x => { x with state := 2 }
    if s.onSpare d then s1.linkDies d
    else (s1.onLaser d 8 fun x => { x with state := 1 }).onLink d fun l => if l.state = 2 then { l with state := 3 } else l
def execWavelengthFailover (o : WaveMsg) (s : State) : Out := .next (opWavelengthFailover o s)

/-- Kills the EXCHANGE task that a partition has in hand, with NOPATH (R282): running, parked, waiting for the stream, or held in
dispatch. -/
def State.killExchange (p : PartNo) (s : State) : State :=
  match (s.pt p).disp with
  | .run | .drain | .parked | .ready => if (s.ctx p).any (·.exch) then s.beginAbort p (.kill ccNOPATH 0 0) else s
  | .translate | .held =>
    match (s.pt p).work.bind (·.checked) with
    | some (t, _) => if t.flag 18 then s.refuseEntry p t (t.refused p ccNOPATH 0 0) else s
    | none => s
  | _ => s

/-- Whether a flit of a pair has waited 10 ms without a path (R282). -/
def State.pathOver (s : State) (d : Nat) : Bool :=
  let l := s.link d
  l.fallen && !s.hasPath d && l.noPathSince.any fun t => decide (t + 10000000 ≤ s.gtime.toNat)

/-- NOPATH_TIMEOUT: flits of the pair of a link that has died have waited 10 ms without a path, at this end or at the partner's, whose
Regulator then has this one do the same (R282; log 96). What the engines hold for the pair is discarded with its other flits. A flit
that comes for the pair of such a dead dimension has its own 10 ms. -/
def opNopathTimeout (d : DimNo) (s : State) : State :=
  if (s.link d.val).fallen && (!(s.link d.val).lost || s.pathOver d.val) then
    (((List.finRange 4).foldl (fun s p => s.killExchange p) s).onLink d.val fun l =>
      { l with replay := [], held := [], returning := false, fenceAcked := false, pseqOut := 0, pseqIn := 0, sent := 0, deton := false, lost := true, noPathSince := none }).event
      0x0005 d.val
  else s
def execNopathTimeout (d : DimNo) (s : State) : Out := .next (opNopathTimeout d s)

/-! ### Receiving (R269-R271, R280) -/

/-- A later number of 32 bits less an earlier one, as a signed distance. -/
def ahead (a : BitVec 32) (n : Nat) : Int := (a - BitVec.ofNat 32 n).toInt

/-- A reserved TYPE or a non-zero reserved field (R270); a VALID above 256 is taken the same way (log 76). -/
def badHeader (h : FlitHdr) : Bool := decide (8 ≤ h.ftype.val) || h.rsv != 0 || decide (256 < h.valid)

/-- A protocol error: counted, and the link is retrained (R270). -/
def State.protocolError (d : DimNo) (s : State) : State := opLinkRetrain d (s.onLink d.val fun l => { l with proto := satInc l.proto })

/-- LACK frees the hop's replay buffer, and on the direct path the pair's (R270, R271). -/
def State.acknowledge (d : Nat) (lack : BitVec 32) (s : State) : State :=
  let l := s.link d
  let acked := l.hop.filter fun x => decide (0 ≤ ahead lack x.1)
  if acked.isEmpty then s
  else
    (s.setLink d { l with hop := l.hop.filter fun x => decide (ahead lack x.1 < 0),
                          replay := l.replay.filter fun f => !(acked.any fun x => x.2.1 == 0 && x.2.2 == f) }).admitHeld d

/-- A flit of a type arrives: a bad header is a protocol error; LACK counts in every other case. -/
def State.receive (h : FlitHdr) (ftype : Nat) (act : State → State) (s : State) : State :=
  if badHeader h then s.protocolError h.link
  else if h.ftype.val ≠ ftype then s
  else act (s.acknowledge h.link.val h.lack)

/-- A credit for a lane goes back, or is owed while the link trains (R279). -/
def State.returnCredit (d : Nat) (lane : Fin 4) (s : State) : State :=
  if (s.link d).state = 1 then s.onLink d fun l => { l with owed := l.owed.set lane (l.owed[lane] + 1) }
  else s.sendBare d (.credit lane 1)
/-- A numbered flit of the hop is accepted in LSEQ order, and its lane's buffer is free again (R279); after a gap the receiver asks
for a replay, and of a flit it has it repeats the acknowledgement (R270, R271). -/
def State.hopAccept (h : FlitHdr) (act : State → State) (s : State) : State :=
  let d := h.link.val
  let n := ahead h.lseq (s.link d).lseqIn
  if n = 1 then (act (s.onLink d fun l => { l with lseqIn := l.lseqIn + 1 })).returnCredit d h.lane
  else s.sendBare d (if 1 < n then .nak else .idle)

/-- Whether this die is the final receiver of a flit: on the ordinary lane of the pair's own link, or on D3 (R279). -/
def State.isMine (s : State) (h : FlitHdr) : Bool :=
  decide (h.dim.val < 14) && h.dst == s.node && h.src == s.node ^^^ BitVec.ofNat 14 (2 ^ h.dim.val) &&
    ((h.lane == 0 && h.dim.val == h.link.val) || h.lane == 3)

/-- A flit of a pair is delivered once, in PSEQ order; what came by a detour is acknowledged end to end (R280). -/
def State.pairAccept (h : FlitHdr) (act : State → State) (s : State) : State :=
  let d := h.dim.val
  let s1 := if ahead h.pseq (s.link d).pseqIn = 1 then act (s.onLink d fun l => { l with pseqIn := l.pseqIn + 1 }) else s
  if h.lane = 3 then s1.sendAck d none else s1

/-- A flit of a pair for this die. -/
def State.receivePair (h : FlitHdr) (ftype : Nat) (act : State → State) (s : State) : State :=
  s.receive h ftype fun s => if s.isMine h then s.hopAccept h (State.pairAccept h act) else s

/-- IDLE_FLIT. One that stands for a flit which its sender lost takes that flit's place, and where that was a DATA or CTRL flit the
current task takes UNCORR (R283; log 76). -/
def opIdleFlit (h : FlitHdr) (s : State) : State :=
  s.receive h 0 fun s =>
    if s.isMine h then
      if h.cargo = (OutCargo.void true).word then s.hopAccept h (State.pairAccept h State.linkUncorr)
      else if h.cargo = (OutCargo.void false).word then s.hopAccept h (State.pairAccept h id)
      else s
    else s
def execIdleFlit (h : FlitHdr) (s : State) : Out := .next (opIdleFlit h s)

/-- CREDIT_FLIT (R279): flits that waited for the lane may go out. -/
def opCreditFlit (o : CreditMsg) (s : State) : State :=
  s.receive o.hdr 7 fun s => (s.onLink o.hdr.link.val fun l =>
    { l with credits := l.credits.set o.lane (l.credits[o.lane] + o.credits) }).pump o.hdr.link.val
def execCreditFlit (o : CreditMsg) (s : State) : Out := .next (opCreditFlit o s)

/-- How often the flit of an LSEQ has been replayed (R272). -/
def Link.triesOf (l : Link) (lseq : Nat) : Nat := ((l.tries.find? fun x => x.1 == lseq).map (·.2)).getD 0

/-- NAK_FLIT: every flit from LACK + 1 on is resent, in order; after eight replays of a flit the link is retrained instead (R271,
R272). If one of them is uncorrectable, the current task takes UNCORR and the link is retrained (R283). -/
def opNakFlit (o : NakMsg) (s : State) : State :=
  s.receive o.hdr 3 fun s =>
    let d := o.hdr.link.val
    if (s.link d).hop.isEmpty then s
    else if (s.link d).hop.any fun x => decide (8 ≤ (s.link d).triesOf x.1) then opLinkRetrain o.hdr.link s
    else
      let s1 := (s.onLink d fun l =>
        { l with tries := l.hop.map fun x => (x.1, l.triesOf x.1 + 1), replays := satInc l.replays }).resendHop d
      if s.hopHarmed d then opLinkRetrain o.hdr.link s1 else s1
def execNakFlit (o : NakMsg) (s : State) : Out := .next (opNakFlit o s)

/-- FLIT_FEC_CRC_FAILURE: the flit is discarded and NAK goes out (R271). -/
def opFlitFecCrcFailure (d : DimNo) (s : State) : State := s.sendBare d.val .nak
def execFlitFecCrcFailure (d : DimNo) (s : State) : Out := .next (opFlitFecCrcFailure d s)

/-- FENCE_FLIT: everything the pair sent before has come; the receiver says so end to end (R280, R281). -/
def opFenceFlit (h : FlitHdr) (s : State) : State :=
  s.receive h 4 fun s =>
    if s.isMine h then s.hopAccept h fun s => s.sendAck h.dim.val (some h.cargo) else s
def execFenceFlit (h : FlitHdr) (s : State) : Out := .next (opFenceFlit h s)

/-- END_TO_END_ACK: frees the pair's replay buffer (R280); once the FENCE of the return is acknowledged, and no earlier one, the pair
may return (R281). -/
def opEndToEndAck (o : AckMsg) (s : State) : State :=
  s.receive o.hdr 2 fun s =>
    if s.isMine o.hdr then
      s.hopAccept o.hdr fun s => (s.onLink o.hdr.dim.val fun l =>
        { l with replay := l.replay.filter fun f => decide (ahead o.upTo f.pseq < 0),
                 fenceAcked := l.fenceAcked || (l.returning && o.fence && o.hdr.cargo == BitVec.ofNat 64 l.fenceNo) }).admitHeld
          o.hdr.dim.val
    else s
def execEndToEndAck (o : AckMsg) (s : State) : Out := .next (opEndToEndAck o s)

/-- The next hop of a detoured flit on an intermediate die: its port and lane (R277, R279). -/
def State.nextHop (s : State) (h : FlitHdr) : Option (Nat × Fin 4) :=
  let left := bitList 14 (s.node ^^^ h.dst).toNat
  if h.lane = 1 ∧ left.length = 2 ∧ left.contains h.dim.val then some (h.dim.val, 2)
  else if h.lane = 2 ∧ left.length = 1 then some (left.headD 0, 3)
  else none

/-- DETOUR_FORWARD: the flit goes on to the next lane, and no engine of this die sees it (R278, R279). -/
def opDetourForward (o : TransitFlit) (s : State) : State :=
  s.receive o.hdr o.hdr.ftype.val fun s =>
    match s.nextHop o.hdr with
    | none => s
    | some (port, lane) =>
      s.hopAccept o.hdr fun s =>
        if (s.link port).state == 4 || (s.link port).state == 0 then s
        else s.putFlit port lane ⟨o.hdr.dim.val, o.hdr.pseq.toNat,
            .transit o.hdr.ftype o.hdr.src o.hdr.dst o.hdr.valid o.hdr.cargo o.payload, false⟩
def execDetourForward (o : TransitFlit) (s : State) : Out := .next (opDetourForward o s)

/-! ### Training and time (R284, R285) -/

/-- TRAIN_FLIT: the highest version both support, which is 0x0100, or none: then the link stays down and the mismatch is
reported. -/
def opTrainFlit (o : TrainMsg) (s : State) : State :=
  s.receive o.hdr 6 fun s =>
    let d := o.hdr.link.val
    if 1 < (s.link d).state.val then s
    else if o.lo ≤ 0x0100 ∧ 0x0100 ≤ o.hi then s.onLink d fun l => { l with ver := 0x0100 }
    else (s.onLink d fun l => { l with state := 0, ver := 0 }).versionEvent d o.hi
def execTrainFlit (o : TrainMsg) (s : State) : Out := .next (opTrainFlit o s)

/-- The dimension of the die's parent in the distribution of GTIME; none at the master. -/
def State.parentDim (s : State) : Option Nat := (bitList 14 (s.node ^^^ s.master).toNat).head?

/-- GTIME_EXCHANGE: a sample over every trained link that has a path. -/
def opGtimeExchange (s : State) : State :=
  ((bitList 14 s.trained.toNat).filter s.hasPath).foldl (fun s d => s.sendPair d (.gtime s.gtime)) s
def execGtimeExchange (s : State) : Out := .next (opGtimeExchange s)

/-- GTIME_FLIT: the delay is half the round trip; from the parent it gives the offset to be slewed away. -/
def opGtimeFlit (o : GtimeMsg) (s : State) : State :=
  s.receivePair o.hdr 5 fun s =>
    let d := o.hdr.dim.val
    let s1 := s.onLink d fun l => { l with delay := o.roundTrip / 2 }
    if s.parentDim = some d then
      { s1 with slew := (o.sample.toNat : Int) + (o.roundTrip / 2 : Nat) - s.gtime.toNat }
    else s1
def execGtimeFlit (o : GtimeMsg) (s : State) : Out := .next (opGtimeFlit o s)

/-- The clock of R285: since when the die has had no path to its parent. -/
def State.clockParent (s : State) : State :=
  if s.stage = 4 ∧ s.parentDim.any fun d => !s.hasPath d then { s with timeLost := some (s.timeLost.getD s.gtime.toNat) }
  else { s with timeLost := none, timeTold := false }
/-- Whether it has had none for 1 ms, and has not said so. -/
def State.parentOver (s : State) : Bool := !s.timeTold && s.timeLost.any fun t => decide (t + 1000000 ≤ s.gtime.toNat)
/-- GTIMELOST: once, after 1 ms (R285). -/
def opGtimelost (d : DimNo) (s : State) : State :=
  if s.parentDim = some d.val ∧ s.hasPath d.val = false ∧ s.parentOver then { s with timeTold := true }.event 0x000A d.val else s
def execGtimelost (d : DimNo) (s : State) : Out := .next (opGtimelost d s)

/-! ### What arrives for the engines -/

/-- A chunk enters the arrivals of its job's partition (R294, R308). -/
def State.takeArrival (c : Chunk) (s : State) : State :=
  match s.partOfJob c.job with
  | none => s
  | some p => s.onPart p fun t => { t with arrivals := t.arrivals ++ [c] }

/-- DATA_FLIT. -/
def opDataFlit (o : DataFlit) (s : State) : State :=
  s.receivePair o.hdr 1 fun s =>
    match o.cargo with
    | .chunk c => s.takeArrival c
    | .copyBytes job ch bytes bad => (s.partOfJob job).elim s fun p => s.pulled p ch o.hdr.dim.val bytes bad
def execDataFlit (o : DataFlit) (s : State) : Out := .next (opDataFlit o s)

/-- The sender's die serves a pull of its source bytes, 256 to a flit (R123). -/
def State.serveSource (d : Nat) (job : Word) (ch : Fin 8) (ranges : List (Nat × Nat)) (s : State) : State :=
  let addrs := ranges.flatMap fun r => (List.range r.2).map (r.1 + ·)
  let get (a : Nat) : Byte := (s.partOfJob job).elim (s.merged a) fun p => (s.asQueue p ch).seen (some p) .cp a
  let s1 := (s.partOfJob job).elim (s.touchLines addrs) fun p => s.touchAll p addrs
  ((List.range ((addrs.length + 255) / 256)).foldl (fun x k =>
    let part := (addrs.drop (256 * k)).take 256
    x.sendPair d (.readData job ch (part.map get) (badPlaces s true part))) s1).draw

/-- What a CTRL flit asks for. -/
def State.takeCtrl (d : Nat) (c : CtrlCargo) (s : State) : State :=
  match c with
  | .postResult job ch ok => (s.partOfJob job).elim s fun p => s.postingSettled p ch d ok
  | .proxyRetire job ch status => (s.partOfJob job).elim s fun p => s.proxyReport p ch d status
  | .readRequest job ch ranges => s.serveSource d job ch ranges
  | .fanout entry job => s.takeFanout entry job

/-- CTRL_FLIT. -/
def opCtrlFlit (o : CtrlFlit) (s : State) : State := s.receivePair o.hdr 2 (State.takeCtrl o.hdr.dim.val o.cargo)
def execCtrlFlit (o : CtrlFlit) (s : State) : Out := .next (opCtrlFlit o s)

/-- READY_FLIT. -/
def opReadyFlit (o : ReadyFlit) (s : State) : State := s.receivePair o.hdr 2 (State.takeReady o.ready)
def execReadyFlit (o : ReadyFlit) (s : State) : Out := .next (opReadyFlit o s)

/-- POSTED_PACKET. -/
def opPostedPacket (o : PostedMsg) (s : State) : State :=
  s.receivePair o.hdr 2 (State.takePosting ⟨o.pkt, o.job, o.hdr.dim.val, o.src⟩ o.ch)
def execPostedPacket (o : PostedMsg) (s : State) : Out := .next (opPostedPacket o s)

/-- One more token of an agreement. -/
def bumpToken (isTick : Bool) (sc : Scope) (dim seq : Nat) : List TokenCount → List TokenCount
  | [] => [⟨isTick, sc, dim, seq, 1⟩]
  | x :: t =>
    if x.isTick = isTick ∧ x.scope = sc ∧ x.dim = dim ∧ x.seq = seq then { x with count := x.count + 1 } :: t
    else x :: bumpToken isTick sc dim seq t

/-- BARRIER_TOKEN (R179, R180). -/
def opBarrierToken (o : TokenMsg) (s : State) : State :=
  s.receivePair o.hdr 2 fun s =>
    (s.partOfJob o.job).elim s fun p => s.onPart p fun t =>
      { t with tokens := bumpToken o.isTick o.scope o.hdr.dim.val o.seq t.tokens }
def execBarrierToken (o : TokenMsg) (s : State) : Out := .next (opBarrierToken o s)

/-- One more rendezvous flit. -/
def bumpRdz (dim seq : Nat) : List RdzCount → List RdzCount
  | [] => [⟨dim, seq, 1⟩]
  | x :: t => if x.dim = dim ∧ x.seq = seq then { x with count := x.count + 1 } :: t else x :: bumpRdz dim seq t

/-- RENDEZVOUS_FLIT (R174). -/
def opRendezvousFlit (o : RdzMsg) (s : State) : State :=
  s.receivePair o.hdr 2 fun s =>
    (s.partOfJob o.job).elim s fun p => s.onPart p fun t => { t with rdz := bumpRdz o.hdr.dim.val o.seq t.rdz }
def execRendezvousFlit (o : RdzMsg) (s : State) : Out := .next (opRendezvousFlit o s)

/-- One more release of the package line for a task. -/
def bumpRelease (seq : Nat) : List (Nat × Nat) → List (Nat × Nat)
  | [] => [(seq, 1)]
  | x :: t => if x.1 = seq then (seq, x.2 + 1) :: t else x :: bumpRelease seq t

/-- PACKAGE_LINE_RELEASE (R180). -/
def opPackageLineRelease (o : PackRelease) (s : State) : State :=
  (s.partOfJob o.job).elim s fun p => s.onPart p fun t =>
    if o.isTick then { t with tickReleases := bumpRelease o.seq t.tickReleases }
    else { t with syncReleases := bumpRelease o.seq t.syncReleases }
def execPackageLineRelease (o : PackRelease) (s : State) : Out := .next (opPackageLineRelease o s)

end Sys2Proof.Machine
end

