-- ==== Sys2Proof/Machine/Reliability.lean ====
section
/-!
DEFINITION. Lasers, leaky buckets and what the Regulator does when one fills, uncorrectable words, poisoned lines and
tables (R99, R105, R274, R275, R372-R377).
-/
namespace Sys2Proof.Machine

/-! ### Lasers (R275) -/

/-- EOL of a laser whose POWER is above EOLTHR: the hours at which the trend carries it there. -/
def eolOf (power thr trend : Int) (hours : Nat) : Word :=
  if 0 ≤ trend then 0xFFFFFFFF else BitVec.ofNat 32 (hours + (power - thr).toNat * 1000 / (-trend).toNat)

/-- One hour of a lit laser: BIAS, POWER, TREND and HOURS; then EOL and, at the first crossing, STATE. -/
def Laser.hour (power bias thr : BitVec 16) (x : Laser) : Laser :=
  let trend : BitVec 16 := if h : 999 < x.history.length then power - x.history[999] else 0
  let hours := x.hours + 1
  let low := power.sle thr
  { x with bias := bias, power := power, trend := trend, hours := hours, history := (power :: x.history).take 1000,
           eol := if low then hours else eolOf power.toInt thr.toInt trend.toInt hours.toNat,
           state := if low ∧ x.state ≠ 2 then 3 else x.state, raised := x.raised || low }

/-- LASER_HOURLY_UPDATE. The LASER event comes once per wavelength. -/
def opLaserHourlyUpdate (o : LaserMsg) (s : State) : State :=
  let d := o.link.val
  if d < 6 ∨ o.lit = false then s
  else
    let x := s.laser d o.wave.val
    let s1 := s.onLaser d o.wave.val (Laser.hour o.power o.bias s.eolthr)
    if o.power.sle s.eolthr && !x.raised then s1.event 0x0001 (d - 6 + o.wave.val * 16) else s1
def execLaserHourlyUpdate (o : LaserMsg) (s : State) : Out := .next (opLaserHourlyUpdate o s)

/-! ### Leaky buckets (R375) -/

/-- Units of a class, and the place of its first bucket. -/
def unitCount (cls : Fin 4) : Nat := [1024, 288, 36, 232].getD cls.val 0
def bucketIdx (e : ErrUnit) : Nat := [0, 1024, 1312, 1348].getD e.cls.val 0 + e.unit

/-- The fields of a configuration register. -/
def State.mark (s : State) (cls : Fin 4) : Nat := bits s.bucketCfg[cls].toNat 0 16
def State.inc (s : State) (cls : Fin 4) : Nat := bits s.bucketCfg[cls].toNat 16 8
def State.leak (s : State) (cls : Fin 4) : Nat := bits s.bucketCfg[cls].toNat 24 24
/-- A bucket register: FILL, EVT, TOTAL. -/
def State.bucket (s : State) (e : ErrUnit) : DWord := s.buckets.get (bucketIdx e)
def bucketFill (w : DWord) : Nat := bits w.toNat 0 16
def bucketEvt (w : DWord) : Bool := bit w.toNat 16
def bucketTotal (w : DWord) : Nat := bits w.toNat 32 32
def bucketWord (fill : Nat) (evt : Bool) (total : Nat) : DWord := BitVec.ofNat 64 (fill % 65536 + b2n evt 16 + total * 2 ^ 32)
def State.setBucket (e : ErrUnit) (w : DWord) (s : State) : State := { s with buckets := s.buckets.set (bucketIdx e) w }

/-- The link lane that unit u of class 3 is: its dimension, and its wavelength on an optical one. -/
def laneUnit (u : Nat) : Nat × Nat :=
  if u < 128 then (u / 32, 0) else if u < 160 then (4 + (u - 128) / 16, 0) else (6 + (u - 160) / 9, (u - 160) % 9)

/-- A carrying data wavelength gives way to the dark spare at a retraining (R376). -/
def State.moveToSpare (d w : Nat) (s : State) : State :=
  if w < 8 ∧ (s.laser d w).state ≠ 2 ∧ s.onSpare d = false then
    (s.onLaser d w fun x => { x with state := 2 }).onLaser d 8 fun x => { x with state := 1 }
  else s

/-- What the Regulator does after a predictive-failure event (R376). -/
def State.respond (e : ErrUnit) (s : State) : State :=
  match e.cls with
  | 0 => s
  | 1 => { s with rebinds := (s.rebinds ++ [e.unit / 8]).eraseDups }
  | 2 => { s with rebinds := (s.rebinds ++ [e.unit]).eraseDups }
  | 3 =>
    let l := laneUnit e.unit
    let s1 := if 6 ≤ l.1 then s.moveToSpare l.1 l.2 else s
    if (s1.link l.1).up then s1.retrain l.1 else s1

/-- FILL takes a value: the crossing of MARK while EVT is 0 raises one event. -/
def State.fillTo (e : ErrUnit) (fill total : Nat) (s : State) : State :=
  let w := s.bucket e
  if bucketEvt w = false ∧ bucketFill w < s.mark e.cls ∧ s.mark e.cls ≤ fill then
    ((s.setBucket e (bucketWord fill true total)).event 0x0002 (e.cls.val + e.unit * 8)).respond e
  else s.setBucket e (bucketWord fill (bucketEvt w) total)

/-- A corrected error of a lane of a board or optical link is a corrected FEC symbol: FECFIX counts them in thousands (R268, R276). -/
def State.countFec (e : ErrUnit) (s : State) : State :=
  if e.cls = 3 ∧ 4 ≤ (laneUnit e.unit).1 then
    s.onLink (laneUnit e.unit).1 fun l =>
      if 999 ≤ l.fecRest then { l with fecRest := 0, fecfix := satInc l.fecfix } else { l with fecRest := l.fecRest + 1 }
  else s

/-- CORRECTED_ERROR. -/
def opCorrectedError (e : ErrUnit) (s : State) : State :=
  if e.unit < unitCount e.cls then
    let w := s.bucket e
    (s.countFec e).fillTo e (min (bucketFill w + s.inc e.cls) 0xFFFF) (min (bucketTotal w + 1) 0xFFFFFFFF)
  else s
def execCorrectedError (o : ErrUnit) (s : State) : Out := .next (opCorrectedError o s)

/-- An uncorrectable error fills its bucket. -/
def State.fillUp (e : ErrUnit) (s : State) : State :=
  if e.unit < unitCount e.cls then s.fillTo e 0xFFFF (bucketTotal (s.bucket e)) else s

/-- BUCKET_LEAK: every non-zero FILL of a class falls by one; LEAK 0 means no leak. -/
def opBucketLeak (cls : Fin 4) (s : State) : State :=
  if s.leak cls = 0 then s
  else
    (List.range (unitCount cls)).foldl (fun s u =>
      let e : ErrUnit := ⟨cls, u⟩
      let w := s.bucket e
      if bucketFill w = 0 then s else s.setBucket e (bucketWord (bucketFill w - 1) (bucketEvt w) (bucketTotal w))) s
def execBucketLeak (cls : Fin 4) (s : State) : Out := .next (opBucketLeak cls s)

/-! ### Uncorrectable words (R99, R105, R372) -/

/-- UNCORR: a group consumes an uncorrectable word. -/
def opUncorr (e : ErrUnit) (s : State) : State := (s.fillUp e).takeUncorr
def execUncorr (o : ErrUnit) (s : State) : Out := .next (opUncorr o s)

/-- A flit whose copy in the replay buffer is uncorrectable. -/
def OutFlit.spoilt (f : OutFlit) : OutFlit := { f with bad := true }
/-- Every copy of a flit in the replay buffers is marked. -/
def State.spoilFlit (f : OutFlit) (s : State) : State :=
  { s with links := s.links.map fun l =>
      { l with hop := l.hop.map fun (x : Nat × Fin 4 × OutFlit) => if x.2.2 = f then (x.1, x.2.1, f.spoilt) else x,
               replay := l.replay.map fun g => if g = f then f.spoilt else g } }
/-- The line, the plate word or the stored flit is poisoned. -/
def State.poisonAt (x : PoisonPlace) (s : State) : State :=
  match x with
  | .line n => s.poisonWords (wordsOf (128 * n) 128)
  | .plate w => if s.platePoison.contains w then s else { s with platePoison := w :: s.platePoison }
  | .hop d k => (s.link d.val).hop[k]?.elim s fun x => s.spoilFlit x.2.2
  | .pair d k => (s.link d.val).replay[k]?.elim s fun f => s.spoilFlit f

/-- LINE_POISON: an uncorrectable error in a word that nothing consumes. -/
def opLinePoison (o : PoisonMsg) (s : State) : State :=
  (s.fillUp o.unit).poisonAt o.place
def execLinePoison (o : PoisonMsg) (s : State) : Out := .next (opLinePoison o s)

/-- PAGE_TABLE_REBUILD: the table is written from the host's copy, its poison is cleared, and the host is told (R99). -/
def opPageTableRebuild (o : RebuildMsg) (s : State) : State :=
  match s.poisonTables.find? fun t => t.1 == o.table with
  | none => s
  | some t =>
    let s1 := s.writeMain none 8 noKey (listAt t.1 (o.bytes.take t.2))
    { s1 with poisonTables := s1.poisonTables.filter fun x => x.1 != o.table,
              poison := s1.poison.filter fun w => !(wordsOf t.1 t.2).contains w }.event 0x0004 (bits o.table 5 31)
def execPageTableRebuild (o : RebuildMsg) (s : State) : Out := .next (opPageTableRebuild o s)

end Sys2Proof.Machine
end

