-- ==== Sys2Proof/Machine/Mailbox.lean ====
section
/-!
DEFINITION. The mailbox: its registers, its commands, its events, and the registers a write without a behaviour of its own
can reach (R6, R7, R274-R276, R375, R385-R387, R392, R395, R396, R398).
-/
namespace Sys2Proof.Machine

/-! ### Running a command (R385) -/

/-- RESULT codes. -/
def rsOK : Nat := 0
def rsBADCMD : Nat := 1
def rsBADSTAGE : Nat := 2
def rsBADARG : Nat := 3
def rsALARM : Nat := 5

/-- Whether the mailbox takes a write: powered, no alarm (R394), and no rejected firmware (R389). -/
def State.mailboxOpen (s : State) : Bool := s.powered && s.alarm == 0 && s.fail != 1

/-- A command with its outcome, which COMMAND_COMPLETE publishes. -/
def State.answer (code : Nat) (tag : BitVec 16) (result : Nat) (args : List DWord) (s : State) : State :=
  { s with mbxRun := some ⟨BitVec.ofNat 16 code, tag, s.mbxArgs, result, args⟩ }

/-- A write of MBXCMD: ignored with OVERRUN while a command runs; otherwise the command starts, if its stage allows it. -/
def State.command (code : Nat) (tag : BitVec 16) (lo hi : Nat) (act : State → State) (s : State) : State :=
  if s.mailboxOpen = false then s.send (.hostRefused (s.refusal false true))
  else if s.mbxBusy then { s with mbxOverrun := true }
  else
    let s1 := { s with mbxBusy := true, mbxCmd := BitVec.ofNat 32 (code % 65536 + tag.toNat * 65536) }
    if lo ≤ s.stage.val ∧ s.stage.val ≤ hi then act s1 else s1.answer code tag rsBADSTAGE []

/-- ARG of a command. -/
def State.arg (s : State) (k : Nat) : Nat := (s.mbxArgs.toList.getD k 0).toNat

/-! ### VERSIONS and SETTIME (R387, R392) -/

/-- The version set of R392, in table order. -/
def versionSet : List (BitVec 16) := [0x0100, 0x0100, 0x0100, 0x0100, 0x0100, 0x0100]
/-- Four versions to an ARG, 16 bits each. -/
def versionArg (k : Nat) : DWord :=
  BitVec.ofNat 64 (ofDigits 65536 (((versionSet.drop (4 * k)).take 4).map (·.toNat)))
where
  ofDigits (b : Nat) : List Nat → Nat
    | [] => 0
    | x :: t => x + b * ofDigits b t

/-- VERSIONS. -/
def opVersions (tag : BitVec 16) (s : State) : State :=
  s.command 1 tag 1 4 fun s => s.answer 1 tag rsOK [versionArg 0, versionArg 1]
def execVersions (tag : BitVec 16) (s : State) : Out := .next (opVersions tag s)

/-- SETTIME: only the time master takes it; stage 3 sets GTIME, stage 4 slews toward the value (R285). -/
def opSettime (tag : BitVec 16) (s : State) : State :=
  s.command 2 tag 3 4 fun s =>
    if s.node ≠ s.master then s.answer 2 tag rsBADARG []
    else if s.stage = 3 then { s with gtime := BitVec.ofNat 64 (s.arg 0), slew := 0, slewCredit := 0 }.answer 2 tag rsOK []
    else
      let d : Int := (s.arg 0 : Int) - s.gtime.toNat
      { s with slew := d }.answer 2 tag rsOK [BitVec.ofInt 64 d]
def execSettime (tag : BitVec 16) (s : State) : Out := .next (opSettime tag s)

/-! ### Regulator registers (R364, R375, R398) -/

/-- A register of the Regulator's space that the mailbox reaches. -/
inductive RegAddr where
  | trap (w : Fin 6)
  | fault (p : PartNo)
  | config (cls : Fin 4)
  | bucket (e : ErrUnit)
  deriving DecidableEq, Repr

/-- The bucket registers of a class: where they begin. -/
def bucketBase (cls : Fin 4) : Nat := [0x2_1000, 0x2_3000, 0x2_3C00, 0x2_3E00].getD cls.val 0
/-- The register at an address. -/
def regAddr (a : Nat) : Option RegAddr :=
  if a % 8 ≠ 0 then none
  else if h : 0x2_0100 ≤ a ∧ a < 0x2_0130 then some (.trap ⟨(a - 0x2_0100) / 8, by omega⟩)
  else if h : 0x2_0180 ≤ a ∧ a < 0x2_01A0 then some (.fault ⟨(a - 0x2_0180) / 8, by omega⟩)
  else if h : 0x2_0000 ≤ a ∧ a < 0x2_0020 then some (.config ⟨(a - 0x2_0000) / 8, by omega⟩)
  else
    ((List.finRange 4).find? fun c => decide (bucketBase c ≤ a) && decide (a < bucketBase c + 8 * unitCount c)).map fun c =>
      .bucket ⟨c, (a - bucketBase c) / 8⟩

def State.readReg (s : State) : RegAddr → DWord
  | .trap w => s.trapRecord[w]
  | .fault p => (s.pt p).faultAddr
  | .config c => s.bucketCfg[c]
  | .bucket e => s.bucket e

/-- A write of the RW and W1C fields (R6, R7); the trap record and the fault record are read-only. -/
def State.writeReg (r : RegAddr) (v : DWord) (s : State) : State :=
  match r with
  | .trap _ => s
  | .fault _ => s
  | .config c => { s with bucketCfg := s.bucketCfg.set c (BitVec.ofNat 64 (bits v.toNat 0 48)) }
  | .bucket e =>
    let s1 := if bit v.toNat 16 then
        s.setBucket e (bucketWord (bucketFill (s.bucket e)) false (bucketTotal (s.bucket e)))
      else s
    s1.fillTo e (bits v.toNat 0 16) (bucketTotal (s.bucket e))

/-- Whether ARG0 names this die. -/
def State.isThisDie (s : State) : Bool := s.arg 0 == s.dieNo.toNat

/-- READREG; a register of another die has no value here (log 4). -/
def opReadreg (tag : BitVec 16) (s : State) : State :=
  s.command 3 tag 2 4 fun s =>
    match regAddr (s.arg 1) with
    | none => s.answer 3 tag rsBADARG []
    | some r =>
      if 16 ≤ s.arg 0 then s.answer 3 tag rsBADARG []
      else if s.isThisDie then s.answer 3 tag rsOK [s.readReg r]
      else { s with free := s.free + 1 }.answer 3 tag rsOK [Config.otherDieRegister s.free (s.arg 0) (s.arg 1)]
def execReadreg (tag : BitVec 16) (s : State) : Out := .next (opReadreg tag s)

/-- WRITEREG. -/
def opWritereg (tag : BitVec 16) (s : State) : State :=
  s.command 4 tag 2 4 fun s =>
    match regAddr (s.arg 1) with
    | none => s.answer 4 tag rsBADARG []
    | some r =>
      if 16 ≤ s.arg 0 then s.answer 4 tag rsBADARG []
      else (if s.isThisDie then s.writeReg r (BitVec.ofNat 64 (s.arg 2)) else s).answer 4 tag rsOK []
def execWritereg (tag : BitVec 16) (s : State) : Out := .next (opWritereg tag s)

/-! ### Checkpoints (R395, R396) -/

/-- Every partition of this die parks as at a pre-emption. -/
def State.holdAll (s : State) : State := { s with chkptHold := true }.startPreempt

/-- CHKPT_SAVE: accepted, and the partitions begin to park; the copying is done when the command completes. -/
def opChkptSave (tag : BitVec 16) (s : State) : State :=
  if s.arg 1 = 1 then s
  else s.command 5 tag 4 4 fun s => if s.arg 1 = 0 then s.holdAll.answer 5 tag rsOK [] else s.answer 5 tag rsBADARG []
def execChkptSave (tag : BitVec 16) (s : State) : Out := .next (opChkptSave tag s)

/-- The digest of the package's device certificate key, which this model does not know (log 4). -/
def packageId : BitVec 512 := Config.freeAnswer 0

/-- The 256-byte header of an image (R396): VERSION, IMGLEN, PKGID, WKEY, zeros. -/
def imageHeader (len : DWord) (key : BitVec 512) : List Byte :=
  toBytes 8 0x0100 ++ toBytes 8 len.toNat ++ toBytes 64 packageId.toNat ++ keyWrap Config.fusedKey key ++ List.replicate 104 0
/-- Whether the security block accepts a header: VERSION's major, PKGID, and WKEY, which unwraps to the image's key. -/
def CheckpointImage.headerOk (i : CheckpointImage) : Bool :=
  ofBytes ((i.header.drop 1).take 1) == 1 && ofBytes ((i.header.drop 16).take 64) == packageId.toNat &&
    (i.header.drop 80).take 72 == keyWrap Config.fusedKey i.key0

/-- CHKPT_RESTORE: the header is checked before any byte moves. -/
def opChkptRestore (tag : BitVec 16) (s : State) : State :=
  if s.arg 1 ≠ 1 then s
  else s.command 5 tag 4 4 fun s =>
    match s.images.find? fun i => i.base.toNat == s.arg 0 with
    | none => s.answer 5 tag rsBADARG []
    | some i => if i.headerOk then s.holdAll.answer 5 tag rsOK [] else s.answer 5 tag rsBADARG []
def execChkptRestore (tag : BitVec 16) (s : State) : Out := .next (opChkptRestore tag s)

/-- What HBM4E's copy of a line reads as under its own slot, when no line is dirty: a line that the stash has filled under another
slot is not what HBM4E holds (R97). -/
def State.homeLine (s : State) (line : Nat) : List Byte :=
  match s.stash.find? fun l => l.line == line && !l.dirty && !l.image.isEmpty with
  | some l => l.image
  | none => s.lineBytes line
/-- A line as HBM4E holds it (R97). -/
def State.cipherLine (s : State) (line : Nat) : List Byte := sealBytes (s.slotKey (s.lineSlot line)) line (s.homeLine line)
/-- The lines that are not zeros under slot 0. -/
def State.listedLines (s : State) : List Nat :=
  (linesOf (s.mem.map fun (c : Host.Cell) => c.1) ++ s.lineKeys.map fun (c : Nat × BitVec 10) => c.1).eraseDups
/-- A staged line as the image holds it (R395). -/
def State.stagedImage (s : State) (l : StagedLine) : StagedImage :=
  let byteOf (k : Nat) : Byte := (l.bytes.find? fun b => b.1 == k).elim 0 (·.2)
  { line := l.line, tag := l.tag, mask := l.bytes.map (·.1), bad := l.bad,
    key := l.key,
    data := sealBytes (s.slotKey (s.keyFor none l.key l.line)) l.line ((List.range 128).map byteOf) }
/-- Every dirty line is written back. -/
def State.writeBackAll (s : State) : State :=
  let s1 := s.stash.foldl (fun s l => s.sealLine l) s
  { s1 with stash := s1.stash.map StashLine.cleaned }

/-- The length of an image with so many staged lines and owned slots (R396): the header, this die's home memory, plates and shadow
store (R12, R100, R368), and what the manual gives no layout for: the staged lines, the ownership table, and the other dies' parts
(log 91). -/
def imageLength (staged owned : Nat) : Nat := 256 + 2 ^ 36 + 2 ^ 26 + 10 * 2 ^ 20 + Config.imageRest staged owned

/-- The image of this die: every dirty line is written back first; staged lines stay staged. -/
def State.takeImage (base : DWord) (s : State) : State :=
  let s1 := s.writeBackAll
  let owned := s1.keys.filter fun (k : KeySlot) => k.slot.val != 0
  let saved : Vector (Option Stream) 4 := Vector.ofFn fun p => if (s1.pt p).disp == .parked then s1.shadow[p] else none
  let img : CheckpointImage :=
    { base := base, header := imageHeader (BitVec.ofNat 64 (imageLength s1.staged.length owned.length)) (s1.slotKey 0),
      home := s1.listedLines.map fun k => (k, s1.cipherLine k), under := s1.lineKeys, shadow := saved, plates := s1.plates,
      staged := s1.staged.map s1.stagedImage,
      owners := owned.map fun (k : KeySlot) => (k.slot, k.tenant),
      key0 := s1.slotKey 0 }
  { s1 with images := img :: s1.images.filter fun i => i.base != base }

/-- What a partition does after a restore: its saved context is the image's. -/
def Partition.restored (img : Option Stream) (t : Partition) : Partition :=
  if t.bound = false then t
  else
    match t.disp, img with
    | .idle, some _ => { t with disp := .parked }
    | .parked, none => { t with disp := .idle }
    | _, _ => t

/-- A staged line as it comes back. -/
def State.stagedBack (s : State) (l : StagedImage) : StagedLine :=
  let d := openBytes (s.slotKey (s.keyFor none l.key l.line)) l.line l.data
  { line := l.line, tag := l.tag, bytes := l.mask.map fun k => (k, d.getD k 0), bad := l.bad, key := l.key }

/-- A loaded slot as the ownership table of an image has it (R395); one that the table does not list keeps its owner. -/
def KeySlot.ownedBy (owners : List (Fin 1024 × BitVec 12)) (k : KeySlot) : KeySlot :=
  { k with tenant := ((owners.find? fun o => o.1 == k.slot).map (·.2)).getD k.tenant }

/-- An image comes back: lines dropped, slot 0's key loaded, home memory written through the raw path and read from now on under
the keys that the slots hold, plates, shadow store, staged lines and the slots' owners written. -/
def State.putImage (i : CheckpointImage) (s : State) : State :=
  let s0 := { s with
    stash := [], lineKeys := i.under, plates := i.plates, loose := [], poison := [], platePoison := [],
    keys := ⟨0, 0, i.key0⟩ :: (s.keys.filter fun (k : KeySlot) => k.slot.val != 0).map (KeySlot.ownedBy i.owners) }
  let s1 := { s0 with
    mem := i.home.foldl (fun m l => Cells.setMany m (listAt (l.1 * 128) (openBytes (s0.slotKey (s0.lineSlot l.1)) l.1 l.2))) [],
    staged := i.staged.map s0.stagedBack }
  (List.finRange 4).foldl (fun s p =>
    let keep := (s.pt p).disp == .ready || (s.pt p).disp == .translate
    { s with shadow := if keep then s.shadow else s.shadow.set p i.shadow[p] }.onPart p (Partition.restored i.shadow[p])) s1

/-- Whether every partition of the die has parked. -/
def State.allParked (s : State) : Bool := s.holder.isNone && (List.finRange 4).all fun p => (s.pt p).disp != .ending

/-- RESUME. -/
def opResume (tag : BitVec 16) (s : State) : State :=
  s.command 6 tag 4 4 fun s => { s with chkptHold := false }.answer 6 tag rsOK []
def execResume (tag : BitVec 16) (s : State) : Out := .next (opResume tag s)

/-- RETRY: the held task is requeued (R398). -/
def opRetry (tag : BitVec 16) (s : State) : State :=
  s.command 7 tag 4 4 fun s =>
    if h : s.arg 1 < 4 ∧ s.arg 0 < 16 then
      let p : PartNo := ⟨s.arg 1, h.1⟩
      if s.isThisDie = false then
        { s with free := s.free + 1 }.answer 7 tag (if Config.freeBit s.free 0 then rsOK else rsBADARG) []
      else if (s.pt p).disp = .held then (s.onPart p fun t => { t with disp := .translate }).answer 7 tag rsOK []
      else s.answer 7 tag rsBADARG []
    else s.answer 7 tag rsBADARG []
def execRetry (tag : BitVec 16) (s : State) : Out := .next (opRetry tag s)

/-! ### Other codes (R387) -/

/-- UNDEFINED_COMMAND: codes that the table does not list below 0x0100. -/
def opUndefinedCommand (o : MbxOther) (s : State) : State :=
  let c := o.code.toNat
  if (1 ≤ c ∧ c ≤ 7) ∨ 0x100 ≤ c then s else s.command c o.tag 1 4 fun s => s.answer c o.tag rsBADCMD []
def execUndefinedCommand (o : MbxOther) (s : State) : Out := .next (opUndefinedCommand o s)

/-- FIRMWARE_COMMAND: what the service answers is the firmware's (log 4). -/
def opFirmwareCommand (o : MbxOther) (s : State) : State :=
  let c := o.code.toNat
  if c < 0x100 then s
  else s.command c o.tag 1 4 fun s =>
    let a := (Config.freeAnswer s.free).toNat
    { s with free := s.free + 1 }.answer c o.tag (bits a 256 8) ((List.range 4).map fun k => BitVec.ofNat 64 (bits a (64 * k) 64))
def execFirmwareCommand (o : MbxOther) (s : State) : Out := .next (opFirmwareCommand o s)

/-! ### Completion (R385) -/

/-- Results stored into MBXARG0-3. -/
def putArgs (old : Vector DWord 4) (l : List DWord) : Vector DWord 4 := Vector.ofFn fun k => l.getD k.val old[k]

/-- What a CHKPT does as it completes, by the arguments with which it was accepted. -/
def State.doChkpt (r : MbxRun) (s : State) : State :=
  if r.given[1] = 0 then s.takeImage r.given[0]
  else
    match s.images.find? fun i => i.base == r.given[0] && i.headerOk with
    | none => s
    | some i => s.putImage i

/-- BUSY cleared, RESULT and TAG written in one update, the results in MBXARG0-3. -/
def State.publish (r : MbxRun) (s : State) : State :=
  { s with mbxBusy := false, mbxRun := none, mbxResult := BitVec.ofNat 8 r.result, mbxTag := r.tag, mbxArgs := putArgs s.mbxArgs r.args }

/-- COMMAND_COMPLETE; a CHKPT completes once every partition has parked and its copying is done. -/
def opCommandComplete (s : State) : State :=
  match s.mbxRun with
  | none => s
  | some r =>
    if r.code = 5 ∧ r.result = rsOK then (if s.allParked then (s.doChkpt r).publish r else s) else s.publish r
def execCommandComplete (s : State) : Out := .next (opCommandComplete s)

/-- MBXSTAT as it reads (R385). -/
def State.mbxstat (s : State) : DWord :=
  BitVec.ofNat 64 (b2n s.mbxBusy 0 + b2n s.mbxOverrun 1 + s.mbxResult.toNat * 2 ^ 8 + s.mbxTag.toNat * 2 ^ 16 +
    s.stage.val * 2 ^ 32 + s.fail.toNat * 2 ^ 35)

/-- MBXEVT as it reads: the oldest event and LOST. -/
def State.mbxevt (s : State) : DWord :=
  let e := s.mbxEvents.headD ⟨0, 0, 0⟩
  BitVec.ofNat 64 (e.event.toNat + e.die.toNat * 2 ^ 16 + s.mbxLost.toNat * 2 ^ 20 + e.detail.toNat * 2 ^ 32)

/-- MBXEVT_READ: the oldest event is answered and removed, and LOST is cleared. -/
def opMbxevtRead (s : State) : State :=
  if s.mailboxOpen then { s with mbxEvents := s.mbxEvents.drop 1, mbxLost := 0 }.send (.mbxEvent s.mbxevt)
  else s.send (.hostRefused (s.refusal false false))
def execMbxevtRead (s : State) : Out := .next (opMbxevtRead s)

/-! ### The register space of the IOD (R6, R7, R274-R276, R382, R385) -/

/-- The words of a link block (R276); reserved bits read as zero. -/
def Link.word0 (l : Link) : DWord :=
  BitVec.ofNat 64 (l.state.val + b2n l.detv 3 + l.dete.toNat * 2 ^ 4 + b2n l.deton 8 + l.ver.toNat * 2 ^ 16 + l.retrain.toNat * 2 ^ 32 +
    l.proto.toNat * 2 ^ 48)
def Link.word1 (l : Link) : DWord := BitVec.ofNat 64 (l.replays.toNat + l.fecfix.toNat * 2 ^ 32)
/-- The words of a laser block (R274). -/
def Laser.word0 (x : Laser) : DWord :=
  BitVec.ofNat 64 (x.bias.toNat + x.power.toNat * 2 ^ 16 + x.trend.toNat * 2 ^ 32 + x.state.val * 2 ^ 48)
def Laser.word1 (x : Laser) : DWord := BitVec.ofNat 64 (x.hours.toNat + x.eol.toNat * 2 ^ 32)

/-- The link block, and the laser block, of this die at an offset in its own blocks. -/
def State.linkWord (s : State) (o : Nat) : DWord :=
  if 14 ≤ o / 16 then 0 else if o % 16 = 0 then (s.link (o / 16)).word0 else (s.link (o / 16)).word1
def State.laserWord (s : State) (o : Nat) : DWord :=
  let x := s.laser (6 + o / 256) (o % 256 / 16)
  if 9 ≤ o % 256 / 16 then 0 else if o % 16 = 0 then x.word0 else x.word1
/-- What a 64-bit read of BAR0 returns (R6, R7, R382): MBXCMD is write-only and reads zero, and so does every address without a
register; the blocks of the IOD's other dies have no value here (log 4). What reading MBXEVT does beside is MBXEVT_READ. -/
def State.bar0 (s : State) (a : Nat) : DWord :=
  if a % 8 ≠ 0 then 0
  else if 0x08 ≤ a ∧ a ≤ 0x20 then s.mbxArgs.toList.getD (a / 8 - 1) 0
  else if a = 0x28 then s.mbxstat
  else if a = 0x30 then s.mbxevt
  else if a = 0x1_4000 then s.eolthr.zeroExtend 64
  else if 0x0_8000 ≤ a ∧ a < 0x0_8400 then
    if (a - 0x0_8000) / 0x100 = s.dieNo.toNat % 4 then s.linkWord ((a - 0x0_8000) % 0x100)
    else Config.otherDieRegister s.free ((a - 0x0_8000) / 0x100) a
  else if 0x1_0000 ≤ a ∧ a < 0x1_2000 then
    if (a - 0x1_0000) / 0x800 = s.dieNo.toNat % 4 then s.laserWord ((a - 0x1_0000) % 0x800)
    else Config.otherDieRegister s.free ((a - 0x1_0000) / 0x800) a
  else 0

/-- A write of a link block's DETV and DETE by the Regulator; a pair that is on its detour, or that waits for one, changes over
behind a FENCE on the new one, and one that was returning sends the fence of its return again (R276, R277, R280, R281). -/
def State.writeDetour (d : Nat) (v : BitVec 64) (s : State) : State :=
  let s1 := s.onLink d fun l => { l with detv := v.getLsbD 3, dete := BitVec.ofNat 4 (bits v.toNat 4 4) }
  let l := s1.link d
  (if l.state = 4 ∨ l.deton then s1.redetour d else s1).clockPaths

/-- REGISTER_WRITE. A new EOLTHR is tested against POWER with the next hourly update (R275, log 90). -/
def opRegisterWrite (o : RegWrite) (s : State) : State :=
  let links := 0x0_8000 + 0x100 * (s.dieNo.toNat % 4)
  match o.space with
  | .bar0 =>
    if s.mailboxOpen = false then s.send (.hostRefused (s.refusal false true))
    else if h : 0x08 ≤ o.addr ∧ o.addr ≤ 0x20 ∧ o.addr % 8 = 0 then
      { s with mbxArgs := s.mbxArgs.set (o.addr / 8 - 1) o.value (by omega) }
    else if o.addr = 0x28 then { s with mbxOverrun := s.mbxOverrun && !o.value.getLsbD 1 }
    else if o.addr = 0x1_4000 then { s with eolthr := o.value.truncate 16 }
    else s
  | .regulator =>
    if o.addr = 0x1_4000 then { s with eolthr := o.value.truncate 16 }
    else if links ≤ o.addr ∧ o.addr < links + 0x10 * 14 ∧ (o.addr - links) % 16 = 0 then s.writeDetour ((o.addr - links) / 16) o.value
    else (regAddr o.addr).elim s fun r => s.writeReg r o.value
def execRegisterWrite (o : RegWrite) (s : State) : Out := .next (opRegisterWrite o s)

end Sys2Proof.Machine
end

