-- ==== Sys2Proof/Machine/Plate.lean ====
section
/-!
DEFINITION. Slot 4, class M0: plate access (R247-R251).
-/
namespace Sys2Proof.Machine

/-- Bytes of an element (R44). -/
def elemBytes (t : ElemType) : Nat := t.bits / 8

/-- An M0 trap at an offset (R250, R364). -/
def plateTrap (num elem : Nat) (o : Int) : Trap := { num := num, slot := 4, elem := elem, info := lowBits 64 o }

/-- The checks of one access of n bytes at offset o, which must be a multiple of `align` (R250). -/
def State.checkPlate (s : State) (elem : Nat) (o : Int) (n align : Nat) : Option Trap :=
  if o % (align : Int) ≠ 0 then some (plateTrap trALIGN elem o)
  else if s.inShare s.part o n then none
  else some (plateTrap trPLATE elem o)

/-- The slab of element e and its number within the slab (R248). -/
def slabOf (t : ElemType) (e : Nat) : Nat := e / t.perLane / 64
def inSlab (t : ElemType) (e : Nat) : Nat := e - slabOf t e * (64 * t.perLane)

/-- The check of every active element, lowest first (R86, R250). -/
def State.checkElems (s : State) (pg : Fin 8) (t : ElemType) (off : Nat → Int) : Option Trap :=
  (activeElems (s.preg pg) t.perLane).findSome? fun e => s.checkPlate e (off e) (elemBytes t) (elemBytes t)

/-- A load of the active lanes from given offsets (R249); a word that cannot be corrected raises UNCORR (R105). -/
def State.plateLoad (vd : RegNo) (pg : Fin 8) (t : ElemType) (off : Nat → Int) (s : State) : State :=
  match s.checkElems pg t off with
  | some tr => s.takeTrap tr
  | none =>
    if (activeElems (s.preg pg) t.perLane).any fun e => s.platesBad s.part (slabOf t e) (off e).toNat (elemBytes t) then
      s.takeTrap { num := trUNCORR, slot := 4 }
    else s.putWords vd pg fun k =>
      BitVec.ofNat 32 (packElems t.bits ((List.range t.perLane).map fun j =>
        s.plateNum s.part (k / 64) (off (k * t.perLane + j)).toNat (elemBytes t)))

/-- A store of the active lanes to given offsets, in increasing element order (R249). -/
def State.plateStore (vd : RegNo) (pg : Fin 8) (t : ElemType) (off : Nat → Int) (s : State) : State :=
  match s.checkElems pg t off with
  | some tr => s.takeTrap tr
  | none =>
    s.putPlates s.part ((activeElems (s.preg pg) t.perLane).flatMap fun e =>
      (toBytes (elemBytes t) (s.elem vd t e)).mapIdx fun b x => (slabOf t e, (off e).toNat + b, x))

/-- sa + n·b (R248). -/
def State.unitOff (s : State) (sa : RegNo) (t : ElemType) (e : Nat) : Int :=
  s.offset sa + (inSlab t e * elemBytes t : Nat)
/-- sa + n·sb (R248). -/
def State.strideOff (s : State) (sa sb : RegNo) (t : ElemType) (e : Nat) : Int :=
  s.offset sa + (inSlab t e : Int) * s.offset sb
/-- sa + vb[lane], the index as N32 (R248). -/
def State.indexOff (s : State) (sa vb : RegNo) (e : Nat) : Int := s.offset sa + ((s.lane vb e).toNat : Int)

def opPld (o : M0Op) (s : State) : State := s.plateLoad o.vd o.pg o.ty (s.unitOff o.sa o.ty)
def execPld (o : M0Op) (s : State) : Out := .next (opPld o s)
def opPst (o : M0Op) (s : State) : State := s.plateStore o.vd o.pg o.ty (s.unitOff o.sa o.ty)
def execPst (o : M0Op) (s : State) : Out := .next (opPst o s)
def opPlds (o : M0sOp) (s : State) : State := s.plateLoad o.vd o.pg o.ty (s.strideOff o.sa o.sb o.ty)
def execPlds (o : M0sOp) (s : State) : Out := .next (opPlds o s)
def opPsts (o : M0sOp) (s : State) : State := s.plateStore o.vd o.pg o.ty (s.strideOff o.sa o.sb o.ty)
def execPsts (o : M0sOp) (s : State) : Out := .next (opPsts o s)
def opPgth (o : M0sOp) (s : State) : State := s.plateLoad o.vd o.pg o.ty (s.indexOff o.sa o.sb)
def execPgth (o : M0sOp) (s : State) : Out := .next (opPgth o s)
def opPsct (o : M0sOp) (s : State) : State := s.plateStore o.vd o.pg o.ty (s.indexOff o.sa o.sb)
def execPsct (o : M0sOp) (s : State) : Out := .next (opPsct o s)

/-- PLDB: a row of slab 0's share reaches every slab (R110, R250); with no active lane nothing is checked. -/
def opPldb (o : PldbOp) (s : State) : State :=
  match (activeElems (s.preg o.pg) 1).head? with
  | none => s
  | some e =>
    match s.checkPlate e (s.offset o.sa) 256 256 with
    | some tr => s.takeTrap tr
    | none =>
      if s.platesBad s.part 0 (s.offset o.sa).toNat 256 then s.takeTrap { num := trUNCORR, slot := 4 }
      else s.putWords o.vd o.pg fun k => BitVec.ofNat 32 (s.plateNum s.part 0 ((s.offset o.sa).toNat + 4 * (k % 64)) 4)
def execPldb (o : PldbOp) (s : State) : Out := .next (opPldb o s)

/-- PFILL: the low word of sc over sb bytes of every slab's share (R249, R250). -/
def opPfill (o : PfillOp) (s : State) : State :=
  let a := s.offset o.sa
  let n := (s.sreg o.sb).toNat
  if a % 4 ≠ 0 ∨ n % 4 ≠ 0 then s.takeTrap (plateTrap trALIGN 0 a)
  else if n = 0 then s
  else if s.inShare s.part a n then
    let c := (s.sreg o.sc).toNat
    let p := s.part
    s.putEverySlab p a.toNat n fun pl x => Cells.blit pl x n fun k => BitVec.ofNat 8 (bits c (8 * (k % 4)) 8)
  else s.takeTrap (plateTrap trPLATE 0 a)
def execPfill (o : PfillOp) (s : State) : Out := .next (opPfill o s)

end Sys2Proof.Machine
end

