-- ==== Sys2Proof/Machine/ScalarFp.lean ====
section
/-!
DEFINITION. Slot 1, class S: scalar floating point (R153-R156).
-/
namespace Sys2Proof.Machine

/-- The FP32 code in bits [31:0] of a scalar (R153). -/
def State.f32 (s : State) (r : RegNo) : Nat := (s.sreg r).toNat % 2 ^ 32
/-- Writes an FP32 result with its flags: bits [63:32] zero (R153). -/
def State.putF32 (rd : RegNo) (r : Nat × Flags) (s : State) : State :=
  (s.setS rd (BitVec.ofNat 64 (r.1 % 2 ^ 32))).raise r.2

def opF3 (f : RoundMode → Nat → Nat → Nat × Flags) (o : F3Op) (s : State) : State :=
  s.putF32 o.rd (f o.rm (s.f32 o.ra) (s.f32 o.rb))
def opF4 (negP negC : Bool) (o : F4Op) (s : State) : State :=
  s.putF32 o.rd (fmtF32.fmaOp o.rm false negP negC (s.f32 o.ra) (s.f32 o.rb) (s.f32 o.rc))
def opFcmp (holds : FVal → FVal → Bool) (fl : FVal → FVal → Flags) (o : A3Op) (s : State) : State :=
  let a := fmtF32.decode (s.f32 o.ra)
  let b := fmtF32.decode (s.f32 o.rb)
  (s.setS o.rd (if holds a b then 1 else 0)).raise (fl a b)

def execFadd (o : F3Op) (s : State) : Out := .next (opF3 (fun rm => fmtF32.addOp rm false) o s)
def execFsub (o : F3Op) (s : State) : Out := .next (opF3 (fun rm => fmtF32.subOp rm false) o s)
def execFmul (o : F3Op) (s : State) : Out := .next (opF3 (fun rm => fmtF32.mulOp rm false) o s)
def execFdiv (o : F3Op) (s : State) : Out := .next (opF3 (fun rm => fmtF32.divOp rm false) o s)
def opFsqrt (o : F2Op) (s : State) : State := s.putF32 o.rd (fmtF32.sqrtOp o.rm false (s.f32 o.ra))
def execFsqrt (o : F2Op) (s : State) : Out := .next (opFsqrt o s)

def opFmm (wantMax : Bool) (o : A3Op) (s : State) : State :=
  s.putF32 o.rd (fmtF32.minMax wantMax (s.f32 o.ra) (s.f32 o.rb))
def execFmin (o : A3Op) (s : State) : Out := .next (opFmm false o s)
def execFmax (o : A3Op) (s : State) : Out := .next (opFmm true o s)
def opFsign (g : Nat → Nat) (o : A2Op) (s : State) : State := s.putF32 o.rd (signOp fmtF32 g (s.f32 o.ra))
def execFabs (o : A2Op) (s : State) : Out := .next (opFsign (absCode fmtF32) o s)
def execFneg (o : A2Op) (s : State) : Out := .next (opFsign (negCode fmtF32) o s)
def execFeq (o : A3Op) (s : State) : Out := .next (opFcmp FVal.eq eqFlags o s)
def execFlt (o : A3Op) (s : State) : Out := .next (opFcmp FVal.lt ltFlags o s)
def execFle (o : A3Op) (s : State) : Out := .next (opFcmp (fun a b => a.lt b || a.eq b) ltFlags o s)
def opFclass (o : A2Op) (s : State) : State := s.setS o.rd (BitVec.ofNat 64 (classOf (s.f32 o.ra)))
def execFclass (o : A2Op) (s : State) : Out := .next (opFclass o s)

def execFmadd (o : F4Op) (s : State) : Out := .next (opF4 false false o s)
def execFmsub (o : F4Op) (s : State) : Out := .next (opF4 false true o s)
def execFnmadd (o : F4Op) (s : State) : Out := .next (opF4 true false o s)

/-- FCVTIF reads sa[31:0] for a 32-bit type, all of sa for a 64-bit type (R156). -/
def opFcvtif (o : FcvtOp) (s : State) : State :=
  let a := (s.sreg o.ra).toNat
  let x : Int := match o.ity with
    | .i32 => signedOf 32 a
    | .n32 => (a % 2 ^ 32 : Nat)
    | .i64 => signedOf 64 a
    | .n64 => (a : Nat)
  s.putF32 o.rd (ofInt fmtF32 o.rm 0 false x)
def execFcvtif (o : FcvtOp) (s : State) : Out := .next (opFcvtif o s)

/-- FCVTFI writes sign-extended from I32, zero-extended from N32 (R156). -/
def opFcvtfi (o : FcvtOp) (s : State) : State :=
  let v := fmtF32.decode (s.f32 o.ra)
  let r := match o.ity with
    | .i32 => toInt true 32 o.rm 0 v
    | .n32 => toInt false 32 o.rm 0 v
    | .i64 => toInt true 64 o.rm 0 v
    | .n64 => toInt false 64 o.rm 0 v
  let w : DWord := match o.ity with
    | .i32 => (BitVec.ofNat 32 r.1).signExtend 64
    | _ => BitVec.ofNat 64 r.1
  (s.setS o.rd w).raise r.2
def execFcvtfi (o : FcvtOp) (s : State) : Out := .next (opFcvtfi o s)

end Sys2Proof.Machine
end

