-- ==== Sys2Proof/Machine/Security.lean ====
section
/-!
DEFINITION. Keys, identity, alarms, power and start-up (R16, R97, R98, R388-R394, R397).
-/
namespace Sys2Proof.Machine

/-! ### Identity (R390) -/

/-- What is measured beside the firmware, in numbers: the slab map, the version set, the owner of each slot; nothing for an index
that is not of these. -/
def State.measured (s : State) (n : Nat) : List Nat :=
  if n = 4 then s.slabMap.flatMap fun m => [m.1, m.2]
  else if n = 5 then versionSet.map (·.toNat)
  else (List.range 1023).map fun k => (s.keys.find? fun x => x.slot.val == k + 1).elim 0 fun x => x.tenant.toNat + 1

/-- SPDM_REQUEST: measurements 1-3 are digests of the verified firmware, 4-6 of what the die holds, in a form that the manual does not
give; what else is answered the model does not know (log 4, 92). -/
def opSpdmRequest (r : SpdmRequest) (s : State) : State :=
  if s.powered = false then s
  else
    let any : List (BitVec 512) := [Config.freeAnswer s.free]
    let s1 := { s with free := s.free + 1 }
    match r with
    | .certificate => s1.send (.spdm any)
    | .measurement n =>
      s1.send (.spdm (if n = 0 ∨ 6 < n then []
        else if 4 ≤ n then [Config.measure n (s.measured n)]
        else match s.digests[n - 1]? with
          | some d => [d]
          | none => any))
    | .openSession => { s1 with session := true }.send (.spdm any)
    | .closeSession => { s1 with session := false }.send (.spdm [])
def execSpdmRequest (r : SpdmRequest) (s : State) : Out := .next (opSpdmRequest r s)

/-! ### Key loading (R97, R98, R391) -/

/-- LOADKEY: only in a secured session, never for slot 0. -/
def opLoadkey (o : LoadkeyMsg) (s : State) : State :=
  if s.session && s.powered && s.alarm == 0 && o.slot.val != 0 && s.loading.isNone then
    { s with loading := some ⟨o.slot, o.tenant, o.key⟩ }
  else s.send (.keyLoaded o.slot false)
def execLoadkey (o : LoadkeyMsg) (s : State) : Out := .next (opLoadkey o s)

/-- The pages of a bound partition's queue headers and rings, which are pinned (R120). -/
def State.pinned (s : State) (p : PartNo) : List Nat :=
  if (s.pt p).bound then
    (headersOf (s.pt p).bind).flatMap fun h =>
      h :: (s.queueAt p h).elim [] fun v => pageStarts v.ring (64 * v.size)
  else []

/-- Whether an extent of a dispatched task, or a pinned page, names a key slot (R98). -/
def State.slotUsed (s : State) (slot : Fin 1024) : Bool :=
  (List.finRange 4).any fun p =>
    ((s.taskOf p).any fun t => t.extents.any fun x => x.key == slot.val) ||
      (s.pinned p).any fun va => s.vkey p va true false == some slot.val

/-- Every line under a slot is written back and dropped (R98). -/
def State.dropSlot (slot : Fin 1024) (s : State) : State :=
  let s1 := (s.stash.filter fun l => l.key == slot.val).foldl (fun s l => s.leave l) s
  { s1 with stash := s1.stash.filter fun l => l.key != slot.val }

/-- The lines that HBM4E holds under a slot read as the new key deciphers them (R97, R98), also those of which the stash has a copy
that was filled under another slot. -/
def State.reread (slot : Fin 1024) (key : BitVec 512) (s : State) : State :=
  let old := s.slotKey slot.val
  if old = key then s
  else
    let lines := (s.lineKeys.filter fun (c : Nat × BitVec 10) => c.2.toNat == slot.val && !s.stash.any fun l => l.line == c.1).map (·.1)
    let again (line : Nat) (l : List Byte) : List Byte := openBytes key line (sealBytes old line l)
    { s with
      mem := lines.foldl (fun m k => Cells.setMany m (listAt (k * 128) (again k (s.lineBytes k)))) s.mem,
      stash := s.stash.map fun l =>
        if s.lineSlot l.line = slot.val ∧ l.image ≠ [] then { l with image := again l.line l.image } else l }

/-- The new key; an all-zero key leaves the slot empty. -/
def State.putKey (k : KeySlot) (s : State) : State :=
  let s1 := s.reread k.slot k.key
  let rest := s1.keys.filter fun x => x.slot != k.slot
  { s1 with keys := if k.key = 0 then rest else k :: rest }

/-- LOADKEY_COMPLETE. -/
def opLoadkeyComplete (s : State) : State :=
  match s.loading with
  | none => s
  | some k =>
    if 3 ≤ s.stage.val ∧ s.slotUsed k.slot = false then
      ({ s with loading := none }.dropSlot k.slot |>.putKey k).send (.keyLoaded k.slot true)
    else s
def execLoadkeyComplete (s : State) : Out := .next (opLoadkeyComplete s)

/-! ### Alarms (R393, R394, R397) -/

/-- Level 1: the running mailbox command ends with ALARM, a LOADKEY that runs leaves its slot empty. -/
def State.fence (s : State) : State :=
  let s1 := match s.mbxRun with
    | none => s
    | some r => s.publish { r with result := rsALARM, args := [] }
  match s1.loading with
  | none => s1
  | some k => { s1 with loading := none }.putKey { k with key := 0 }

/-- Level 3: keys, stash, plates and shadow stores are zeroed; home memory is lost with the keys. -/
def State.zeroise (s : State) : State :=
  { s with keys := [], stash := [], plates := [], shadow := Vector.replicate 4 none, mem := [],
           staged := [] }

/-- The level rises, never falls; the levels act cumulatively. -/
def State.raiseAlarm (level : Fin 4) (s : State) : State :=
  if level ≤ s.alarm then s
  else
    let s1 := ({ s with alarm := level }.fence).event 0x0009 level.val
    if level = 3 then s1.zeroise else s1

/-- ALARM_TRIGGER. -/
def opAlarmTrigger (level : Fin 4) (s : State) : State := s.raiseAlarm level
def execAlarmTrigger (level : Fin 4) (s : State) : Out := .next (opAlarmTrigger level s)

/-- THERMAL_TRIP. -/
def opThermalTrip (s : State) : State := s.raiseAlarm 2
def execThermalTrip (s : State) : Out := .next (opThermalTrip s)

/-- THERMAL_CAP: only empty issue cycles follow. -/
def opThermalCap (s : State) : State := { s with cap := true }
def execThermalCap (s : State) : Out := .next (opThermalCap s)
/-- THERMAL_CAP_RELEASE. -/
def opThermalCapRelease (s : State) : State := { s with cap := false }
def execThermalCapRelease (s : State) : Out := .next (opThermalCapRelease s)

/-! ### Power and start-up (R388, R389) -/

/-- A laser after a loss of power: HOURS, TREND and the power history survive (R274), and so does it that its event has been
raised (R275). -/
def Laser.kept (x : Laser) (spare : Bool) : Laser :=
  { Laser.cleared spare with hours := x.hours, trend := x.trend, history := x.history, raised := x.raised }

/-- The machine without power: what survives is outside it, or in the lasers, the fuses and the firmware store; and the die stays
where it stands in the cube. -/
def State.unpowered (s : State) : State :=
  { State.reset with
    powered := false, lasers := Vector.ofFn fun k => (s.lasers[k]).kept (decide (k.val % 9 = 8)), images := s.images, fw := s.fw,
    node := s.node,
    agenda := s.agenda, outbox := s.outbox, free := s.free }

/-- POWER_LOSS. -/
def opPowerLoss (s : State) : State := s.unpowered
def execPowerLoss (s : State) : Out := .next (opPowerLoss s)

/-- POWER_GOOD starts stage 1. -/
def opPowerGood (s : State) : State := if s.powered then s else { s with powered := true, stage := 1 }
def execPowerGood (s : State) : Out := .next (opPowerGood s)

/-- Whether a slab map binds 16 logical slabs by R13: good halves, west and east, each in one slab, on neighbouring sites. -/
def slabMapOk (l : List (Nat × Nat)) (bad : List Nat) : Bool :=
  l.length == 16 && (l.map (·.1) ++ l.map (·.2)).Nodup &&
    l.all fun m => decide (m.1 < 36) && decide (m.2 < 36) && m.1 % 2 == 0 && m.2 % 2 == 1 && !bad.contains m.1 &&
      !bad.contains m.2 && decide (halfSite m.1 ≤ halfSite m.2 + 1) && decide (halfSite m.2 ≤ halfSite m.1 + 1)

/-- The six ways to give the three escapement sites their roles (R17). -/
def rolesOf (k : Fin 6) : Vector SiteRole 3 :=
  match k with
  | 0 => #v[.lead, .shadow, .spare]
  | 1 => #v[.lead, .spare, .shadow]
  | 2 => #v[.shadow, .lead, .spare]
  | 3 => #v[.shadow, .spare, .lead]
  | 4 => #v[.spare, .lead, .shadow]
  | 5 => #v[.spare, .shadow, .lead]

/-- The end of stage 2: HBM4E trained and scrubbed, the slab map built, a fresh device key in slot 0, every other slot empty, and
the escapement sites given their roles, of which the Regulator chooses the order (R17). Stage 3 begins: the links of the cube's dimensions train, and the die with
the lowest node id of that cube is to be the time master (R284, R285). -/
def State.bootDie (o : StageOutcome) (s : State) : State :=
  let s1 : State := { s with
    stage := 3, mem := [], lineKeys := [], slabMap := o.slabMap, badHalves := o.badHalves, keys := [⟨0, 0, o.deviceKey⟩],
    sites := (rolesOf o.roles).map some, master := s.node &&& ~~~o.trained,
    links := Vector.ofFn fun d => { Link.cleared with state := if o.trained.getLsbD d.val then 1 else 0 } }
  (bitList 14 o.trained.toNat).foldl (fun s d => s.sendTrain d) s1

/-- Whether a link of stage 3 comes up: it has trained, and the two ends have found a version (R284). -/
def comesUp (o : StageOutcome) (dead : BitVec 14) (d : Fin 14) (l : Link) : Bool :=
  !dead.getLsbD d.val && l.ver != 0 && (l.up || (l.state == 1 && o.trained.getLsbD d.val))
/-- The detour entry that the Regulator writes for a dimension: another dimension that has trained (R277). -/
def detourFor (o : StageOutcome) (up : BitVec 14) (d : Fin 14) : Option DimNo :=
  ((o.detours.find? fun x => x.1 == d).map (·.2)).filter fun e => e != d && up.getLsbD e.val
/-- The end of stage 3: trained dimensions are up with their detour entries, a dead link's traffic takes its detour (R277, R280),
and the time master is the lowest node id of the trained cube (R285). -/
def State.trainLinks (o : StageOutcome) (dead : BitVec 14) (s : State) : State :=
  let up := BitVec.ofNat 14 ((List.finRange 14).foldl (fun n d => if comesUp o dead d s.links[d] then n + 2 ^ d.val else n) 0)
  let l (d : Fin 14) : Link :=
    let l := s.links[d]
    let e := detourFor o up d
    { l with
      state := if up.getLsbD d.val then (if l.up then l.state else 2) else if dead.getLsbD d.val then 4 else 0,
      fallen := !up.getLsbD d.val && dead.getLsbD d.val,
      ver := if up.getLsbD d.val then l.ver else 0, credits := freshCredits d.val, detv := e.isSome,
      dete := BitVec.ofNat 4 (e.elim 0 (·.val)) }
  ({ s with stage := 4, links := Vector.ofFn l, trained := up, master := s.node &&& ~~~up }).changeovers fun _ l => l.state == 4

/-- The failure codes that a stage can set (R389). -/
def stageFails (stage : Fin 8) (fail : BitVec 8) : Bool :=
  (stage == 1 && fail == 0x01) || (stage == 2 && (fail == 0x02 || fail == 0x03)) || (stage == 3 && fail == 0x04)

/-- STAGE_ADVANCE. A stage that fails stays where it is, but for stage 3, whose untrained links are dead in stage 4. -/
def opStageAdvance (o : StageOutcome) (s : State) : State :=
  if s.powered = false ∨ s.fail ≠ 0 ∨ s.stage.val = 0 ∨ 4 ≤ s.stage.val then s
  else if o.fail ≠ 0 then
    if stageFails s.stage o.fail = false then s
    else if s.stage = 3 then { s with fail := o.fail }.trainLinks o (~~~o.trained)
    else { s with fail := o.fail }
  else if s.stage = 1 then
    { s with stage := 2, digests := o.digests, node := o.node, bucketCfg := Vector.replicate 4 bucketReset, buckets := [] }
  else if s.stage = 2 then (if slabMapOk o.slabMap o.badHalves then s.bootDie o else { s with fail := 0x02 })
  else s.trainLinks o 0
def execStageAdvance (o : StageOutcome) (s : State) : Out := .next (opStageAdvance o s)

/-- LINK_TRAIN_TIMEOUT: stage 4 is entered with the untrained dimensions dead. -/
def opLinkTrainTimeout (o : TrainTimeout) (s : State) : State :=
  if s.powered = false ∨ s.fail ≠ 0 ∨ s.stage ≠ 3 then s else { s with fail := 0x04 }.trainLinks o.rest o.dead
def execLinkTrainTimeout (o : TrainTimeout) (s : State) : Out := .next (opLinkTrainTimeout o s)

/-- FIRMWARE_UPDATE_SERVICE: a new image for the next start. -/
def opFirmwareUpdateService (digest : BitVec 512) (s : State) : State := if s.powered then { s with fw := digest } else s
def execFirmwareUpdateService (digest : BitVec 512) (s : State) : Out := .next (opFirmwareUpdateService digest s)

end Sys2Proof.Machine
end

