-- ==== Sys2Proof/Machine/StreamUnits.lean ====
section
/-!
DEFINITION. Stream registers: SBIND, SREL, VQPOP, VQPUSH and the stream units' fetches, landings and writes (R112-R117,
R212, R258).
-/
namespace Sys2Proof.Machine

def Stream.qreg (x : Stream) (n : Fin 8) : Option QReg := x.q[n]
def State.setQ (n : Fin 8) (q : Option QReg) (s : State) : State :=
  s.onStream fun x => { x with q := x.q.set n q }

/-- Release (R258): an outbound stream's items are written, an inbound stream's are discarded. -/
def State.releaseQ (n : Fin 8) (s : State) : State :=
  match s.stream.qreg n with
  | none => s
  | some q => (if q.outbound then s.drainQ s.part q else s).setQ n none

/-- The bounding box of a non-empty pattern (R114). -/
def QReg.low (q : QReg) : Int :=
  (q.offset : Int) + ((List.range 4).map fun k => min 0 (((q.count k : Int) - 1) * q.stride k)).foldl (· + ·) 0
def QReg.high (q : QReg) : Int :=
  (q.offset : Int) + ((List.range 4).map fun k => max 0 (((q.count k : Int) - 1) * q.stride k)).foldl (· + ·) 0 +
    (15 * 64 * q.slabStride + 256 : Nat)

/-- The checks of R114: ALIGN, then the box as one access; an inbound pattern must not read a LAND window. ALIGN is raised for
an empty pattern too, and reports the address of item 0 whichever field is misaligned (log 67). -/
def State.checkPattern (s : State) (q : QReg) : Option Trap :=
  let t := s.stream.theTask
  let win := t.win q.win
  if q.offset % 64 ≠ 0 ∨ (List.range 4).any fun k => q.stride k % 64 != 0 then
    some { num := trALIGN, slot := 5, win := q.win, info := lowBits 64 (win.va q.offset) }
  else if q.total = 0 then none
  else
    match t.checkAccess q.win q.low (q.high - q.low).toNat (if q.outbound then .store else .load) with
    | some tr => some { tr with slot := 5 }
    | none =>
      if !q.outbound && win.attr == .land then
        some { num := trWINDOW, slot := 5, win := q.win, cause := 1, info := lowBits 64 (win.va q.low) }
      else none

/-- SBIND (R258). The stores of the stream that its fetches are to include have been performed first: atomics, and items
pushed to outbound streams (R117, R256). -/
def opSbind (o : SbindOp) (s : State) : State :=
  s.m1word fun s =>
    let x := s.stream
    let r (j : Nat) : DWord := x.e.toArray.getD (16 + 4 * o.k.val + j) 0
    let q : QReg := { pb := r 0, pc := r 1, ps1 := r 2, ps2 := r 3, moved := 0, fetched := 0, flight := [], items := [] }
    let t := x.theTask
    if x.pure ∧ q.outbound ∧ (t.win q.win).isOut = false then s.takeTrap { num := trPURITY, slot := 5 }
    else
      match s.checkPattern q with
      | some tr => s.takeTrap tr
      | none =>
        match if q.total = 0 then none else t.missing q.win ((t.win q.win).va q.low).toNat (q.high - q.low).toNat with
        | some a => s.holdFor (.lazyPage q.win a)
        | none => if s.accessesDone s.part then ((s.releaseQ o.q).setQ o.q (some q)).spoil else s.holdFor .stall
def execSbind (o : SbindOp) (s : State) : Out := .next (opSbind o s)

/-- Whether an item of an outbound stream has to wait for an earlier atomic of the stream (R312). -/
def State.releaseBlocked (s : State) (n : Fin 8) : Bool :=
  (s.stream.qreg n).any fun q => q.outbound && (q.items.mapIdx fun j it => (q.fetched + j, it)).any fun x =>
    s.pendingOn s.part (s.itemBytes s.part q x.1 x.2)

/-- SREL. -/
def opSrel (q : Fin 8) (s : State) : State :=
  if s.outboxFull || s.releaseBlocked q then s.holdFor .stall else (s.releaseQ q).spoil
def execSrel (q : Fin 8) (s : State) : Out := .next (opSrel q s)

def State.qend (pipe1 : Bool) (s : State) : State := s.takeTrap { num := trQEND, slot := vSlot pipe1 }

/-- VQPOP: the oldest landed item goes to the active lanes (R116, R212). -/
def opVqpop (o : VqOp) (s : State) : State :=
  match s.stream.qreg o.q with
  | none => s.qend o.pipe1
  | some q =>
    if q.outbound ∨ q.total ≤ q.moved then s.qend o.pipe1
    else
      match q.items with
      | [] => s.holdFor .stall
      | it :: rest =>
        if it.bad then s.takeTrap { num := trUNCORR, slot := vSlot o.pipe1 }
        else ((s.putWords o.v o.pg fun k => Cells.get it.data k).setQ o.q
          (some { q with moved := q.moved + 1, items := rest })).spoil
def execVqpop (o : VqOp) (s : State) : Out := .next (opVqpop o s)

/-- VQPUSH: va with its active lanes becomes the next item (R116, R212). -/
def opVqpush (o : VqOp) (s : State) : State :=
  if starved o.hold s.stream.latchV[pipeNo o.pipe1] then s.takeTrap { num := trILLEGAL, slot := vSlot o.pipe1 }
  else
    match s.stream.qreg o.q with
    | none => s.qend o.pipe1
    | some q =>
      if q.outbound = false ∨ q.total ≤ q.moved then s.qend o.pipe1
      else if 4 ≤ q.items.length then s.holdFor .stall
      else
        let it : QItem := ⟨Cells.block 0 1024 (s.srcV o.pipe1 o.hold false o.v), s.preg o.pg, false⟩
        ((s.latchVec o.pipe1 o.hold o.v 0).setQ o.q (some { q with moved := q.moved + 1, items := q.items ++ [it] })).spoil
def execVqpush (o : VqOp) (s : State) : Out := .next (opVqpush o s)

/-! ### The stream units -/

/-- The bytes of item n as the stream's path sees them when it is fetched (R113, R117): its chunks are read together, so that
no two of them differ about a store of the stream (log 68). -/
def State.fetchItem (s : State) (p : PartNo) (q : QReg) (n : Nat) : QItem :=
  let t := (s.taskOf p).getD Task.empty
  { data := Cells.block 0 1024 fun k =>
      BitVec.ofNat 32 (ofBytes ((List.range 4).map fun b => s.seen (some p) .st (q.phys t n (k / 64) (4 * (k % 64) + b)))),
    act := BitVec.allOnes 1024,
    bad := (List.range 16).any fun slab => (List.range 256).any fun b => s.poisoned (q.phys t n slab b) }

/-- Whether an inbound stream holds a permit (R116). -/
def QReg.mayFetch (q : QReg) : Bool :=
  !q.outbound && decide (q.fetched < q.total) && decide (q.flight.length + q.items.length < 4)

/-- The physical addresses of item n. -/
def State.itemPhys (s : State) (p : PartNo) (q : QReg) (n : Nat) : List Nat :=
  let t := (s.taskOf p).getD Task.empty
  (List.range 16).flatMap fun slab => (List.range 256).map fun b => q.phys t n slab b

/-- STREAM_ITEM_FETCH: the next item of an inbound stream is read under a permit, through the stash (R100). -/
def opStreamItemFetch (n : Fin 8) (s : State) : State :=
  match s.stream.qreg n with
  | none => s
  | some q =>
    if q.mayFetch then
      let it := s.fetchItem s.part q q.fetched
      ((s.setQ n (some { q with fetched := q.fetched + 1, flight := q.flight ++ [it] })).draw).touchAll s.part
        (s.itemPhys s.part q q.fetched)
    else s
def execStreamItemFetch (q : Fin 8) (s : State) : Out := .next (opStreamItemFetch q s)

/-- STREAM_ITEM_LAND: the oldest item in flight lands in its stream rows. -/
def opStreamItemLand (n : Fin 8) (s : State) : State :=
  match s.stream.qreg n with
  | none => s
  | some q =>
    match q.flight with
    | [] => s
    | it :: rest => s.setQ n (some { q with flight := rest, items := q.items ++ [it] })
def execStreamItemLand (q : Fin 8) (s : State) : Out := .next (opStreamItemLand q s)

/-- STREAM_ITEM_WRITE: the oldest pushed item is written to its addresses, after the earlier atomics on its bytes. -/
def opStreamItemWrite (n : Fin 8) (s : State) : State :=
  match s.stream.qreg n with
  | none => s
  | some q =>
    if q.outbound then
      match q.items with
      | [] => s
      | it :: rest =>
        if s.itemBlocked s.part q then s
        else (s.writeItem s.part q q.fetched it).setQ n (some { q with fetched := q.fetched + 1, items := rest })
    else s
def execStreamItemWrite (q : Fin 8) (s : State) : Out := .next (opStreamItemWrite q s)

end Sys2Proof.Machine
end

