-- ==== Sys2Proof/Machine/Dispatch.lean ====
section
/-!
DEFINITION. Which meaning each instruction has: one arm per constructor, each a direct call of its meaning.
-/
namespace Sys2Proof.Machine

def exec (i : Instr) (s : State) : Host.Outcome State Fault Refusal :=
  match i with
  -- every slot (R35)
  | .nop => Sys2Proof.Machine.execNop s
  -- slot 0, class B (R49)
  | .br disp => Sys2Proof.Machine.execBr disp s
  | .brc o => Sys2Proof.Machine.execBrc o s
  | .brv o => Sys2Proof.Machine.execBrv o s
  | .call disp => Sys2Proof.Machine.execCall disp s
  | .callr ra => Sys2Proof.Machine.execCallr ra s
  | .ret => Sys2Proof.Machine.execRet s
  | .jr ra => Sys2Proof.Machine.execJr ra s
  | .loop o => Sys2Proof.Machine.execLoop o s
  | .loopi o => Sys2Proof.Machine.execLoopi o s
  | .done => Sys2Proof.Machine.execDone s
  | .seg k => Sys2Proof.Machine.execSeg k s
  | .rdz mask => Sys2Proof.Machine.execRdz mask s
  | .sys o => Sys2Proof.Machine.execSys o s
  | .park => Sys2Proof.Machine.execPark s
  | .unstub => Sys2Proof.Machine.execUnstub s
  | .trap imm => Sys2Proof.Machine.execTrap imm s
  | .brk imm => Sys2Proof.Machine.execBrk imm s
  | .mfc o => Sys2Proof.Machine.execMfc o s
  | .mtc o => Sys2Proof.Machine.execMtc o s
  | .tick sc => Sys2Proof.Machine.execTick sc s
  | .syncp => Sys2Proof.Machine.execSyncp s
  | .syncc sc => Sys2Proof.Machine.execSyncc sc s
  | .barr o => Sys2Proof.Machine.execBarr o s
  | .bwait o => Sys2Proof.Machine.execBwait o s
  | .bset o => Sys2Proof.Machine.execBset o s
  | .fence mask => Sys2Proof.Machine.execFence mask s
  | .waitid o => Sys2Proof.Machine.execWaitid o s
  -- slot 1, class S (R50)
  | .add o => Sys2Proof.Machine.execAdd o s
  | .sub o => Sys2Proof.Machine.execSub o s
  | .and o => Sys2Proof.Machine.execAnd o s
  | .or o => Sys2Proof.Machine.execOr o s
  | .xor o => Sys2Proof.Machine.execXor o s
  | .andn o => Sys2Proof.Machine.execAndn o s
  | .sll o => Sys2Proof.Machine.execSll o s
  | .srl o => Sys2Proof.Machine.execSrl o s
  | .sra o => Sys2Proof.Machine.execSra o s
  | .slt o => Sys2Proof.Machine.execSlt o s
  | .sltu o => Sys2Proof.Machine.execSltu o s
  | .seq o => Sys2Proof.Machine.execSeq o s
  | .min o => Sys2Proof.Machine.execMin o s
  | .max o => Sys2Proof.Machine.execMax o s
  | .minu o => Sys2Proof.Machine.execMinu o s
  | .maxu o => Sys2Proof.Machine.execMaxu o s
  | .mul o => Sys2Proof.Machine.execMul o s
  | .mulh o => Sys2Proof.Machine.execMulh o s
  | .mulhu o => Sys2Proof.Machine.execMulhu o s
  | .div o => Sys2Proof.Machine.execDiv o s
  | .divu o => Sys2Proof.Machine.execDivu o s
  | .rem o => Sys2Proof.Machine.execRem o s
  | .remu o => Sys2Proof.Machine.execRemu o s
  | .clz o => Sys2Proof.Machine.execClz o s
  | .ctz o => Sys2Proof.Machine.execCtz o s
  | .popc o => Sys2Proof.Machine.execPopc o s
  | .sext8 o => Sys2Proof.Machine.execSext8 o s
  | .sext16 o => Sys2Proof.Machine.execSext16 o s
  | .sext32 o => Sys2Proof.Machine.execSext32 o s
  | .zext8 o => Sys2Proof.Machine.execZext8 o s
  | .zext16 o => Sys2Proof.Machine.execZext16 o s
  | .zext32 o => Sys2Proof.Machine.execZext32 o s
  | .sel o => Sys2Proof.Machine.execSel o s
  | .addi o => Sys2Proof.Machine.execAddi o s
  | .andi o => Sys2Proof.Machine.execAndi o s
  | .ori o => Sys2Proof.Machine.execOri o s
  | .xori o => Sys2Proof.Machine.execXori o s
  | .slli o => Sys2Proof.Machine.execSlli o s
  | .srli o => Sys2Proof.Machine.execSrli o s
  | .srai o => Sys2Proof.Machine.execSrai o s
  | .slti o => Sys2Proof.Machine.execSlti o s
  | .sltiu o => Sys2Proof.Machine.execSltiu o s
  | .sui o => Sys2Proof.Machine.execSui o s
  | .addpc o => Sys2Proof.Machine.execAddpc o s
  | .ldarg o => Sys2Proof.Machine.execLdarg o s
  | .rdi o => Sys2Proof.Machine.execRdi o s
  | .fadd o => Sys2Proof.Machine.execFadd o s
  | .fsub o => Sys2Proof.Machine.execFsub o s
  | .fmul o => Sys2Proof.Machine.execFmul o s
  | .fdiv o => Sys2Proof.Machine.execFdiv o s
  | .fsqrt o => Sys2Proof.Machine.execFsqrt o s
  | .fmin o => Sys2Proof.Machine.execFmin o s
  | .fmax o => Sys2Proof.Machine.execFmax o s
  | .fabs o => Sys2Proof.Machine.execFabs o s
  | .fneg o => Sys2Proof.Machine.execFneg o s
  | .feq o => Sys2Proof.Machine.execFeq o s
  | .flt o => Sys2Proof.Machine.execFlt o s
  | .fle o => Sys2Proof.Machine.execFle o s
  | .fclass o => Sys2Proof.Machine.execFclass o s
  | .fmadd o => Sys2Proof.Machine.execFmadd o s
  | .fmsub o => Sys2Proof.Machine.execFmsub o s
  | .fnmadd o => Sys2Proof.Machine.execFnmadd o s
  | .fcvtif o => Sys2Proof.Machine.execFcvtif o s
  | .fcvtfi o => Sys2Proof.Machine.execFcvtfi o s
  -- slots 2 and 3, class V (R51)
  | .vadd o => Sys2Proof.Machine.execVadd o s
  | .vsub o => Sys2Proof.Machine.execVsub o s
  | .vmul o => Sys2Proof.Machine.execVmul o s
  | .vfma o => Sys2Proof.Machine.execVfma o s
  | .vfms o => Sys2Proof.Machine.execVfms o s
  | .vmin o => Sys2Proof.Machine.execVmin o s
  | .vmax o => Sys2Proof.Machine.execVmax o s
  | .vabs o => Sys2Proof.Machine.execVabs o s
  | .vneg o => Sys2Proof.Machine.execVneg o s
  | .vand o => Sys2Proof.Machine.execVand o s
  | .vor o => Sys2Proof.Machine.execVor o s
  | .vxor o => Sys2Proof.Machine.execVxor o s
  | .vshl o => Sys2Proof.Machine.execVshl o s
  | .vshr o => Sys2Proof.Machine.execVshr o s
  | .vdiv o => Sys2Proof.Machine.execVdiv o s
  | .vrcp o => Sys2Proof.Machine.execVrcp o s
  | .vrsqrt o => Sys2Proof.Machine.execVrsqrt o s
  | .vsqrt o => Sys2Proof.Machine.execVsqrt o s
  | .vexp2 o => Sys2Proof.Machine.execVexp2 o s
  | .vlog2 o => Sys2Proof.Machine.execVlog2 o s
  | .vtanh o => Sys2Proof.Machine.execVtanh o s
  | .vsigm o => Sys2Proof.Machine.execVsigm o s
  | .vsin o => Sys2Proof.Machine.execVsin o s
  | .vcos o => Sys2Proof.Machine.execVcos o s
  | .vcmpeq o => Sys2Proof.Machine.execVcmpeq o s
  | .vcmpne o => Sys2Proof.Machine.execVcmpne o s
  | .vcmplt o => Sys2Proof.Machine.execVcmplt o s
  | .vcmple o => Sys2Proof.Machine.execVcmple o s
  | .vsel o => Sys2Proof.Machine.execVsel o s
  | .vcvt o => Sys2Proof.Machine.execVcvt o s
  | .vpack o => Sys2Proof.Machine.execVpack o s
  | .vunpk o => Sys2Proof.Machine.execVunpk o s
  | .vperm o => Sys2Proof.Machine.execVperm o s
  | .vshs o => Sys2Proof.Machine.execVshs o s
  | .vredadd o => Sys2Proof.Machine.execVredadd o s
  | .vredmax o => Sys2Proof.Machine.execVredmax o s
  | .vredmin o => Sys2Proof.Machine.execVredmin o s
  | .vscanadd o => Sys2Proof.Machine.execVscanadd o s
  | .vscanmax o => Sys2Proof.Machine.execVscanmax o s
  | .vscanmin o => Sys2Proof.Machine.execVscanmin o s
  | .vrng o => Sys2Proof.Machine.execVrng o s
  | .vmovs o => Sys2Proof.Machine.execVmovs o s
  | .vext o => Sys2Proof.Machine.execVext o s
  | .vlane o => Sys2Proof.Machine.execVlane o s
  | .plog o => Sys2Proof.Machine.execPlog o s
  | .pcnt o => Sys2Proof.Machine.execPcnt o s
  | .vbit o => Sys2Proof.Machine.execVbit o s
  | .vqpop o => Sys2Proof.Machine.execVqpop o s
  | .vqpush o => Sys2Proof.Machine.execVqpush o s
  -- slot 4, class M0 (R52)
  | .pld o => Sys2Proof.Machine.execPld o s
  | .pst o => Sys2Proof.Machine.execPst o s
  | .plds o => Sys2Proof.Machine.execPlds o s
  | .psts o => Sys2Proof.Machine.execPsts o s
  | .pldb o => Sys2Proof.Machine.execPldb o s
  | .pgth o => Sys2Proof.Machine.execPgth o s
  | .psct o => Sys2Proof.Machine.execPsct o s
  | .pfill o => Sys2Proof.Machine.execPfill o s
  -- slot 5, class M1 (R53)
  | .ldh o => Sys2Proof.Machine.execLdh o s
  | .sth o => Sys2Proof.Machine.execSth o s
  | .saadd o => Sys2Proof.Machine.execSaadd o s
  | .samin o => Sys2Proof.Machine.execSamin o s
  | .samax o => Sys2Proof.Machine.execSamax o s
  | .saand o => Sys2Proof.Machine.execSaand o s
  | .saor o => Sys2Proof.Machine.execSaor o s
  | .saaddx o => Sys2Proof.Machine.execSaaddx o s
  | .saswpx o => Sys2Proof.Machine.execSaswpx o s
  | .scasx o => Sys2Proof.Machine.execScasx o s
  | .pref o => Sys2Proof.Machine.execPref o s
  | .vldh o => Sys2Proof.Machine.execVldh o s
  | .vsth o => Sys2Proof.Machine.execVsth o s
  | .vldhs o => Sys2Proof.Machine.execVldhs o s
  | .vsths o => Sys2Proof.Machine.execVsths o s
  | .vgth o => Sys2Proof.Machine.execVgth o s
  | .vsct o => Sys2Proof.Machine.execVsct o s
  | .vaadd o => Sys2Proof.Machine.execVaadd o s
  | .vamin o => Sys2Proof.Machine.execVamin o s
  | .vamax o => Sys2Proof.Machine.execVamax o s
  | .vaand o => Sys2Proof.Machine.execVaand o s
  | .vaor o => Sys2Proof.Machine.execVaor o s
  | .vaxor o => Sys2Proof.Machine.execVaxor o s
  | .vaaddx o => Sys2Proof.Machine.execVaaddx o s
  | .vaminx o => Sys2Proof.Machine.execVaminx o s
  | .vamaxx o => Sys2Proof.Machine.execVamaxx o s
  | .vaswpx o => Sys2Proof.Machine.execVaswpx o s
  | .sbind o => Sys2Proof.Machine.execSbind o s
  | .srel q => Sys2Proof.Machine.execSrel q s
  -- slot 6, class E (R54)
  | .mma o => Sys2Proof.Machine.execMma o s
  | .smma o => Sys2Proof.Machine.execSmma o s
  | .tmma o => Sys2Proof.Machine.execTmma o s
  | .mzero o => Sys2Proof.Machine.execMzero o s
  | .mdecay o => Sys2Proof.Machine.execMdecay o s
  | .mdrain o => Sys2Proof.Machine.execMdrain o s
  | .mgath o => Sys2Proof.Machine.execMgath o s
  | .msave o => Sys2Proof.Machine.execMsave o s
  | .mrest o => Sys2Proof.Machine.execMrest o s
  | .mset o => Sys2Proof.Machine.execMset o s
  | .mcall o => Sys2Proof.Machine.execMcall o s
  | .mupd o => Sys2Proof.Machine.execMupd o s
  | .mwait => Sys2Proof.Machine.execMwait s
  | .ewr o => Sys2Proof.Machine.execEwr o s
  | .erd o => Sys2Proof.Machine.execErd o s
  -- slot 7, class X (R55)
  | .copy o => Sys2Proof.Machine.execCopy o s
  | .copyd o => Sys2Proof.Machine.execCopyd o s
  | .copyh o => Sys2Proof.Machine.execCopyh o s
  | .cqpush o => Sys2Proof.Machine.execCqpush o s
  | .copya o => Sys2Proof.Machine.execCopya o s
  | .copyda o => Sys2Proof.Machine.execCopyda o s
  | .cstat o => Sys2Proof.Machine.execCstat o s
  | .cflag o => Sys2Proof.Machine.execCflag o s
  | .xch o => Sys2Proof.Machine.execXch o s
  | .xcb o => Sys2Proof.Machine.execXcb o s
  | .sib o => Sys2Proof.Machine.execSib o s
  | .sibc o => Sys2Proof.Machine.execSibc o s
  | .shf o => Sys2Proof.Machine.execShf o s
  | .shfc o => Sys2Proof.Machine.execShfc o s
  | .xwait mask => Sys2Proof.Machine.execXwait mask s
  | .xcins o => Sys2Proof.Machine.execXcins o s
  | .xstat o => Sys2Proof.Machine.execXstat o s
  | .repq o => Sys2Proof.Machine.execRepq o s
  | .repc o => Sys2Proof.Machine.execRepc o s
  | .repx o => Sys2Proof.Machine.execRepx o s
  | .reps o => Sys2Proof.Machine.execReps o s
  -- steps that no word encodes (file 95)
  | .powerGood => Sys2Proof.Machine.execPowerGood s
  | .stageAdvance o => Sys2Proof.Machine.execStageAdvance o s
  | .linkTrainTimeout o => Sys2Proof.Machine.execLinkTrainTimeout o s
  | .versions tag => Sys2Proof.Machine.execVersions tag s
  | .settime tag => Sys2Proof.Machine.execSettime tag s
  | .readreg tag => Sys2Proof.Machine.execReadreg tag s
  | .writereg tag => Sys2Proof.Machine.execWritereg tag s
  | .chkptSave tag => Sys2Proof.Machine.execChkptSave tag s
  | .chkptRestore tag => Sys2Proof.Machine.execChkptRestore tag s
  | .resume tag => Sys2Proof.Machine.execResume tag s
  | .retry tag => Sys2Proof.Machine.execRetry tag s
  | .undefinedCommand o => Sys2Proof.Machine.execUndefinedCommand o s
  | .firmwareCommand o => Sys2Proof.Machine.execFirmwareCommand o s
  | .commandComplete => Sys2Proof.Machine.execCommandComplete s
  | .mbxevtRead => Sys2Proof.Machine.execMbxevtRead s
  | .registerWrite o => Sys2Proof.Machine.execRegisterWrite o s
  | .spdmRequest o => Sys2Proof.Machine.execSpdmRequest o s
  | .loadkey o => Sys2Proof.Machine.execLoadkey o s
  | .loadkeyComplete => Sys2Proof.Machine.execLoadkeyComplete s
  | .alarmTrigger level => Sys2Proof.Machine.execAlarmTrigger level s
  | .thermalCap => Sys2Proof.Machine.execThermalCap s
  | .thermalTrip => Sys2Proof.Machine.execThermalTrip s
  | .hostWrite o => Sys2Proof.Machine.execHostWrite o s
  | .hostRead o => Sys2Proof.Machine.execHostRead o s
  | .hostFetchadd o => Sys2Proof.Machine.execHostFetchadd o s
  | .hostSwap o => Sys2Proof.Machine.execHostSwap o s
  | .hostCas o => Sys2Proof.Machine.execHostCas o s
  | .cxlMemStore o => Sys2Proof.Machine.execCxlMemStore o s
  | .cxlMemLoad o => Sys2Proof.Machine.execCxlMemLoad o s
  | .ethernetDma o => Sys2Proof.Machine.execEthernetDma o s
  | .stagingRoomWaitEnd => Sys2Proof.Machine.execStagingRoomWaitEnd s
  | .idleFlit h => Sys2Proof.Machine.execIdleFlit h s
  | .dataFlit o => Sys2Proof.Machine.execDataFlit o s
  | .ctrlFlit o => Sys2Proof.Machine.execCtrlFlit o s
  | .readyFlit o => Sys2Proof.Machine.execReadyFlit o s
  | .postedPacket o => Sys2Proof.Machine.execPostedPacket o s
  | .barrierToken o => Sys2Proof.Machine.execBarrierToken o s
  | .rendezvousFlit o => Sys2Proof.Machine.execRendezvousFlit o s
  | .endToEndAck o => Sys2Proof.Machine.execEndToEndAck o s
  | .nakFlit o => Sys2Proof.Machine.execNakFlit o s
  | .fenceFlit h => Sys2Proof.Machine.execFenceFlit h s
  | .gtimeFlit o => Sys2Proof.Machine.execGtimeFlit o s
  | .trainFlit o => Sys2Proof.Machine.execTrainFlit o s
  | .creditFlit o => Sys2Proof.Machine.execCreditFlit o s
  | .detourForward o => Sys2Proof.Machine.execDetourForward o s
  | .linkRetrain d => Sys2Proof.Machine.execLinkRetrain d s
  | .retrainComplete o => Sys2Proof.Machine.execRetrainComplete o s
  | .linkDead d => Sys2Proof.Machine.execLinkDead d s
  | .detourReturn d => Sys2Proof.Machine.execDetourReturn d s
  | .wavelengthFailover o => Sys2Proof.Machine.execWavelengthFailover o s
  | .nopathTimeout d => Sys2Proof.Machine.execNopathTimeout d s
  | .gtimeExchange => Sys2Proof.Machine.execGtimeExchange s
  | .gtimelost d => Sys2Proof.Machine.execGtimelost d s
  | .laserHourlyUpdate o => Sys2Proof.Machine.execLaserHourlyUpdate o s
  | .correctedError o => Sys2Proof.Machine.execCorrectedError o s
  | .bucketLeak cls => Sys2Proof.Machine.execBucketLeak cls s
  | .uncorr o => Sys2Proof.Machine.execUncorr o s
  | .linePoison o => Sys2Proof.Machine.execLinePoison o s
  | .signatureMismatch => Sys2Proof.Machine.execSignatureMismatch s
  | .pageTableRebuild o => Sys2Proof.Machine.execPageTableRebuild o s
  | .packetClaim o => Sys2Proof.Machine.execPacketClaim o s
  | .packetNop o => Sys2Proof.Machine.execPacketNop o s
  | .packetCopy o => Sys2Proof.Machine.execPacketCopy o s
  | .packetCopya o => Sys2Proof.Machine.execPacketCopya o s
  | .packetCopyd o => Sys2Proof.Machine.execPacketCopyd o s
  | .packetCopyda o => Sys2Proof.Machine.execPacketCopyda o s
  | .packetCopyh o => Sys2Proof.Machine.execPacketCopyh o s
  | .packetFlag o => Sys2Proof.Machine.execPacketFlag o s
  | .packetRetire o => Sys2Proof.Machine.execPacketRetire o s
  | .streamItemFetch q => Sys2Proof.Machine.execStreamItemFetch q s
  | .streamItemLand q => Sys2Proof.Machine.execStreamItemLand q s
  | .streamItemWrite q => Sys2Proof.Machine.execStreamItemWrite q s
  | .landingRowGrant => Sys2Proof.Machine.execLandingRowGrant s
  | .landingRowDrain slab => Sys2Proof.Machine.execLandingRowDrain slab s
  | .matrixBegin => Sys2Proof.Machine.execMatrixBegin s
  | .matrixComplete => Sys2Proof.Machine.execMatrixComplete s
  | .exchangeSend o => Sys2Proof.Machine.execExchangeSend o s
  | .exchangeChunkArrive => Sys2Proof.Machine.execExchangeChunkArrive s
  | .exchangeComplete o => Sys2Proof.Machine.execExchangeComplete o s
  | .atomicApply o => Sys2Proof.Machine.execAtomicApply o s
  | .detUpdate slab => Sys2Proof.Machine.execDetUpdate slab s
  | .detClose => Sys2Proof.Machine.execDetClose s
  | .detOutboxRetry slab => Sys2Proof.Machine.execDetOutboxRetry slab s
  | .packageLineRelease o => Sys2Proof.Machine.execPackageLineRelease o s
  | .stagedMerge p => Sys2Proof.Machine.execStagedMerge p s
  | .taskEntry p => Sys2Proof.Machine.execTaskEntry p s
  | .queueNopEntry p => Sys2Proof.Machine.execQueueNopEntry p s
  | .fanoutForward p => Sys2Proof.Machine.execFanoutForward p s
  | .taskCompletion => Sys2Proof.Machine.execTaskCompletion s
  | .graphEntry p => Sys2Proof.Machine.execGraphEntry p s
  | .graphTaskNode p => Sys2Proof.Machine.execGraphTaskNode p s
  | .graphCondNode p => Sys2Proof.Machine.execGraphCondNode p s
  | .graphWhileNode p => Sys2Proof.Machine.execGraphWhileNode p s
  | .graphJoinNode p => Sys2Proof.Machine.execGraphJoinNode p s
  | .graphEndNode p => Sys2Proof.Machine.execGraphEndNode p s
  | .bindPartition o => Sys2Proof.Machine.execBindPartition o s
  | .unbindPartition p => Sys2Proof.Machine.execUnbindPartition p s
  | .tenantRowWrite o => Sys2Proof.Machine.execTenantRowWrite o s
  | .windowOpen index => Sys2Proof.Machine.execWindowOpen index s
  | .windowClose index => Sys2Proof.Machine.execWindowClose index s
  | .gangPreemptStart index => Sys2Proof.Machine.execGangPreemptStart index s
  | .preemptDivert => Sys2Proof.Machine.execPreemptDivert s
  | .drainDeadline => Sys2Proof.Machine.execDrainDeadline s
  | .abortFinish p => Sys2Proof.Machine.execAbortFinish p s
  | .contextSave => Sys2Proof.Machine.execContextSave s
  | .contextRestore p => Sys2Proof.Machine.execContextRestore p s
  | .lazyTranslate => Sys2Proof.Machine.execLazyTranslate s
  | .trapResolve o => Sys2Proof.Machine.execTrapResolve o s
  | .debugResume o => Sys2Proof.Machine.execDebugResume o s
  | .regulatorOrderedRetraining d => Sys2Proof.Machine.execRegulatorOrderedRetraining d s
  | .pcieCompletion o => Sys2Proof.Machine.execPcieCompletion o s
  | .completionTimeout o => Sys2Proof.Machine.execCompletionTimeout o s
  | .powerLoss => Sys2Proof.Machine.execPowerLoss s
  | .firmwareUpdateService digest => Sys2Proof.Machine.execFirmwareUpdateService digest s
  | .sysServiceComplete result => Sys2Proof.Machine.execSysServiceComplete result s
  | .flitFecCrcFailure d => Sys2Proof.Machine.execFlitFecCrcFailure d s
  | .reservedKindEntry p => Sys2Proof.Machine.execReservedKindEntry p s
  | .thermalCapRelease => Sys2Proof.Machine.execThermalCapRelease s

end Sys2Proof.Machine
end

