-- ==== Sys2Proof/Machine/Group.lean ====
section
/-!
DEFINITION. The issue of one group: its checks in the order of R41, its instructions on the state before the group, the
order in which their effects come together (log 15), and where fetch goes next (R34-R41, R165-R168, R173, R365).
-/
namespace Sys2Proof.Machine

/-! ### Decoding a group -/

/-- A slot of a group with its instruction, or with why its word is refused. -/
abbrev Slotted := Nat × Except DecodeErr Instr

/-- The slots of a group. -/
def decodeGroup (l : List (Nat × Nat)) : List Slotted := l.map fun sw => (sw.1, decodeSlot sw.1 sw.2)
/-- The instructions of the slots whose words decode. -/
def decodedOf (l : List Slotted) : List (Nat × Instr) :=
  l.filterMap fun x => match x.2 with | .ok i => some (x.1, i) | .error _ => none

/-! ### Running the instructions (R36, R37, R41) -/

/-- What an instruction does on its own. -/
def runOne (i : Instr) (s : State) : State :=
  match exec i s with
  | .next t => t
  | _ => s

/-- How an instruction of the group fares on the state before the group. -/
inductive Fate where
  | acts
  | holds
  | traps (num : Nat)
  deriving DecidableEq, Repr

def fateOf (s : State) (i : Instr) : Fate :=
  let t := runOne i s
  if t.stream.status = .trapped then .traps t.trapNumber
  else if t.stream.hold.isSome then .holds
  else .acts

/-- Whether a word takes an operand from an empty latch, for the two whose own checks raise ILLEGAL for an image (R47). -/
def starvedImage (s : State) : Instr → Bool
  | .mupd o => starved o.hold s.stream.latchC[latchNo false]
  | .xcins o => starved o.hold s.stream.latchC[latchNo true]
  | _ => true

/-- The rank of a trap of an instruction (R41): an illegal word, a calibre, an operand value. MUPD and XCINS judge the words of
an image, which are operand values. -/
def trapRank (s : State) (i : Instr) (num : Nat) : Nat :=
  match i with
  | .mupd _ | .xcins _ => if num = trILLEGAL ∧ starvedImage s i then 0 else 3
  | _ => if num = trILLEGAL then 0 else if num = trCALIBRE then 1 else 3

/-- Whether the hold latch of a slot is empty (R47, R48). -/
def State.latchEmpty (s : State) (slot : Nat) : Bool :=
  if slot < 4 then s.stream.latchV[pipeNo (slot == 3)].isNone else s.stream.latchC[latchNo (slot == 7)].isNone

/-- The state in which a slot's trap of a given rank is taken, if it has one: of a word that the decoder refuses, or of an
instruction on the state before the group. -/
def slotTrap (s : State) (rank : Nat) (x : Slotted) : Option State :=
  match x.2 with
  | .error .illegal => if rank = 0 then some (s.takeTrap { num := trILLEGAL, slot := x.1 }) else none
  | .error .calibre => if rank = 1 then some (s.takeTrap { num := trCALIBRE, slot := x.1 }) else none
  | .error .calibreHeld =>
    if s.latchEmpty x.1 then if rank = 0 then some (s.takeTrap { num := trILLEGAL, slot := x.1 }) else none
    else if rank = 1 then some (s.takeTrap { num := trCALIBRE, slot := x.1 }) else none
  | .ok i =>
    match fateOf s i with
    | .traps n => if trapRank s i n = rank then some (runOne i s) else none
    | _ => none

/-- The trap of a given rank of the lowest slot that has one. -/
def trapOf (s : State) (rank : Nat) (l : List Slotted) : Option State := l.findSome? (slotTrap s rank)

/-- The state of the lowest slot whose instruction holds the group. -/
def holdOf (s : State) (l : List (Nat × Instr)) : Option State :=
  (l.find? fun x => fateOf s x.2 == .holds).map fun x => runOne x.2 s

/-- Whether an instruction writes plates, or hands an item to a stream unit: it comes after the slots that read plates and home
memory at issue (R251, log 15). -/
def writesPlates : Instr → Bool
  | .pst _ | .psts _ | .psct _ | .pfill _ | .vqpush _ => true
  | _ => false
/-- Whether an instruction of slot 0 changes the position as a whole, or an index that a stochastic rounding of its group reads
as it stood at issue (R196): it comes last. -/
def comesLast : Instr → Bool
  | .seg _ | .unstub | .loop _ | .loopi _ => true
  | .sys o => o.imm == 1
  | _ => false

/-- The place of an instruction in the order in which a group's effects come together. -/
def effectRank (x : Nat × Instr) : Nat :=
  if comesLast x.2 then 9 else if writesPlates x.2 then 8 else x.1
/-- The instructions of a group in that order. -/
def inEffectOrder (l : List (Nat × Instr)) : List Instr :=
  (List.range 10).flatMap fun k => (l.filter fun x => effectRank x == k).map (·.2)

/-- Whether a register waits for a word that an atomic of the stream returns (R37, R262). -/
def State.owes (s : State) (r : Reg) : Bool :=
  s.atoms.any fun u => u.part == s.part && u.ret.any fun x => match x with
    | .scalar rd => r == .s rd
    | .lane vd _ => r == .v vd
/-- The scalars that the Regulator's services take (R169). -/
def sysArgs : Instr → List Reg
  | .sys _ => [.s 1, .s 2, .s 3, .s 4]
  | _ => []
/-- Whether the interlock keeps a group from issuing: a register that it names waits for its value (R37). -/
def State.interlocked (s : State) (l : List (Nat × Instr)) : Bool :=
  l.any fun x => ((usesOf x.2).reads ++ (usesOf x.2).writes ++ sysArgs x.2).any s.owes

/-! ### Where fetch goes (R29, R39, R165-R168) -/

/-- Drops the loops whose body a branch, jump or return leaves (R167). -/
def inBody (t : CodeAddr) (e : LoopEntry) : Bool := decide (e.start ≤ t) && decide (t ≤ e.stop)
def popTo (t : CodeAddr) (l : List LoopEntry) : List LoopEntry := l.dropWhile fun e => !inBody t e

/-- The next point, x fastest (R337). -/
def nextIter (domain iter : Nat) : Nat :=
  let nx := bits domain 0 21
  let ny := bits domain 21 21
  let x := bits iter 0 21
  let y := bits iter 21 21
  let z := bits iter 42 21
  if x + 1 < nx then x + 1 + y * 2 ^ 21 + z * 2 ^ 42
  else if y + 1 < ny then (y + 1) * 2 ^ 21 + z * 2 ^ 42
  else (z + 1) * 2 ^ 42

/-- The end of a point (R28, R168, R337): the stacks and latches empty, ITER moves on; after the last point the completion
steps follow. -/
def Stream.endPoint (x : Stream) : Stream :=
  let t := x.theTask
  let y := { Stream.onTask (fun t => { t with points := t.points + 1 }) x with
    pend := none, loops := [], ras := [], spilled := 0, latchV := Vector.replicate 2 none, latchC := Vector.replicate 2 none,
    pc := BitVec.ofNat 48 t.entry }
  if x.total ≤ t.points + 1 then { y with status := .completing }
  else { y with iter := BitVec.ofNat 64 (nextIter x.domain.toNat x.iter.toNat) }

/-- After the last group of the bundle at an address. -/
def Stream.endBundle (addr : CodeAddr) (x : Stream) : Stream :=
  match x.pend with
  | some (.branch t) => { x with pc := t, pend := none, loops := popTo t x.loops }
  | some (.call t) => { Stream.endLoops addr x with pc := t, pend := none }
  | some (.skip e) => { Stream.endLoops e x with pc := x.nextBundle e, pend := none }
  | some .done => x.endPoint
  | none => { Stream.endLoops addr x with pc := x.nextBundle addr }

/-- After the group whose last slot is given. -/
def Stream.advance (last : Nat) (x : Stream) : Stream :=
  if last < 7 then { x with pc := BitVec.ofNat 48 (x.pc.toNat / 32 * 32 + 4 * (last + 1)) } else x.endBundle (bundleOf x.pc)

/-- The position that SEG records: that of the group which follows it (R172). -/
def Stream.recordSeg (x : Stream) : Stream :=
  { x with seg := x.seg.map fun g =>
      { g with pc := x.pc, pend := x.pend, loops := x.loops, idxs := x.i, ras := x.ras, spilled := x.spilled, flags := x.flags } }

/-- A pending pre-emption takes effect at an iteration boundary (R365). -/
def Stream.boundary (points : Nat) (x : Stream) : Stream :=
  if x.preempt.isSome && x.stub.isNone && x.status == .running && points < x.theTask.points then x.divert else x

/-! ### The group -/

/-- Whether a group holds an instruction that passes a test. -/
def anyInstr (f : Instr → Bool) (l : List (Nat × Instr)) : Bool := l.any fun x => f x.2
def isSeg : Instr → Bool
  | .seg _ => true
  | _ => false

/-- Closes the segment at its END (R173). -/
def Stream.closeAtEnd (x : Stream) : Stream :=
  match x.seg with
  | some g => if x.pc.toNat / 32 * 32 = g.stop ∧ x.ras.length = g.ras.length then x.closeSeg else x
  | none => x

/-- The group issues: a segment at its END closes (R173), then the effects come together, then the position. -/
def finishGroup (last : Nat) (l : List (Nat × Instr)) (s : State) : State :=
  let s1 := (inEffectOrder l).foldl (fun s i => runOne i s) (s.onStream Stream.closeAtEnd)
  if s.stream.stub.isSome && s1.stream.stub.isNone then s1
  else
    let s2 := s1.onStream (Stream.advance last)
    let s3 := if anyInstr isSeg l then s2.onStream Stream.recordSeg else s2
    s3.onStream (Stream.boundary s.stream.theTask.points)

/-- The checks of R41 in order, with the interlock before those that depend on operand values, then a hold of any instruction, then the
effects. -/
def runGroup (last : Nat) (l : List Slotted) (s : State) : State :=
  match trapOf s 0 l <|> trapOf s 1 l with
  | some t => t
  | none =>
    match conflictSlot (decodedOf l) with
    | some k => s.takeTrap { num := trGROUPDEP, slot := k }
    | none =>
      if s.interlocked (decodedOf l) then s.holdFor .stall
      else
        match trapOf s 3 l with
        | some t => t
        | none =>
          match holdOf s (decodedOf l) with
          | some t => t
          | none => finishGroup last (decodedOf l) s

/-- The physical address of the bundle at the PC. -/
def State.codeAddr (s : State) : Option Nat := s.stream.theTask.resolve 16 (pcBundle s.stream.pc)
/-- Whether a code word of the bundle is poisoned (R105). -/
def State.poisonedCode (s : State) : Bool := s.codeAddr.any fun a => (List.range 8).any fun k => s.poisoned (a + 4 * k)
/-- A fetch reads its line through the stash (R100). -/
def State.fetched (s : State) : State := s.codeAddr.elim s fun a => s.touchAll s.part [a]

/-- A fetch outside the code extent (R40, R87). -/
def State.fetchTrap (s : State) : State :=
  s.takeTrap { num := trWINDOW, slot := 0, cause := 3, info := pcBundle s.stream.pc }

/-- The next group of the running stream issues, holds or traps. -/
def State.issueGroup (s : State) : State :=
  match s.fetched.bundle (pcBundle s.stream.pc) with
  | none => s.fetchTrap
  | some ws =>
    if s.poisonedCode then s.takeTrap { num := trUNCORR, slot := pcSlot s.stream.pc }
    else
      let k := pcSlot s.stream.pc
      runGroup (groupEnd ws 8 k) (decodeGroup (groupWords ws k)) s.fetched

/-- Settles what the stream waits for, as far as it can (R169, R174, R177, R179, R180, R366, R372). -/
def State.settleWait (w : Wait) (s : State) : State :=
  match w with
  | .sys _ _ => s
  | .park => s.settlePark
  | .fence f => s.settleFence f
  | .agree j => s.settleJoin j
  | .rewind mismatch => s.settleRewind mismatch
  | .closed => s

/-- Whether an MWAIT still holds the next group (R242). -/
def State.matrixAwaited (s : State) : Bool := s.stream.mwait.any fun n => decide (s.matrixDone < n)

/-- The stream goes on: with what it waits for, or with its next group. -/
def State.issue (s : State) : State :=
  let s0 := s.onStream fun x => { x with hold := none }
  match s.stream.wait with
  | some w => s0.settleWait w
  | none => if s.matrixAwaited then s0.holdFor .stall else (s0.onStream fun x => { x with mwait := none }).issueGroup

end Sys2Proof.Machine
end

