-- ==== Sys2Proof/Machine/Engines.lean ====
section
/-!
DEFINITION. What can happen next on the die beside the stream's own issue: the steps whose moment the spec fixes come as
soon as they are due, of the others any may come next (log 14).
-/
namespace Sys2Proof.Machine

/-- The steps of the part itself, each named as its instruction is; two have no instruction of their own: a pre-emption that
rule 3 of R342 asks for, and the binding of a partition whose share another has just given up (R341). -/
inductive Happening where
  | gangPreemptStart (k : Fin 16)
  | windowClose (k : Fin 16)
  | windowOpen (k : Fin 16)
  | drainDeadline
  | preemptDivert
  | streamItemFetch (q : Fin 8)
  | streamItemLand (q : Fin 8)
  | streamItemWrite (q : Fin 8)
  | landingRowGrant
  | landingRowDrain (slab : Fin 16)
  | matrixBegin
  | matrixComplete
  | atomicApply (o : AtomicPick)
  | detUpdate (slab : Fin 16)
  | detOutboxRetry (slab : Fin 16)
  | detClose
  | exchangeSend (o : SlotId)
  | exchangeComplete (o : SlotId)
  | exchangeChunkArrive
  | packetClaim (o : QueueId)
  | packetNop (o : QueueId)
  | packetCopy (o : QueueId)
  | packetCopya (o : QueueId)
  | packetCopyd (o : QueueId)
  | packetCopyda (o : QueueId)
  | packetCopyh (o : QueueId)
  | packetFlag (o : QueueId)
  | packetRetire (o : QueueId)
  | queueNopEntry (p : PartNo)
  | reservedKindEntry (p : PartNo)
  | fanoutForward (p : PartNo)
  | taskEntry (p : PartNo)
  | graphEntry (p : PartNo)
  | graphTaskNode (p : PartNo)
  | graphCondNode (p : PartNo)
  | graphWhileNode (p : PartNo)
  | graphJoinNode (p : PartNo)
  | graphEndNode (p : PartNo)
  | abortFinish (p : PartNo)
  | contextRestore (p : PartNo)
  | taskCompletion
  | contextSave
  | lazyTranslate
  | trapResolve (o : TrapChoice)
  | stagingRoomWaitEnd
  | nopathTimeout (d : DimNo)
  | gtimelost (d : DimNo)
  | yieldStream
  | bindAwaited (p : PartNo)
  deriving DecidableEq, Repr

/-- What a step of the part does: the meaning of the instruction of its name, where it has one. -/
def Happening.run (h : Happening) (s : State) : Out :=
  match h with
  | .gangPreemptStart k => execGangPreemptStart k s
  | .windowClose k => execWindowClose k s
  | .windowOpen k => execWindowOpen k s
  | .drainDeadline => execDrainDeadline s
  | .preemptDivert => execPreemptDivert s
  | .streamItemFetch q => execStreamItemFetch q s
  | .streamItemLand q => execStreamItemLand q s
  | .streamItemWrite q => execStreamItemWrite q s
  | .landingRowGrant => execLandingRowGrant s
  | .landingRowDrain slab => execLandingRowDrain slab s
  | .matrixBegin => execMatrixBegin s
  | .matrixComplete => execMatrixComplete s
  | .atomicApply o => execAtomicApply o s
  | .detUpdate slab => execDetUpdate slab s
  | .detOutboxRetry slab => execDetOutboxRetry slab s
  | .detClose => execDetClose s
  | .exchangeSend o => execExchangeSend o s
  | .exchangeComplete o => execExchangeComplete o s
  | .exchangeChunkArrive => execExchangeChunkArrive s
  | .packetClaim o => execPacketClaim o s
  | .packetNop o => execPacketNop o s
  | .packetCopy o => execPacketCopy o s
  | .packetCopya o => execPacketCopya o s
  | .packetCopyd o => execPacketCopyd o s
  | .packetCopyda o => execPacketCopyda o s
  | .packetCopyh o => execPacketCopyh o s
  | .packetFlag o => execPacketFlag o s
  | .packetRetire o => execPacketRetire o s
  | .queueNopEntry p => execQueueNopEntry p s
  | .reservedKindEntry p => execReservedKindEntry p s
  | .fanoutForward p => execFanoutForward p s
  | .taskEntry p => execTaskEntry p s
  | .graphEntry p => execGraphEntry p s
  | .graphTaskNode p => execGraphTaskNode p s
  | .graphCondNode p => execGraphCondNode p s
  | .graphWhileNode p => execGraphWhileNode p s
  | .graphJoinNode p => execGraphJoinNode p s
  | .graphEndNode p => execGraphEndNode p s
  | .abortFinish p => execAbortFinish p s
  | .contextRestore p => execContextRestore p s
  | .taskCompletion => execTaskCompletion s
  | .contextSave => execContextSave s
  | .lazyTranslate => execLazyTranslate s
  | .trapResolve o => execTrapResolve o s
  | .stagingRoomWaitEnd => execStagingRoomWaitEnd s
  | .nopathTimeout d => execNopathTimeout d s
  | .gtimelost d => execGtimelost d s
  | .yieldStream => .next s.reconsider
  | .bindAwaited p => .next (s.bindAwaited p)

/-- Its result as a state. -/
def Happening.apply (h : Happening) (s : State) : State :=
  match h.run s with
  | .next t => t
  | _ => s

/-- A step if a test passes. -/
def whenever (b : Bool) (h : Happening) : List Happening := if b then [h] else []
/-- A step if it changes the state. -/
def ifActs (s : State) (h : Happening) : List Happening := whenever (h.apply s != s) h

/-- The steps that come at once when they are due: windows of the slot table, bindings, pre-emptions, deadlines, diverts
(R282, R341-R344, R365, R367). -/
def State.dueNow (s : State) : List Happening :=
  ((List.finRange 16).flatMap fun k => whenever (s.gangDue k).isSome (.gangPreemptStart k)) ++
    ((List.finRange 16).flatMap fun k => whenever (s.closes k) (.windowClose k)) ++
    ((List.finRange 16).flatMap fun k => whenever (s.opens k) (.windowOpen k)) ++
    ((List.finRange 4).flatMap fun p => whenever (s.awaited p).isSome (.bindAwaited p)) ++
    ((List.finRange 14).flatMap fun d => whenever (s.pathOver d.val) (.nopathTimeout d)) ++
    ((List.finRange 14).flatMap fun d => whenever (s.parentDim == some d.val && !s.hasPath d.val && s.parentOver) (.gtimelost d)) ++
    whenever s.yieldDue .yieldStream ++ whenever s.deadlinePassed .drainDeadline ++ whenever s.mayDivert .preemptDivert

/-- The steps of the stream units of the running task. -/
def State.streamSteps (s : State) : List Happening :=
  (List.finRange 8).flatMap fun k =>
    match s.stream.qreg k with
    | none => []
    | some q =>
      whenever q.mayFetch (.streamItemFetch k) ++ whenever (!q.flight.isEmpty) (.streamItemLand k) ++
        whenever (q.outbound && !q.items.isEmpty) (.streamItemWrite k)

/-- The steps of the landing rows, the matrix unit and the atomic units. -/
def State.unitSteps (s : State) : List Happening :=
  whenever ((List.finRange 16).any fun k => !(s.slabGrants k).isEmpty) .landingRowGrant ++
    ((List.finRange 16).flatMap fun k => whenever (s.rowsFull.any fun r => r.slab == k) (.landingRowDrain k)) ++
    whenever (s.matrix.any fun e => !e.begun) .matrixBegin ++
    whenever (s.matrix.head?.any fun e => e.begun) .matrixComplete ++
    ((List.range s.atoms.length).flatMap fun k => ifActs s (.atomicApply ⟨k⟩)) ++
    (if s.detPending.isEmpty then []
     else
       ((List.finRange 16).flatMap fun k =>
         ifActs s (.detUpdate k) ++ ifActs s (.detOutboxRetry k)) ++
         ifActs s .detClose)

/-- The steps of the exchange engine. -/
def State.exchangeSteps (s : State) : List Happening :=
  ((List.finRange 4).flatMap fun p => (List.finRange 4).flatMap fun k =>
    match (s.pt p).xslots[k] with
    | none => []
    | some x =>
      whenever ((x.sendTo.any fun r => r.state == .matched && !s.pairFull r.dim) && !x.toSend.isEmpty) (.exchangeSend ⟨p, k⟩) ++
        whenever (s.xFinished p x) (.exchangeComplete ⟨p, k⟩)) ++
    whenever ((List.finRange 4).any fun p => ((s.pt p).nextArrival).isSome) .exchangeChunkArrive

/-- The steps of one copy queue beside the execution of a packet. -/
def State.queueSteps (s : State) (p : PartNo) (c : Fin 8) : List Happening :=
  let q : QueueId := ⟨p, c⟩
  let w := s.queue p c
  whenever ((!w.posted.isEmpty || w.issued.head?.any fun x => x.posting != .waiting) && (s.copyView p c).any (·.room))
      (.packetClaim q) ++
    (if w.active.isEmpty && w.notes.isEmpty then [] else ifActs s (.packetRetire q))

/-- The instruction that executes a packet. -/
def packetStep (kind : Nat) (q : QueueId) : Happening :=
  match kind with
  | 0 => .packetNop q
  | 2 => .packetCopya q
  | 3 => .packetCopyd q
  | 4 => .packetCopyda q
  | 5 => .packetCopyh q
  | 6 => .packetFlag q
  | _ => .packetCopy q

/-- The kinds of the packets of a queue that have been read and that a channel may go on with. -/
def CopyQueue.openKinds (q : CopyQueue) : List Nat := (q.active.filter fun a => a.stage != .done && a.stage != .host).map (·.pkt.kind)
/-- The kinds whose execution may be the next step of a queue: those of the packets that have been read, then that of the one that can be
read next; any kind where its slot cannot be read because of a table that is to be poisoned (R99). -/
def State.nextKinds (s : State) (p : PartNo) (c : Fin 8) : List Nat :=
  (s.queue p c).openKinds ++ ((s.nextPacket p c).elim [] fun x => [x.2.1.kind]) ++
    if s.queueBad p (s.copyHdr p c) (s.queue p c).readIdx then [0] else []
/-- The next step of the packets of a queue. -/
def State.executes (s : State) (p : PartNo) (c : Fin 8) : Option Happening :=
  if (s.pt p).bound then (s.nextKinds p c).findSome? fun k => (ifActs s (packetStep k ⟨p, c⟩)).head? else none

/-- A channel serves the partitions in turn, one packet at a time (R128). -/
def State.channelSteps (s : State) (c : Fin 8) : List Happening :=
  ((List.finRange 4).findSome? fun k => s.executes (s.served[c] + 1 + k) c).toList

/-- The steps of the copy channels and of a partition's dispatch. -/
def State.partSteps (s : State) (p : PartNo) : List Happening :=
  if (s.pt p).bound then
    ((List.finRange 8).flatMap (s.queueSteps p)) ++
      whenever (s.entryOf p (· == 0)).isSome (.queueNopEntry p) ++
      whenever (s.entryOf p fun k => decide (3 ≤ k)).isSome (.reservedKindEntry p) ++
      whenever (s.nextFanout p).isSome (.fanoutForward p) ++
      (match (s.pt p).disp with
       | .idle =>
         whenever ((s.entryOf p (· == 1)).isSome || s.queueBad p (s.pt p).bind.tqhdr.toNat (s.pt p).tqRead) (.taskEntry p)
       | .translate => if (s.pt p).work.isSome then ifActs s (.taskEntry p) else []
       | .ready => whenever (s.mayStart p) (.taskEntry p)
       | _ => []) ++
      whenever (s.entryOf p (· == 2)).isSome (.graphEntry p) ++
      whenever ((s.findVisit p (Visit.isType 0)).isSome && (s.taskView p).any (·.room)) (.graphTaskNode p) ++
      whenever (s.findVisit p (Visit.isType 1)).isSome (.graphCondNode p) ++
      whenever (s.findVisit p (Visit.isType 2)).isSome (.graphWhileNode p) ++
      whenever (s.findVisit p (Visit.isType 3)).isSome (.graphJoinNode p) ++
      whenever (s.findVisit p Visit.isLast).isSome (.graphEndNode p) ++
      whenever (s.abortReady p) (.abortFinish p) ++ whenever (s.mayRestore p) (.contextRestore p)
  else []

/-- The steps that dispatch and the Regulator take on the running task. -/
def State.taskSteps (s : State) : List Happening :=
  whenever s.mayComplete .taskCompletion ++ whenever s.maySave .contextSave ++
    whenever (match s.stream.hold with | some (.lazyPage _ _) => s.stream.status == .running | _ => false) .lazyTranslate ++
    whenever (s.stream.status == .trapped) (.trapResolve ⟨false⟩)

/-- Landings that waited and would now find room (R319). -/
def State.landingSteps (s : State) : List Happening :=
  if s.landings.isEmpty then [] else ifActs s .stagingRoomWaitEnd

/-- Every step that can come next. -/
def State.enabled (s : State) : List Happening :=
  s.streamSteps ++ s.unitSteps ++ s.exchangeSteps ++ ((List.finRange 8).flatMap s.channelSteps) ++
    ((List.finRange 4).flatMap s.partSteps) ++ s.taskSteps ++ s.landingSteps

/-- Whether the stream can go on: with its next group, or with what its last group waits for. -/
def State.canIssue (s : State) : Bool :=
  s.holder.isSome && !s.stream.waitsSys &&
    (match s.stream.status with
     | .running => true
     | .completing => s.stream.preempt.isNone && s.stream.wait.any fun w => w != .closed
     | _ => false) &&
    (match s.stream.hold with | some (.lazyPage _ _) => false | _ => true)

end Sys2Proof.Machine
end

