-- ==== Sys2Proof/Machine/Time.lean ====
section
/-!
DEFINITION. The passing of time: cycles, and GTIME with its slew (R5, R285; log 5).
-/
namespace Sys2Proof.Machine

/-- How much of the offset may be corrected when n ns pass: 50 ns per ms, which is 1 ns per 20,000 (R285). -/
def slewStep (slew : Int) (credit n : Nat) : Int :=
  let k := min slew.natAbs ((credit + n) / 20000)
  if slew < 0 then -(k : Int) else (k : Int)

/-- GTIME counts nanoseconds and is corrected by slewing only: it never runs backward. -/
def State.countGtime (n : Nat) (s : State) : State :=
  let k := slewStep s.slew s.slewCredit n
  { s with gtime := s.gtime + BitVec.ofInt 64 (n + k), slew := s.slew - k,
           slewCredit := if s.slew = 0 then 0 else (s.slewCredit + n) % 20000 }

/-- Cycles and GTIME move on with every step. -/
def State.passTime (s : State) : State :=
  { (s.countGtime (Config.stepNanos s.free)) with
    cycle := s.cycle + 1 + BitVec.ofNat 64 (Config.stepCycles s.free), free := s.free + 1 }

end Sys2Proof.Machine
end

