-- ==== Sys2Proof/Machine/Drive.lean ====
section
/-!
DEFINITION. What happens in a step: the next act of the outside world, or else a step that is due, or else one of those
that can come next and the stream's next group (log 1, 14); and where a program's word is put (log 16).
-/
namespace Sys2Proof.Machine

/-- Uses up a free choice. -/
def State.spend (s : State) : State := { s with free := s.free + 1 }

/-- Whether the alarm has stopped every stream and engine (R394). -/
def State.halted (s : State) : Bool := decide (2 ≤ s.alarm.val)

/-- What still has an effect then: the power, a higher alarm, and the ports of the host, which answer that they are closed, as at
level 1. Of all else nothing comes, and what another die, a link or the firmware would do is lost (log 81). -/
def metInHalt : Instr → Bool
  | .powerLoss | .powerGood | .alarmTrigger _ => true
  | .versions _ | .settime _ | .readreg _ | .writereg _ | .chkptSave _ | .chkptRestore _ | .resume _ | .retry _ => true
  | .undefinedCommand _ | .firmwareCommand _ | .mbxevtRead => true
  | .registerWrite o => o.space == .bar0
  | .hostWrite _ | .hostRead _ | .hostFetchadd _ | .hostSwap _ | .hostCas _ | .cxlMemStore _ | .cxlMemLoad _ => true
  | .ethernetDma _ | .spdmRequest _ | .loadkey _ => true
  | _ => false

/-- What can reach a package without power. -/
def reachesUnpowered : Instr → Bool
  | .powerGood => true
  | _ => false

/-- The stream's group, one of the steps that can come, or nothing. -/
def State.advance (s : State) : Out :=
  match s.enabled with
  | [] => .next (if s.canIssue then s.issue else s)
  | l =>
    let n := l.length + if s.canIssue then 1 else 0
    let k := Config.freePick s.free % n
    match l[k]? with
    | some h => h.run s.spend
    | none => .next s.spend.issue

/-- What happens in a step, before time is counted. -/
def State.happen (s : State) : Out :=
  match s.agenda with
  | i :: rest =>
    if (s.halted && !metInHalt i) || (!s.powered && !reachesUnpowered i) then .next { s with agenda := rest }
    else exec i { s with agenda := rest }
  | [] =>
    if s.halted then .next s
    else
      match s.dueNow with
      | h :: _ => h.run s
      | [] => s.advance

/-! ### Placing an instruction (log 16) -/

/-- A task of one point without windows, whose code is the page at physical address 0x1_0000. -/
def placedTask : Task :=
  { Task.empty with entry := 0, codeBase := 0, codeLen := 64, extents := [⟨16, 0, 1, 1, 0⟩] }

/-- A stream that runs that task from its entry. -/
def placedStream : Stream :=
  { Stream.cleared with status := .running, domain := BitVec.ofNat 64 (1 + 2 ^ 21 + 2 ^ 42), task := some placedTask }

/-- The bundle that holds a word in the slot its encoding belongs to, all other words NOP. -/
def placedBundle (w : Nat) : List (Nat × Byte) :=
  let slot := (wordSlot (w % 2 ^ 32)).elim 0 (·.1)
  (toBytes 4 (w % 2 ^ 32)).mapIdx fun k b => (65536 + 4 * slot + k, b)

/-- A record of the slot table that gives partition 0 a window for good. -/
def placedRecord : BindRecord := { BindRecord.cleared with valid := true, part := 0, plates := 1 }

/-- The state with an instruction where the next group is fetched: partition 0 is bound, its window is open, its task runs. -/
def State.placeWord (s : State) (w : Nat) : State :=
  { s with
    stage := 4, powered := true, agenda := [], alarm := 0, holder := some 0, stream := placedStream,
    slotTable := (Vector.replicate 16 BindRecord.cleared).set 0 placedRecord,
    windows := (Vector.replicate 16 false).set 0 true, gangReady := none,
    parts := s.parts.set 0 { s.parts[0] with bound := true, bind := placedRecord, disp := .run },
    mem := Cells.setMany (s.mem.filter fun c => decide (c.1 < 65536) || decide (65600 ≤ c.1)) (placedBundle w),
    poison := [] }

end Sys2Proof.Machine
end

