-- ==== Sys2Proof/Machine/Step.lean ====
section
/-!
DEFINITION. One step of the machine.
-/
namespace Sys2Proof.Machine

/-- One step: what happens, and the time it takes. -/
def step (s : State) : Host.Outcome State Fault Refusal :=
  match s.happen with
  | .next t => .next t.passTime.clockParent
  | .fault r => .fault r
  | .refused r => .refused r

/-- The state with an instruction where the next group is fetched (log 16). -/
def State.withFetchWord (s : State) (_nbits w : Nat) : State := s.placeWord w

end Sys2Proof.Machine
end

