-- ==== Sys2Proof/Safety.lean ====
section
/-!
DEFINITION. The words the statements are written in: when an instruction completes, the canonical form of memory, and
what a step leaves as it was.
-/
namespace Sys2Proof.Machine

/-- The canonical form of home memory: addresses strictly rising, no entry equal to the 0 an unlisted byte reads as. -/
abbrev Memory.wf (m : List Host.Cell) : Bool := Cells.wf m

/-- The formats that write floating-point results (R64). -/
def floatFormats : List Fmt := [fmtF32, fmtBf16, fmtF16, fmtE5m2, fmtE4m3, fmtE3m2, fmtE2m3, fmtE2m1]

/-- The number that a finite value is (R65). -/
def FVal.rat : FVal → Rat
  | .fin neg m e => (if neg then -1 else 1) * (m : Rat) * (2 : Rat) ^ e
  | _ => 0
/-- The value is finite. -/
def FVal.IsFin (v : FVal) : Prop := ∃ neg m e, v = .fin neg m e

/-- A code and flags are the rounding of a number that is not zero, by R73, R74 and R75: `neg` is its sign, `le q` and `lt q` say that q
is at most, or below, its magnitude. lo and hi are the neighbours that enclose the magnitude, in the precision of the format with
its least subnormal step; mag is the one that the mode chooses. -/
def Rounds (f : Fmt) (rm : RoundMode) (r16 : Nat) (sat neg : Bool) (le lt : Rat → Prop) (r : Nat × Flags) : Prop :=
  ∃ (m : Nat) (q : Int) (lo hi mag : Rat), lo = m * (2 : Rat) ^ q ∧ hi = (m + 1) * (2 : Rat) ^ q ∧ m < 2 ^ (f.mbits + 1) ∧
    1 - (f.bias : Int) - f.mbits ≤ q ∧ (2 ^ f.mbits ≤ m ∨ q = 1 - (f.bias : Int) - f.mbits) ∧ le lo ∧ ¬le hi ∧
    (¬lt lo → mag = lo) ∧
    (lt lo → match rm with
      | .rne => (lt ((lo + hi) / 2) → mag = hi) ∧ (¬le ((lo + hi) / 2) → mag = lo) ∧
          (le ((lo + hi) / 2) → ¬lt ((lo + hi) / 2) → mag = if m % 2 = 0 then lo else hi)
      | .rz => mag = lo
      | .ru => mag = if neg then lo else hi
      | .rd => mag = if neg then hi else lo
      | .sr => (le (lo + (hi - lo) * (((65536 - r16 : Nat) : Rat) / 65536)) → mag = hi) ∧
          (¬le (lo + (hi - lo) * (((65536 - r16 : Nat) : Rat) / 65536)) → mag = lo)) ∧
    let limit := (f.decode f.top).rat
    (mag ≤ limit → ∃ c, c < 2 ^ (f.ebits + f.mbits) ∧ r.1 = f.signed neg c ∧ (f.decode c).IsFin ∧ (f.decode c).rat = mag ∧
      (¬lt lo → r.2 = 0) ∧ (lt lo → r.2 = if mag < (2 : Rat) ^ (1 - (f.bias : Int)) then flNX ||| flUF else flNX)) ∧
    (limit < mag → r =
      if f.hasInf = true ∧ sat = false then
        (f.signed neg (if rm = .rz ∨ (rm = .ru ∧ neg = true) ∨ (rm = .rd ∧ neg = false) then f.top else f.top + 1), flOF ||| flNX)
      else (f.signed neg f.top, flOF ||| flNX ||| flSAT))

/-- The result for an exact rational number: a zero with the given sign (R78), anything else rounded. -/
def RoundsTo (f : Fmt) (rm : RoundMode) (r16 : Nat) (sat : Bool) (x : Rat) (zeroNeg : Bool) (r : Nat × Flags) : Prop :=
  (x = 0 → r = (f.signed zeroNeg 0, 0)) ∧
    (x ≠ 0 → let a := if x < 0 then -x else x
      Rounds f rm r16 sat (decide (x < 0)) (fun q => q ≤ a) (fun q => q < a) r)

/-- A NaN result (R76), with the flags of the operation. -/
def nanWith (f : Fmt) (g : Flags) : Nat × Flags := if f.nans = 0 then (0, g ||| flNV) else (f.canon, g)
/-- An exactly infinite result (R75). -/
def infWith (f : Fmt) (sat neg : Bool) (g : Flags) : Nat × Flags :=
  if f.hasInf && !sat then (f.signed neg (f.top + 1), g) else (f.signed neg f.top, g ||| flSAT)

/-- The instruction completes, in a state of which P holds. -/
def Runs (i : Instr) (s : State) (P : State → Prop) : Prop := ∃ t, exec i s = .next t ∧ P t

/-- The record of the open segment but for the mark that a live-in has been overwritten (R172). -/
def SegRecord.unmarked (g : SegRecord) : SegRecord := { g with overwritten := false }

/-- The open segment is the same one, if there is one. -/
def SameSeg (s t : State) : Prop := t.stream.seg.map SegRecord.unmarked = s.stream.seg.map SegRecord.unmarked

/-- Only scalar rd, the sticky flags and the segment's mark may differ: rd holds v (s0 stays 0, R27), f is ORed into
FLAGS (R33); every other register, every byte of memory and everything else is as before. -/
def WritesS (rd : RegNo) (v : DWord) (f : Flags) (s t : State) : Prop :=
  t.sreg rd = (if rd = 0 then 0 else v) ∧ (∀ r, r ≠ rd → t.sreg r = s.sreg r) ∧
    t.stream.flags = s.stream.flags ||| f ∧ (∀ a, t.byte a = s.byte a) ∧ SameSeg s t ∧
    t = { s with stream := { s.stream with s := t.stream.s, flags := t.stream.flags, seg := t.stream.seg } }

/-- The instruction completes with v in scalar rd and changes nothing else. -/
def GivesS (i : Instr) (rd : RegNo) (v : DWord) (s : State) : Prop := Runs i s (WritesS rd v 0 s)

/-- The instruction completes with an FP32 code, zero-extended, in scalar rd and its flags ORed in (R153, R33). -/
def GivesF (i : Instr) (rd : RegNo) (r : Nat × Flags) (s : State) : Prop :=
  Runs i s (WritesS rd (BitVec.ofNat 64 (r.1 % 2 ^ 32)) r.2 s)

/-- What a task keeps when lines of memory move: all but the note that a line of it was evicted (R370). -/
def Task.unnoted (t : Task) : Task := { t with evicted := false }
/-- A context but for that note. -/
def Stream.unnoted (x : Stream) : Stream := { x with task := x.task.map Task.unnoted }

/-- Only what home memory is made of may differ: bytes, stash, the slots that HBM4E holds lines under, uncorrectable words, the
values that readers not ordered after a write may still see and the numbers of the writes, the Repeater's entries (a write strikes
those that watch it, R357), and the notes of evictions. Every register, plate, queue, partition, link and mailbox register is as
before. -/
def MemoryOnly (s t : State) : Prop :=
  t.stream.unnoted = s.stream.unnoted ∧ t.shadow.map (·.map Stream.unnoted) = s.shadow.map (·.map Stream.unnoted) ∧
    t = { s with mem := t.mem, stash := t.stash, lineKeys := t.lineKeys, poison := t.poison, loose := t.loose, accNo := t.accNo,
                 repEntries := t.repEntries, repCounters := t.repCounters, stream := { s.stream with task := t.stream.task },
                 shadow := t.shadow }

/-- The bytes of a number, least significant first, from an address on. -/
def storedBytes (a n x : Nat) : List (Nat × Byte) := (List.range n).map fun k => (a + k, BitVec.ofNat 8 (x / 256 ^ k))

/-- A line is reached under one key slot only: m is the slot under which every dispatched task maps it, which an access that names its
slot gives, and under which HBM4E and the stash hold it. A line that comes in under another slot than it was written under is
deciphered with the wrong key (R97, log 18): nothing is stated of its bytes. -/
def State.oneSlot (s : State) (key : Nat → Option Nat) (m line : Nat) : Prop :=
  m < 1024 ∧ (∀ k, key line = some k → k = m) ∧ (∀ p t k, s.taskOf p = some t → t.keyAt (line * 128) = some k → k = m) ∧
    (s.lineSlot line = 0 ∨ s.lineSlot line = m) ∧
    ∀ l ∈ s.stash, l.line = line → (l.key = 0 ∨ l.key = m) ∧ (l.dirty = false → l.image = [])
/-- The same, whatever the slot. -/
def State.steady (s : State) (key : Nat → Option Nat) (line : Nat) : Prop := ∃ m, s.oneSlot key m line

/-- Every line of home memory is reached under one key slot, also by every walk. -/
def State.OneKey (s : State) : Prop :=
  ∀ line, ∃ m, s.oneSlot noKey m line ∧ ∀ p va rd wr pa k big, s.walkPart p va rd wr = .ok pa k big → pa / 128 = line → k = m

/-- n bytes from a virtual address of a partition on may be written, and lie at a physical address and the ones after it. -/
def PagesAt (s : State) (p : PartNo) (va n pa : Nat) : Prop := ∀ j, j < n → s.vphys p (va + j) false true = some (pa + j)

/-- Bytes of home memory after a write of the listed bytes, the last one listed for an address; every other byte reads as before,
where its line is reached under one key slot. `key` gives the slots that the access names. -/
def BytesBecome (key : Nat → Option Nat) (l : List (Nat × Byte)) (s t : State) : Prop :=
  ∀ a, (∃ x ∈ l, x.1 = a) ∨ s.steady key (a / 128) → t.byte a = ((l.reverse.find? fun x => x.1 == a).map (·.2)).getD (s.byte a)

/-- Home memory holds the listed bytes, every other byte reads as before, and only memory differs. -/
def WritesMem (l : List (Nat × Byte)) (s t : State) : Prop := BytesBecome noKey l s t ∧ MemoryOnly s t

/-- The open segment, if there is one, can no longer be rewound (R371). -/
def Marked (s t : State) : Prop := t.stream.seg = s.stream.seg.map fun g => { g with overwritten := true }

/-- A held operand finds its latch filled (R47). -/
def ReadyV (pipe1 : Bool) (h : Hold) (s : State) : Prop :=
  ∀ pos, h = .held pos → s.stream.latchV[pipeNo pipe1] ≠ none
def ReadyC (slot7 : Bool) (h : Hold) (s : State) : Prop :=
  ∀ pos, h = .held pos → s.stream.latchC[latchNo slot7] ≠ none

/-- A latching word leaves the register at its position in the latch of its slot; any other word leaves the latches (R48). -/
def LatchesV (pipe1 : Bool) (h : Hold) (va vb : RegNo) (s t : State) : Prop :=
  (∀ q, q ≠ pipeNo pipe1 → t.stream.latchV[q] = s.stream.latchV[q]) ∧
    match h with
    | .latch pos => ∃ c, t.stream.latchV[pipeNo pipe1] = some c ∧
        ∀ k, k < 1024 → Cells.get c k = s.lane (if pos then vb else va) k
    | _ => t.stream.latchV = s.stream.latchV
def LatchesC (slot7 : Bool) (h : Hold) (sA sB : RegNo) (s t : State) : Prop :=
  (∀ q, q ≠ latchNo slot7 → t.stream.latchC[q] = s.stream.latchC[q]) ∧
    match h with
    | .latch pos => t.stream.latchC[latchNo slot7] = some (s.sreg (if pos then sB else sA))
    | _ => t.stream.latchC = s.stream.latchC

/-- Each sticky flag is up afterwards if it was up, or if the flags of some active lane hold it (R33, R81). -/
def RaisesFrom (act : Nat → Bool) (f : Nat → Flags) (s t : State) : Prop :=
  ∀ b, b < 7 → (t.stream.flags.getLsbD b = true ↔
    s.stream.flags.getLsbD b = true ∨ ∃ k, k < 1024 ∧ act k = true ∧ (f k).getLsbD b = true)

/-- Only vector vd, the flags, the segment's mark and the V latches may differ: no other lane of a vector changes. -/
def OnlyV (vd : RegNo) (s t : State) : Prop :=
  (∀ r, r ≠ vd → ∀ k, k < 1024 → t.lane r k = s.lane r k) ∧ (∀ a, t.byte a = s.byte a) ∧ SameSeg s t ∧
    t = { s with stream := { s.stream with v := t.stream.v, flags := t.stream.flags, seg := t.stream.seg,
                                           latchV := t.stream.latchV } }

/-- The active lanes of vd hold the given words, the others what they held; the flags stay. -/
def WritesLanes (vd : RegNo) (act : Nat → Bool) (res : Nat → Word) (s t : State) : Prop :=
  (∀ k, k < 1024 → t.lane vd k = if act k then res k else s.lane vd k) ∧ t.stream.flags = s.stream.flags ∧ OnlyV vd s t

/-- Element j of the active lane k of vd holds the given number, the other lanes what they held; the flags of every active
element are ORed in. -/
def WritesElems (vd : RegNo) (act : Nat → Bool) (ty : ElemType) (res : Nat → Nat → Nat × Flags) (s t : State) : Prop :=
  (∀ k j, k < 1024 → j < ty.perLane → act k = true → elemAt ty.bits (t.lane vd k) j = (res k j).1 % 2 ^ ty.bits) ∧
    (∀ k, k < 1024 → act k = false → t.lane vd k = s.lane vd k) ∧
    RaisesFrom act (fun k => orFlags ((List.range ty.perLane).map fun j => (res k j).2)) s t ∧ OnlyV vd s t

/-- An exact integer in a type: wrapped, or clamped with SAT where that changes it (R68, R186). -/
def intSpec (t : ElemType) (sat : Bool) (x : Int) : Nat × Flags :=
  let lo : Int := if t.signed then -(2 ^ (t.bits - 1)) else 0
  let hi : Int := if t.signed then 2 ^ (t.bits - 1) - 1 else 2 ^ t.bits - 1
  let y := if sat then max lo (min hi x) else x
  ((y % 2 ^ t.bits).toNat, if y = x then 0 else flSAT)

/-- The outputs of a floating-point sum over terms x₀, x₁, … of lanes k₀, k₁, …: the first multiset is the first term; at each
further term the multiset so far, or its rounded value alone where the order carries, is joined by the term; each output is
the exact sum of its multiset, rounded once (R206, R207). -/
def sumOutputs (o : SumOrder) (l : List (Nat × Nat)) (ms : List Sum32) : Prop :=
  ms.length = l.length ∧
    (∀ x t, l[0]? = some x → ms[0]? = some t → t = Sum32.empty.insert x.2) ∧
    (∀ i x y t u, l[i]? = some x → l[i + 1]? = some y → ms[i]? = some t → ms[i + 1]? = some u →
      u = (if o.carries x.1 y.1 then Sum32.empty.insert t.value.1 else t).insert y.2)

/-- Plates hold the listed bytes (slab, offset in the partition's share, byte), the last one listed for a cell; every other
cell of every plate, and everything else, is as before, but that uncorrectable words written over as a whole are sound (R105). -/
def WritesPlates (p : PartNo) (l : List (Nat × Nat × Byte)) (s t : State) : Prop :=
  (∀ c, t.plates.get c = ((l.reverse.find? fun x => s.plateCell p x.1 x.2.1 == c).map (·.2.2)).getD (s.plates.get c)) ∧
    (∀ w ∈ t.platePoison, w ∈ s.platePoison) ∧ t = { s with plates := t.plates, platePoison := t.platePoison }

/-- n bytes at an offset of the stream's share lie in it, at a multiple of `align` (R107, R250). -/
def PlateOk (s : State) (n align : Nat) (off : Int) : Prop :=
  off % (align : Int) = 0 ∧ 0 ≤ off ∧ off + n ≤ (s.pt s.part).bind.plates * 65536

/-- An M1 access of n bytes through window w at an offset goes through (R85, R94, R105, R255, R256, R318): the window is there
and admits it, the bytes lie in the window and in the canonical addresses, the offset is a multiple of the size, every byte is
mapped, what is read is neither pending nor uncorrectable, and no earlier atomic of the stream on a byte that is loaded or stored,
and no item pushed to an outbound stream for one of the bytes, is still to come (R312 step 1). -/
def Reaches (s : State) (w n : Nat) (k : AccessKind) (off : Int) : Prop :=
  let t := s.stream.theTask
  let win := t.win w
  let va := (win.base : Int) + off
  let pa := fun b : Nat => t.phys w (va.toNat + b)
  win.len ≠ 0 ∧ win.attr.allows k = true ∧ (win.base : Int) ≤ va ∧ va + n ≤ (win.base : Int) + win.len ∧ 0 ≤ va ∧ va + n ≤ 2 ^ 48 ∧
    off % (n : Int) = 0 ∧ (∀ b, b < n → t.resolve w (va.toNat + b) ≠ none) ∧
    (k ≠ .store → ∀ b, b < n → (pa b / 8) ∉ s.poison) ∧
    (k ≠ .atomic → ∀ b, b < n → s.pendingOn s.part [pa b] = false) ∧ (∀ b, b < n → s.pushedOn s.part [pa b] = false) ∧
    (k = .load → ∀ b, b < n → ∀ m ∈ s.marks, m.tag = s.part → m.line ≠ pa b / 128)

/-- Such an access takes this trap, in the order of R85 and R255: NONCANON; WINDOW with cause 2 for an absent window, 0 outside it,
1 for what its attribute does not allow (R89); ALIGN; LANDREAD of a load from a line that is marked pending (R318). -/
def AccessTrap (s : State) (w n : Nat) (k : AccessKind) (off : Int) (tr : Trap) : Prop :=
  let t := s.stream.theTask
  let win := t.win w
  let va := (win.base : Int) + off
  let canon := 0 ≤ va ∧ va + n ≤ 2 ^ 48
  let inside := canon ∧ win.len ≠ 0 ∧ (win.base : Int) ≤ va ∧ va + n ≤ (win.base : Int) + win.len
  let is := fun num cause : Nat => tr = { num := num, slot := 5, win := w, cause := cause, info := (va % 2 ^ 64).toNat }
  (¬canon ∧ is 0x06 0) ∨ (canon ∧ win.len = 0 ∧ is 0x05 2) ∨ (canon ∧ win.len ≠ 0 ∧ ¬inside ∧ is 0x05 0) ∨
    (inside ∧ win.attr.allows k = false ∧ is 0x05 1) ∨ (inside ∧ win.attr.allows k = true ∧ off % (n : Int) ≠ 0 ∧ is 0x07 0) ∨
    (inside ∧ win.attr.allows k = true ∧ off % (n : Int) = 0 ∧ k = .load ∧
      (∃ b, b < n ∧ ∃ pa, t.resolve w (va.toNat + b) = some pa ∧ ∃ m ∈ s.marks, m.tag = s.part ∧ m.line = pa / 128) ∧ is 0x13 0)

/-- It takes none of these traps. -/
def Passes (s : State) (w n : Nat) (k : AccessKind) (off : Int) : Prop := ∀ tr, ¬AccessTrap s w n k off tr

/-- A PURE task writes only into OUT windows that are there (R349). -/
def PureOk (s : State) (w : Nat) : Prop :=
  s.stream.pure = true → (s.stream.theTask.win w).len ≠ 0 ∧ (s.stream.theTask.win w).attr = .output

/-- The context of a partition has changed, the stream where it holds it and the parked one where it does not (R307, R368). -/
def OnContext (p : PartNo) (f : Stream → Stream) (s t : State) : Prop :=
  (s.holder = some p → t = { s with stream := f s.stream }) ∧
    (s.holder ≠ some p → t = { s with shadow := s.shadow.set p (s.shadow[p].map f) })

/-- Addends into a word one after another, each rounded on its own (R264): the word and the flags. -/
def addedInto (m : Nat) (l : List Word) : Nat × Flags :=
  l.foldl (fun r a => let x := fmtF32.addOp .rne false r.1 a.toNat; (x.1, r.2 ||| x.2)) (m, 0)

/-- Where byte b of such an access lies. -/
def homeAt (s : State) (w : Nat) (off : Int) (b : Nat) : Nat :=
  s.stream.theTask.phys w (((s.stream.theTask.win w).base + off).toNat + b)

/-- The bytes a store of an n-byte number writes there. -/
def homeStore (s : State) (w n : Nat) (off : Int) (x : Nat) : List (Nat × Byte) :=
  (List.range n).map fun b => (homeAt s w off b, BitVec.ofNat 8 (x / 256 ^ b))

/-- The number n bytes there hold, in the stream's view (R312): little-endian. -/
def homeLoad (s : State) (w n : Nat) (off : Int) : Nat :=
  ((List.range n).map fun b => (s.seen (some s.part) .st (homeAt s w off b)).toNat * 256 ^ b).sum

/-- An M1 word can go on: no slab's outbox is full (R265). -/
def MayAccess (s : State) : Prop := s.outboxFull = false

/-- Reading home memory changes only what the stash holds; the bytes stay. `free` counts the free values drawn. -/
def ReadsMem (s t : State) : Prop := BytesBecome noKey [] s t ∧ MemoryOnly { s with free := t.free } t

/-- The bytes that item n of an outbound stream writes, in its active lanes (R113, R117, R212). -/
def itemStores (s : State) (q : QReg) (n : Nat) (it : QItem) : List (Nat × Byte) :=
  ((List.range 1024).filter it.act.getLsbD).flatMap fun k => (List.range 4).map fun b =>
    (q.phys ((s.taskOf s.part).getD Task.empty) n (k / 64) (4 * (k % 64) + b), BitVec.ofNat 8 ((Cells.get it.data k).toNat / 256 ^ b))

/-- The new word of an integer update (R261). -/
def intUpdate (op : AtomOp) (sgn : Bool) (w m x : Nat) : Nat :=
  let lt := fun a b : Nat => if sgn then decide (Int.bmod a (2 ^ w) < Int.bmod b (2 ^ w)) else decide (a < b)
  match op with
  | .add => (m + x) % 2 ^ w
  | .min => if lt x m then x else m
  | .max => if lt m x then x else m
  | .and => m &&& x
  | .or => m ||| x
  | .xor => m ^^^ x
  | .swp => x
  | .cas new => if m = x then new.toNat % 2 ^ w else m

/-- The partners' tokens, or the releases of the package line, that a task needs to pass n agreements of a kind and scope
more have come (R180). -/
def AgreementHeard (s : State) (isTick : Bool) (sc : Scope) (n : Nat) : Prop :=
  let x := s.stream
  let p := s.pt s.part
  match sc with
  | .pack => (if isTick then x.packTicks else x.packSyncs) + n ≤
      releasesOf (if isTick then p.tickReleases else p.syncReleases) x.theTask.seq
  | .sub => ∀ d, x.subMask.getLsbD d = true →
      (if isTick then x.subTicks else x.subSyncs) + n ≤ p.tokenCount isTick .sub d x.theTask.seq
  | .cube => ∀ d, s.trained.getLsbD d = true →
      (if isTick then x.cubeTicks else x.cubeSyncs) + n ≤ p.tokenCount isTick .cube d x.theTask.seq
  | _ => True

/-- A task may reach other dies at a scope: outside a stub, not PURE, EXCHANGE, the scope inside what the subcube allows
(R174, R178, R349, R366). -/
def MayReach (s : State) (sc : Scope) : Prop :=
  s.stream.stub = none ∧ s.stream.pure = false ∧ s.stream.exch = true ∧
    (sc = .pack → ∀ d, d < 4 → s.stream.subMask.getLsbD d = true) ∧
    (sc = .cube → ∀ d, s.trained.getLsbD d = true → s.stream.subMask.getLsbD d = true)

/-- The instruction takes a trap with this number from this slot, window, cause and INFO: it writes the record,
raises the event and stops the stream where it stands (R363, R364). -/
def Traps (i : Instr) (s : State) (t : Trap) : Prop := exec i s = .next (s.takeTrap t)

/-- The group goes on: no trap holds the stream, and it waits for nothing. -/
def Going (s : State) : Prop := s.stream.status ≠ .trapped ∧ s.stream.hold = none

/-- Every cell of a tile, in a view, holds the given code; every other tile, and the bits of the bank that the view leaves out,
hold what they held (R215). -/
def TileBecomes (af : AccFmt) (n : Nat) (f : Nat → Nat → Nat) (s t : State) : Prop :=
  (∀ slab ij, slab < 16 → ij < 4096 → t.tile af n slab ij = f slab ij % 2 ^ (accFmt af).width) ∧
    ∀ bank slab ij b, bank < 8 → slab < 16 → ij < 4096 → b < 32 →
      bank ≠ tileBank af n ∨ b < tileShift af n ∨ tileShift af n + (accFmt af).width ≤ b →
      (t.stream.acc.get (accCell bank slab ij)).getLsbD b = (s.stream.acc.get (accCell bank slab ij)).getLsbD b

/-- The matrix queue has one more entry, not yet begun, of this partition, with an arrival and these flags; it is counted. -/
def Queues (bar : Option (Fin 64)) (has : Nat → Prop) (s t : State) : Prop :=
  t.matrixCount = s.matrixCount + 1 ∧
    ∃ fl : Flags, t.matrix = s.matrix ++ [⟨s.part, false, fl, bar, none, true⟩] ∧ ∀ b, b < 7 → (fl.getLsbD b = true ↔ has b)

/-- Only what the matrix unit holds may differ: tiles, A buffers, queue, the latch of slot 6, the segment's mark. -/
def OnlyE (s t : State) : Prop := SameSeg s t ∧
  t = { s with stream := { s.stream with acc := t.stream.acc, seg := t.stream.seg, latchC := t.stream.latchC },
               abuf := t.abuf, matrix := t.matrix, matrixCount := t.matrixCount }

/-- A C word completes with v in scalar rd and its latching done, and changes nothing else. -/
def GivesC (slot7 : Bool) (i : Instr) (h : Hold) (sA sB rd : RegNo) (v : DWord) (s : State) : Prop :=
  Runs i s fun t => ∃ u : State, WritesS rd v 0 s u ∧ LatchesC slot7 h sA sB s t ∧
    t = { u with stream := { u.stream with latchC := t.stream.latchC } }

/-- One flit more of the pair across dimension d: it takes the next PSEQ and waits to be acknowledged (R270, R271); where the replay
buffer is full, or flits are held already, it is held at the engine behind those (R268, R271). -/
def Sends (d : Nat) (c : OutCargo) (s t : State) : Prop :=
  let l := s.link d
  if l.replay.length < (if d < 4 then 256 else 1024) ∧ l.held = [] then
    (t.link d).pseqOut = l.pseqOut + 1 ∧ (t.link d).replay = l.replay ++ [⟨d, l.pseqOut + 1, c, false⟩] ∧ (t.link d).held = []
  else (t.link d).pseqOut = l.pseqOut ∧ (t.link d).replay = l.replay ∧ (t.link d).held = l.held ++ [c]

/-- The instruction that executes a packet of a kind; a kind that is not listed goes with the copies (R126). -/
def OfKind (kind : Nat) (q : QueueId) (i : Instr) : Prop :=
  (kind = 0 ∧ i = .packetNop q) ∨ ((kind = 1 ∨ 6 < kind) ∧ i = .packetCopy q) ∨ (kind = 2 ∧ i = .packetCopya q) ∨
    (kind = 3 ∧ i = .packetCopyd q) ∨ (kind = 4 ∧ i = .packetCopyda q) ∨ (kind = 5 ∧ i = .packetCopyh q) ∨ (kind = 6 ∧ i = .packetFlag q)

/-- A flow of a partition asks for landing rows that hold the listed bytes (slab, offset, byte), in order, none across a row (R115). -/
def AsksRows (p : PartNo) (f : RowFlow) (l : List ((Nat × Nat) × Byte)) (s t : State) : Prop :=
  ∃ new : List RowItem, t.rowsWaiting = s.rowsWaiting ++ new ∧ t.rowsFull = s.rowsFull ∧ t.plates = s.plates ∧
    (∀ r ∈ new, r.flow = f ∧ r.part = p ∧ ∃ row, ∀ x ∈ r.bytes, x.1 / 256 = row) ∧
    (new.flatMap fun r => r.bytes.map fun x => ((r.slab.val, x.1), x.2)) = l

/-- The bytes of a landing: each is in its place or stands in a part of the landing that waits (R313, R319); every other byte reads as
before. What is said of a byte is said where its line is reached under one key slot. -/
def LandsInParts (who : LandAgent) (key : Nat → Option Nat) (l : List (Nat × Byte)) (s t : State) : Prop :=
  (∀ x ∈ l, s.steady key (x.1 / 128) →
    t.byte x.1 = x.2 ∨ t.byte x.1 = s.byte x.1 ∧ ∃ w ∈ t.landings, w.agent = who ∧ x ∈ w.bytes) ∧
  ∀ c, (∀ x ∈ l, x.1 ≠ c) → s.steady key (c / 128) → t.byte c = s.byte c

/-- Only links and the messages that left may differ. -/
def LinksOnly (s t : State) : Prop := t = { s with links := t.links, outbox := t.outbox }

/-- A flit of a type that comes on its pair's own link as the next of the hop and of the pair, and acknowledges nothing new
(R269-R271, R280); its fields are sound. -/
def InOrder (s : State) (h : FlitHdr) (ty : Nat) : Prop :=
  let l := s.link h.link.val
  h.ftype.val = ty ∧ ty < 8 ∧ h.rsv = 0 ∧ h.valid ≤ 256 ∧ h.lane = 0 ∧ h.dim.val = h.link.val ∧ h.dst = s.node ∧
    h.src = s.node ^^^ BitVec.ofNat 14 (2 ^ h.link.val) ∧ h.lseq = BitVec.ofNat 32 (l.lseqIn + 1) ∧
    h.pseq = BitVec.ofNat 32 (l.pseqIn + 1) ∧ ∀ x ∈ l.hop, ahead h.lack x.1 < 0

/-- A byte of a slab's share as an exchange operation reads it: a row that it has read is kept as it was then (R300). -/
def rowView (s : State) (p : PartNo) (c : RowCache) (slab o : Nat) : Byte :=
  match c.find? fun r => r.1 == slab && r.2.1 == o / 256 with
  | some r => r.2.2.getD (o % 256) 0
  | none => s.plate p slab o
/-- n bytes as it reads them. -/
def rowBytes (s : State) (p : PartNo) (c : RowCache) (slab o n : Nat) : List Byte := (List.range n).map fun j => rowView s p c slab (o + j)
/-- It keeps the rows it had, and more rows of a slab as they are now. -/
def ReadsRows (s : State) (p : PartNo) (slab : Nat) (old new : RowCache) : Prop :=
  ∃ more : RowCache, new = more ++ old ∧ ∀ r ∈ more, r.1 = slab ∧ r.2.2 = s.plateBytes p slab (256 * r.2.1) 256

/-- The state once the hop and the pair have counted such a flit. -/
def State.counted (s : State) (d : DimNo) : State :=
  { s with links := s.links.set d { s.links[d] with lseqIn := s.links[d].lseqIn + 1, pseqIn := s.links[d].pseqIn + 1 } }
/-- The same once the credit of its place in the lane's buffer has gone back, or is owed while the link trains (R279). -/
def State.credited (s : State) (d : DimNo) : State :=
  let c := s.counted d
  if s.links[d].state = 1 then
    { c with links := c.links.set d { c.links[d] with owed := c.links[d].owed.set 0 (c.links[d].owed[0] + 1) } }
  else c.sendBare d.val (.credit 0 1)

/-- Only the link of one dimension, and what left the die, may differ. -/
def SameOthers (d : Nat) (s t : State) : Prop := (∀ k, k ≠ d → t.link k = s.link k) ∧ LinksOnly s t

/-- The host may write [a, a + n) (R384, R388, R394, R395). -/
def PortOpen (s : State) (a n : Nat) : Prop := s.stage = 4 ∧ s.alarm = 0 ∧ a + n ≤ 2 ^ 36 ∧ s.chkptRuns = false

/-- No dispatched task has [a, a + n) in a window or in its code, and no write of the host waits: a landing there is a plain
write (R310, R319). -/
def Plain (s : State) (a n : Nat) : Prop :=
  (∀ k, k < n → s.treatment (a + k) = .direct) ∧ ∀ w ∈ s.landings, w.agent ≠ .host

/-- Home memory holds the listed bytes, every other byte as before; beside memory only what left the die, the draws of free
values and the count of landings may differ. -/
def Lands (l : List (Nat × Byte)) (s t : State) : Prop :=
  BytesBecome noKey l s t ∧
    MemoryOnly { s with outbox := t.outbox, free := t.free, landingNo := t.landingNo } t

/-- The stream goes back to the position its segment recorded (R372). -/
def Rewound (g : SegRecord) (mismatch : Bool) (t : State) : Prop :=
  t.stream.pc = g.pc ∧ t.stream.pend = g.pend ∧ t.stream.loops = g.loops ∧ t.stream.i = g.idxs ∧ t.stream.ras = g.ras ∧
    t.stream.flags = g.flags ∧ t.stream.status = .running ∧ t.stream.hold = none ∧
    t.stream.seg = some { g with rewinds := g.rewinds + 1, mismatched := g.mismatched || mismatch }

/-- Home memory, and the slots that HBM4E holds its lines under, here and in every checkpoint image, are in canonical form. -/
def State.Canonical (s : State) : Prop :=
  Memory.wf s.mem = true ∧ Cells.wf s.lineKeys = true ∧ ∀ i ∈ s.images, Cells.wf i.under = true

/-- The stream's next group is what a step runs: nothing is due, no other step can come, the stream can issue and waits for
nothing (log 1, 14). -/
def State.Issues (s : State) : Prop :=
  s.agenda = [] ∧ s.halted = false ∧ s.dueNow = [] ∧ s.enabled = [] ∧ s.canIssue = true ∧ s.stream.wait = none ∧
    s.matrixAwaited = false

/-- The state before a group is fetched: nothing holds it. -/
def State.atIssue (s : State) : State := s.onStream fun x => { x with hold := none, mwait := none }

end Sys2Proof.Machine
end

