-- ==== Sys2Proof/Certificates/Slice0/Obligations.lean ====
section
/-!
DEFINITION. The statements for the provers; OBLIGATIONS.json lists them. A statement over several rules is the conjunction
of claims, each with its own text.
-/
open Sys2Proof Sys2Proof.Machine

/-- R145, R27: each operation of the two-source group completes with the result that the group's table gives, in sd alone;
to s0 nothing is written. -/
def Claims.TwoSourceScalarResults : Prop := ∀ (o : A3Op) (s : State),
  let a := s.sreg o.ra
  let b := s.sreg o.rb
  let n := b.toNat % 64
  GivesS (.add o) o.rd (a + b) s ∧ GivesS (.sub o) o.rd (a - b) s ∧ GivesS (.and o) o.rd (a &&& b) s ∧
  GivesS (.or o) o.rd (a ||| b) s ∧ GivesS (.xor o) o.rd (a ^^^ b) s ∧ GivesS (.andn o) o.rd (a &&& ~~~b) s ∧
  GivesS (.sll o) o.rd (BitVec.ofNat 64 (a.toNat * 2 ^ n)) s ∧ GivesS (.srl o) o.rd (BitVec.ofNat 64 (a.toNat / 2 ^ n)) s ∧
  GivesS (.sra o) o.rd (BitVec.ofInt 64 (a.toInt / 2 ^ n)) s ∧
  GivesS (.slt o) o.rd (if a.toInt < b.toInt then 1 else 0) s ∧ GivesS (.sltu o) o.rd (if a.toNat < b.toNat then 1 else 0) s ∧
  GivesS (.seq o) o.rd (if a = b then 1 else 0) s ∧
  GivesS (.min o) o.rd (BitVec.ofInt 64 (min a.toInt b.toInt)) s ∧ GivesS (.max o) o.rd (BitVec.ofInt 64 (max a.toInt b.toInt)) s ∧
  GivesS (.minu o) o.rd (BitVec.ofNat 64 (min a.toNat b.toNat)) s ∧ GivesS (.maxu o) o.rd (BitVec.ofNat 64 (max a.toNat b.toNat)) s

/-- R146, R69: multiply and divide, with the results for a zero divisor and for −2^63 divided by −1. -/
def Claims.MultiplyDivideResults : Prop := ∀ (o : A3Op) (s : State),
  let a := s.sreg o.ra
  let b := s.sreg o.rb
  let low : DWord := BitVec.ofInt 64 (-(2 ^ 63))
  let corner := a = low ∧ b = BitVec.ofInt 64 (-1)
  GivesS (.mul o) o.rd (BitVec.ofNat 64 (a.toNat * b.toNat)) s ∧
  GivesS (.mulh o) o.rd (BitVec.ofInt 64 (a.toInt * b.toInt / 2 ^ 64)) s ∧
  GivesS (.mulhu o) o.rd (BitVec.ofNat 64 (a.toNat * b.toNat / 2 ^ 64)) s ∧
  GivesS (.div o) o.rd (if b = 0 then 0xFFFFFFFFFFFFFFFF#64 else if corner then low else BitVec.ofInt 64 (a.toInt.tdiv b.toInt)) s ∧
  GivesS (.divu o) o.rd (if b = 0 then 0xFFFFFFFFFFFFFFFF#64 else BitVec.ofNat 64 (a.toNat / b.toNat)) s ∧
  GivesS (.rem o) o.rd (if b = 0 then a else if corner then 0 else BitVec.ofInt 64 (a.toInt - b.toInt * a.toInt.tdiv b.toInt)) s ∧
  GivesS (.remu o) o.rd (if b = 0 then a else BitVec.ofNat 64 (a.toNat % b.toNat)) s

/-- R147: the counts of leading zeros, trailing zeros and set bits. -/
def Claims.BitCountResults : Prop := ∀ (o : A2Op) (s : State),
  let a := s.sreg o.ra
  (∃ n, n ≤ 64 ∧ (∀ k, 64 - n ≤ k → a.getLsbD k = false) ∧ (n < 64 → a.getLsbD (63 - n) = true) ∧
    GivesS (.clz o) o.rd (BitVec.ofNat 64 n) s) ∧
  (∃ n, n ≤ 64 ∧ (∀ k, k < n → a.getLsbD k = false) ∧ (n < 64 → a.getLsbD n = true) ∧
    GivesS (.ctz o) o.rd (BitVec.ofNat 64 n) s) ∧
  GivesS (.popc o) o.rd (BitVec.ofNat 64 ((List.range 64).countP fun k => a.getLsbD k)) s

/-- R147, R149, R150, R152: extensions, the immediate forms, SUI, ADDPC and RDI. -/
def Claims.OneSourceAndImmediateResults : Prop :=
  (∀ (o : A2Op) (s : State), let a := s.sreg o.ra
    GivesS (.sext8 o) o.rd ((a.truncate 8).signExtend 64) s ∧ GivesS (.sext16 o) o.rd ((a.truncate 16).signExtend 64) s ∧
    GivesS (.sext32 o) o.rd ((a.truncate 32).signExtend 64) s ∧ GivesS (.zext8 o) o.rd (BitVec.ofNat 64 (a.toNat % 2 ^ 8)) s ∧
    GivesS (.zext16 o) o.rd (BitVec.ofNat 64 (a.toNat % 2 ^ 16)) s ∧ GivesS (.zext32 o) o.rd (BitVec.ofNat 64 (a.toNat % 2 ^ 32)) s) ∧
  (∀ (o : ImmOp) (s : State), let a := s.sreg o.ra
    let k : DWord := BitVec.ofInt 64 o.imm.toInt
    GivesS (.addi o) o.rd (a + k) s ∧ GivesS (.andi o) o.rd (a &&& k) s ∧ GivesS (.ori o) o.rd (a ||| k) s ∧
    GivesS (.xori o) o.rd (a ^^^ k) s ∧ GivesS (.slti o) o.rd (if a.toInt < o.imm.toInt then 1 else 0) s ∧
    GivesS (.sltiu o) o.rd (if a.toNat < k.toNat then 1 else 0) s) ∧
  (∀ (o : ShiOp) (s : State), let a := s.sreg o.ra
    GivesS (.slli o) o.rd (BitVec.ofNat 64 (a.toNat * 2 ^ o.sh.toNat)) s ∧
    GivesS (.srli o) o.rd (BitVec.ofNat 64 (a.toNat / 2 ^ o.sh.toNat)) s ∧
    GivesS (.srai o) o.rd (BitVec.ofInt 64 (a.toInt / 2 ^ o.sh.toNat)) s) ∧
  (∀ (o : SuiOp) (s : State), GivesS (.sui o) o.rd (BitVec.ofInt 64 (o.imm.toInt * 2 ^ 15)) s) ∧
  (∀ (o : AddpcOp) (s : State),
    GivesS (.addpc o) o.rd (BitVec.ofInt 64 ((s.stream.pc.toNat / 32 * 32 : Nat) + 32 * o.imm.toInt)) s) ∧
  (∀ (o : RdiOp) (s : State), GivesS (.rdi o) o.rd (BitVec.ofNat 64 s.stream.i[o.n].toNat) s)

/-- R151: LDARG of an offset whose low three bits are 0 reads eight bytes of the dispatched argument block, little-endian;
any other offset raises ALIGN from slot 1. -/
def Claims.LdargReadsTheArgumentBlock : Prop := ∀ (o : LdargOp) (s : State),
  let at' := ((s.sreg o.ra).toNat + 8 * o.slot8.toNat) % 256
  (at' % 8 = 0 → GivesS (.ldarg o) o.rd
    (BitVec.ofNat 64 (((List.range 8).map fun k => ((s.stream.theTask.args.getD (at' + k) 0).toNat) * 256 ^ k).sum)) s) ∧
  (at' % 8 ≠ 0 → Traps (.ldarg o) s { num := 0x07, slot := 1 })

/-- Results of the scalar integer instructions (R145, R27, R146, R69, R147, R149, R150, R152, R151): the claims above
together. -/
def Obligations.ScalarInstructionsGiveTheirResults : Prop :=
  Claims.TwoSourceScalarResults ∧ Claims.MultiplyDivideResults ∧ Claims.BitCountResults ∧
    Claims.OneSourceAndImmediateResults ∧ Claims.LdargReadsTheArgumentBlock

/-- R148: the words of opcode 0x04 in slot 1 are SEL, with sd, sa, sb, sc in their fields and [4:0] zero, else ILLEGAL; SEL gives sa
where sc, all 64 bits of it, is not zero, else sb, and changes nothing else. -/
def Obligations.SelSelectsBetweenTwoScalars : Prop :=
  (∀ w, w < 2 ^ 32 → field w 25 6 = 4 → decodeSlot 1 w =
    if field w 0 5 = 0 then .ok (.sel ⟨regAt w 20, regAt w 15, regAt w 10, regAt w 5⟩) else .error .illegal) ∧
  ∀ (o : SelOp) (s : State), GivesS (.sel o) o.rd (if s.sreg o.rc ≠ 0 then s.sreg o.ra else s.sreg o.rb) s

/-- R154, R155: the floating-point results in FP32 with the rounding mode of the word: one rounding of the exact sum,
difference, product, quotient, root and fused product, in terms of the operations of file 03 on FP32 codes. -/
def Claims.ScalarFloatResults : Prop :=
  (∀ (o : F3Op) (s : State), let a := s.f32 o.ra
    let b := s.f32 o.rb
    GivesF (.fadd o) o.rd (fmtF32.addOp o.rm false a b) s ∧ GivesF (.fsub o) o.rd (fmtF32.subOp o.rm false a b) s ∧
    GivesF (.fmul o) o.rd (fmtF32.mulOp o.rm false a b) s ∧ GivesF (.fdiv o) o.rd (fmtF32.divOp o.rm false a b) s) ∧
  (∀ (o : F2Op) (s : State), GivesF (.fsqrt o) o.rd (fmtF32.sqrtOp o.rm false (s.f32 o.ra)) s) ∧
  (∀ (o : F4Op) (s : State), let a := s.f32 o.ra
    let b := s.f32 o.rb
    let c := s.f32 o.rc
    GivesF (.fmadd o) o.rd (fmtF32.fmaOp o.rm false false false a b c) s ∧
    GivesF (.fmsub o) o.rd (fmtF32.fmaOp o.rm false false true a b c) s ∧
    GivesF (.fnmadd o) o.rd (fmtF32.fmaOp o.rm false true false a b c) s) ∧
  (∀ (o : A3Op) (s : State), let a := s.f32 o.ra
    let b := s.f32 o.rb
    GivesF (.fmin o) o.rd (fmtF32.minMax false a b) s ∧ GivesF (.fmax o) o.rd (fmtF32.minMax true a b) s) ∧
  (∀ (o : A2Op) (s : State), let a := s.f32 o.ra
    (a % 2 ^ 31 ≤ 0x7F800000 → GivesF (.fabs o) o.rd (a % 2 ^ 31, 0) s ∧ GivesF (.fneg o) o.rd ((a + 2 ^ 31) % 2 ^ 32, 0) s) ∧
    (0x7F800000 < a % 2 ^ 31 →
      let f : Flags := if bit a 22 then 0 else flNV
      GivesF (.fabs o) o.rd (0x7FC00000, f) s ∧ GivesF (.fneg o) o.rd (0x7FC00000, f) s))

/-- R154, R156, R153: compares, classes and conversions. A compare with a NaN gives 0; FEQ raises NV for a signalling NaN,
FLT and FLE for any. FCLASS sets the one bit of its table. FCVTIF and FCVTFI convert with one rounding, a conversion to an
integer clamping; the result fills all of sd, sign-extended from I32. -/
def Claims.ScalarFloatComparesAndConversions : Prop :=
  (∀ (o : A3Op) (s : State), let a := fmtF32.decode (s.f32 o.ra)
    let b := fmtF32.decode (s.f32 o.rb)
    let nan := a.isNan || b.isNan
    Runs (.feq o) s (WritesS o.rd (if a.eq b then 1 else 0) (a.snan ||| b.snan) s) ∧
    Runs (.flt o) s (WritesS o.rd (if a.lt b then 1 else 0) (if nan then flNV else 0) s) ∧
    Runs (.fle o) s (WritesS o.rd (if a.lt b || a.eq b then 1 else 0) (if nan then flNV else 0) s) ∧
    (nan = true → a.eq b = false ∧ a.lt b = false)) ∧
  (∀ (o : A2Op) (s : State), let a := s.f32 o.ra
    let e := a / 2 ^ 23 % 2 ^ 8
    let m := a % 2 ^ 23
    let neg := a / 2 ^ 31 = 1
    let k := if e = 255 then (if m = 0 then (if neg then 0 else 7) else if 2 ^ 22 ≤ m then 9 else 8)
      else if e = 0 then (if m = 0 then (if neg then 3 else 4) else if neg then 2 else 5)
      else if neg then 1 else 6
    GivesS (.fclass o) o.rd (BitVec.ofNat 64 (2 ^ k)) s) ∧
  (∀ (o : FcvtOp) (s : State), let a := s.sreg o.ra
    let x : Int := match o.ity with
      | .i32 => (a.truncate 32).toInt
      | .n32 => (a.toNat % 2 ^ 32 : Nat)
      | .i64 => a.toInt
      | .n64 => (a.toNat : Nat)
    GivesF (.fcvtif o) o.rd (ofInt fmtF32 o.rm 0 false x) s) ∧
  (∀ (o : FcvtOp) (s : State), let v := fmtF32.decode (s.f32 o.ra)
    let r := toInt (o.ity == .i32 || o.ity == .i64) (if o.ity = .i32 ∨ o.ity = .n32 then 32 else 64) o.rm 0 v
    Runs (.fcvtfi o) s (WritesS o.rd (if o.ity = .i32 then (BitVec.ofNat 32 r.1).signExtend 64 else BitVec.ofNat 64 r.1) r.2 s))

/-- R72, R73: a value that a format can represent is written exactly in every rounding mode, without a flag: rounding the
finite value of a code gives the code back. -/
def Claims.RoundingAnExactValueGivesItsCode : Prop :=
  ∀ (f : Fmt) (rm : RoundMode) (r16 : Nat) (sat neg : Bool) (m c : Nat) (e : Int), f ∈ floatFormats →
    c < 2 ^ f.width → r16 < 2 ^ 16 → f.decode c = .fin neg m e → f.round rm r16 sat neg ⟨m, e, false⟩ = (c, 0)

/-- Results, flags and rounding of the scalar floating-point instructions (R154, R155, R156, R153, R72, R73): the claims above
together. -/
def Obligations.ScalarFloatInstructionsRoundOnce : Prop :=
  Claims.ScalarFloatResults ∧ Claims.ScalarFloatComparesAndConversions ∧ Claims.RoundingAnExactValueGivesItsCode

/-- R159, R160, R161, R163, R35: NOP changes nothing; BR, a BRC whose condition holds of the signed scalar, a BRV whose
uniform predicate agrees and JR set the pending redirect to B + 32·disp, or to s[ra], and change nothing else; a branch not
taken changes nothing; a mixed predicate raises NONUNIF, a JR target that is no bundle address ALIGN (R40). That JR takes the low 48
bits of s[ra] is the model's choice (log 8). -/
def Claims.BranchesSetThePendingTarget : Prop := ∀ s : State,
  let to' (d : Int) : CodeAddr := BitVec.ofInt 48 ((s.stream.pc.toNat / 32 * 32 : Nat) + 32 * d)
  let go (a : CodeAddr) : Out := .next (s.onStream fun x => { x with pend := some (.branch a) })
  exec .nop s = .next s ∧
  (∀ d : BitVec 25, exec (.br d) s = go (to' d.toInt)) ∧
  (∀ o : BrcOp, let v := (s.sreg o.ra).toInt
    let holds : Bool := match o.cond with
      | .eqz => decide (v = 0)
      | .nez => decide (v ≠ 0)
      | .ltz => decide (v < 0)
      | .gez => decide (0 ≤ v)
      | .gtz => decide (0 < v)
      | .lez => decide (v ≤ 0)
    exec (.brc o) s = if holds then go (to' o.disp.toInt) else .next s) ∧
  (∀ o : BrvOp, let p := s.preg o.pn
    (p = BitVec.allOnes 1024 → exec (.brv o) s = if o.onTrue then go (to' o.disp.toInt) else .next s) ∧
    (p = 0 → exec (.brv o) s = if o.onTrue then .next s else go (to' o.disp.toInt)) ∧
    (p ≠ BitVec.allOnes 1024 → p ≠ 0 → Traps (.brv o) s { num := 0x04, slot := 0 })) ∧
  (∀ ra : RegNo, let t : CodeAddr := (s.sreg ra).truncate 48
    (t.toNat % 32 = 0 → exec (.jr ra) s = go t) ∧ (t.toNat % 32 ≠ 0 → Traps (.jr ra) s { num := 0x07, slot := 0 }))

/-- R162, R163, R167: with room in the store CALL and CALLR push the address that fetch would have gone to and set the
pending target; RET pops the newest address. A full store spills its oldest entry as eight bytes at SPILLED in the SPILL
window; with no such window, no room or SPILLED at its end CALLDEEP is raised; RET of an empty stack raises RETEMPTY, of a
spilled address that cannot be corrected UNCORR (R105), and a target that is no bundle address ALIGN. The model's choices are that
CALLR tests ALIGN before CALLDEEP (log 70) and takes the low 48 bits of s[ra] (log 8), and that nothing is stated of a spilled address
whose line is reached under two key slots (log 18). -/
def Claims.CallsAndReturnsKeepAStack : Prop := ∀ s : State,
  let x := s.stream
  let ret := x.nextBundle (bundleOf x.pc)
  let t := x.theTask
  let slot := fun (w n : Nat) => t.phys w ((t.win w).base + 8 * n)
  let calls := fun (i : Instr) (target : CodeAddr) =>
    (x.ras.length < 16 → exec i s = .next (s.onStream fun x => { x with ras := ret :: x.ras, pend := some (.call target) })) ∧
    (∀ w, 16 ≤ x.ras.length → t.spillWin = some w → x.spilled ≠ 0xFFFF → 8 * (x.spilled.toNat + 1) ≤ (t.win w).len →
      ∃ u, WritesMem (storedBytes (slot w x.spilled.toNat) 8 ((x.ras.getLast?).getD 0).toNat) s u ∧
        exec i s = .next (u.onStream fun x =>
          { x with ras := ret :: x.ras.dropLast, spilled := x.spilled + 1, pend := some (.call target) })) ∧
    (16 ≤ x.ras.length → (t.spillWin = none ∨ x.spilled = 0xFFFF ∨ ∃ w, t.spillWin = some w ∧
      (t.win w).len < 8 * (x.spilled.toNat + 1)) → Traps i s { num := 0x09, slot := 0 })
  (∀ d : BitVec 25, calls (.call d) (BitVec.ofInt 48 ((x.pc.toNat / 32 * 32 : Nat) + 32 * d.toInt))) ∧
  (∀ ra : RegNo, let a : CodeAddr := (s.sreg ra).truncate 48
    (a.toNat % 32 = 0 → calls (.callr ra) a) ∧ (a.toNat % 32 ≠ 0 → Traps (.callr ra) s { num := 0x07, slot := 0 })) ∧
  (∀ a rest, x.ras = a :: rest → a.toNat % 32 = 0 →
    exec .ret s = .next (s.onStream fun x => { x with ras := rest, pend := some (.branch a) })) ∧
  (∀ a w, x.ras = [] → x.spilled ≠ 0 → t.spillWin = some w → s.loose = [] → a.toNat % 32 = 0 →
    (∀ k, k < 8 → (slot w (x.spilled.toNat - 1) + k) / 8 ∉ s.poison ∧ s.steady noKey ((slot w (x.spilled.toNat - 1) + k) / 128)) →
    (∀ k, k < 6 → s.byte (slot w (x.spilled.toNat - 1) + k) = BitVec.ofNat 8 (a.toNat / 256 ^ k)) →
    ∃ u, ReadsMem s u ∧ exec .ret s = .next (u.onStream fun x => { x with spilled := x.spilled - 1, pend := some (.branch a) })) ∧
  (∀ w, x.ras = [] → x.spilled ≠ 0 → t.spillWin = some w → slot w (x.spilled.toNat - 1) / 8 ∈ s.poison →
    Traps .ret s { num := 0x14, slot := 0 }) ∧
  (∀ a rest, x.ras = a :: rest → a.toNat % 32 ≠ 0 → Traps .ret s { num := 0x07, slot := 0 }) ∧
  (x.ras = [] → x.spilled = 0 → Traps .ret s { num := 0x0A, slot := 0 })

/-- R164, R165: a LOOP or LOOPI of an index that no active entry has, with fewer than six entries, sets its index to 0 and
pushes {index, count, START, END}, or with count 0 sets the pending skip; a second loop of an index raises LOOPIDX, a
seventh LOOPDEEP. -/
def Claims.LoopsPushOrSkip : Prop := ∀ s : State,
  let x := s.stream
  let b : Nat := x.pc.toNat / 32 * 32
  let loops := fun (i : Instr) (n : Fin 6) (count : Word) (len : BitVec 10) =>
    let stop := BitVec.ofNat 48 (b + 32 * len.toNat)
    ((∀ e ∈ x.loops, e.idx ≠ n) → x.loops.length < 6 → Runs i s fun t =>
      t.stream.i = x.i.set n 0 ∧ SameSeg s t ∧
      t.stream.loops = (if count = 0 then x.loops else ⟨n, count, BitVec.ofNat 48 (b + 32), stop⟩ :: x.loops) ∧
      t.stream.pend = (if count = 0 then some (.skip stop) else x.pend) ∧
      t = s.onStream fun x =>
        { x with i := t.stream.i, loops := t.stream.loops, pend := t.stream.pend, seg := t.stream.seg }) ∧
    ((∃ e ∈ x.loops, e.idx = n) → Traps i s { num := 0x0B, slot := 0 }) ∧
    ((∀ e ∈ x.loops, e.idx ≠ n) → x.loops.length = 6 → Traps i s { num := 0x0C, slot := 0 })
  (∀ o : LoopOp, loops (.loop o) o.idx ((s.sreg o.rc).truncate 32) o.len) ∧
  (∀ o : LoopiOp, loops (.loopi o) o.idx (BitVec.ofNat 32 o.count.toNat) o.len)

/-- NOP, branches, calls, returns and loops (R159, R160, R161, R163, R35, R162, R167, R164, R165): the claims above together.
-/
def Obligations.BranchesCallsAndLoopsSteerTheStream : Prop :=
  Claims.BranchesSetThePendingTarget ∧ Claims.CallsAndReturnsKeepAStack ∧ Claims.LoopsPushOrSkip

/-- R164: the words of opcodes 0x08 and 0x09 in slot 0 are LOOP and LOOPI, where the index is 0 to 5, the body length L is not 0 and
the fields named zero are, else ILLEGAL; one that pushes takes its count from sa[31:0] or imm12, START = B + 32, END = B + 32 L. -/
def Obligations.LoopWordsNameTheirBody : Prop :=
  (∀ w, w < 2 ^ 32 → field w 25 6 = 8 →
    ((6 ≤ field w 22 3 ∨ field w 10 7 ≠ 0 ∨ field w 0 10 = 0) → decodeSlot 0 w = .error .illegal) ∧
    (field w 22 3 < 6 → field w 10 7 = 0 → field w 0 10 ≠ 0 → ∃ o, decodeSlot 0 w = .ok (.loop o) ∧
      o.idx.val = field w 22 3 ∧ o.rc = regAt w 17 ∧ o.len.toNat = field w 0 10)) ∧
  (∀ w, w < 2 ^ 32 → field w 25 6 = 9 →
    ((6 ≤ field w 22 3 ∨ field w 0 10 = 0) → decodeSlot 0 w = .error .illegal) ∧
    (field w 22 3 < 6 → field w 0 10 ≠ 0 → ∃ o, decodeSlot 0 w = .ok (.loopi o) ∧
      o.idx.val = field w 22 3 ∧ o.count.toNat = field w 10 12 ∧ o.len.toNat = field w 0 10)) ∧
  ∀ (s : State) (i : Instr) (n : Fin 6) (count : Word) (len : BitVec 10),
    (∃ o, i = .loop o ∧ o.idx = n ∧ o.len = len ∧ count = (s.sreg o.rc).truncate 32) ∨
      (∃ o, i = .loopi o ∧ o.idx = n ∧ o.len = len ∧ count = BitVec.ofNat 32 o.count.toNat) →
    (∀ e ∈ s.stream.loops, e.idx ≠ n) → s.stream.loops.length < 6 → count ≠ 0 →
    let b := s.stream.pc.toNat / 32 * 32
    Runs i s fun t => t.stream.loops =
      ⟨n, count, BitVec.ofNat 48 (b + 32), BitVec.ofNat 48 (b + 32 * len.toNat)⟩ :: s.stream.loops

/-- R166, R167, R39: at the end of a bundle without another redirect the loops that end there, inner first, count up, and go
round or are popped; a taken branch pops the loops whose [START, END] does not hold the target; a call leaves them to R166. DONE empties
the loop stack, the return store, SPILLED and the latches, and the next point, x fastest, starts at ENTRY, or the completion begins
(R28, R168, R337). -/
def Claims.BundleEndSteersFetch : Prop := ∀ (x : Machine.Stream) (addr : CodeAddr),
  let r := x.endBundle addr
  (x.pend = none → x.loops = [] → r = { x with pc := addr + 32 }) ∧
  (∀ e ls, x.pend = none → x.loops = e :: ls → e.stop ≠ addr → r = { x with pc := addr + 32 }) ∧
  (∀ e ls, x.pend = none → x.loops = e :: ls → e.stop = addr → x.i[e.idx] + 1 < e.count →
    r.pc = e.start ∧ r.loops = x.loops ∧ r.i = x.i.set e.idx (x.i[e.idx] + 1) ∧ r.pend = none) ∧
  (∀ e ls, x.pend = none → x.loops = e :: ls → e.stop = addr → e.count ≤ x.i[e.idx] + 1 →
    let y := { x with loops := ls, i := x.i.set e.idx (x.i[e.idx] + 1) }
    r.pc = (y.endBundle addr).pc ∧ r.loops = (y.endBundle addr).loops ∧ r.i = (y.endBundle addr).i) ∧
  (∀ t, x.pend = some (.branch t) → r.pc = t ∧ r.pend = none ∧ r.i = x.i ∧
    (∃ popped, x.loops = popped ++ r.loops ∧ (∀ e ∈ popped, ¬(e.start ≤ t ∧ t ≤ e.stop)) ∧
      ∀ e ∈ r.loops.head?, e.start ≤ t ∧ t ≤ e.stop)) ∧
  (∀ t, x.pend = some (.call t) → r.pc = t ∧ r.pend = none ∧
    r.loops = ({ x with pend := none }.endBundle addr).loops ∧ r.i = ({ x with pend := none }.endBundle addr).i) ∧
  (∀ e, x.pend = some (.skip e) → r.pend = none ∧ r.pc = ({ x with pend := none }.endBundle e).pc ∧
    r.loops = ({ x with pend := none }.endBundle e).loops ∧ r.i = ({ x with pend := none }.endBundle e).i) ∧
  (∀ t, x.pend = some .done → x.task = some t →
    let n := fun k : Nat => x.domain.toNat / 2 ^ (21 * k) % 2 ^ 21
    let i := fun k : Nat => x.iter.toNat / 2 ^ (21 * k) % 2 ^ 21
    let last := n 0 * n 1 * n 2 ≤ t.points + 1
    r.iter = (if last then x.iter
      else if i 0 + 1 < n 0 then BitVec.ofNat 64 (i 0 + 1 + i 1 * 2 ^ 21 + i 2 * 2 ^ 42)
      else if i 1 + 1 < n 1 then BitVec.ofNat 64 ((i 1 + 1) * 2 ^ 21 + i 2 * 2 ^ 42) else BitVec.ofNat 64 ((i 2 + 1) * 2 ^ 42)) ∧
    r = { x with pend := none, loops := [], ras := [], spilled := 0, latchV := Vector.replicate 2 none,
                 latchC := Vector.replicate 2 none, pc := BitVec.ofNat 48 t.entry, task := some { t with points := t.points + 1 },
                 iter := r.iter, status := if last then .completing else x.status })

/-- R168, R172, R173, R366: outside a stub DONE closes the segment and asks the end of the bundle to end the point; SEG k of an entry that stands at this
bundle opens the segment and empties the latches; both raise STUB in a stub, and a SEG of no such entry ILLEGAL before that. -/
def Claims.DoneAndSegMarkThePoint : Prop := ∀ s : State,
  let x := s.stream
  (x.stub = none → exec .done s = .next (s.onStream fun x => { x with seg := none, pend := some .done })) ∧
  (x.stub ≠ none → Traps .done s { num := 0x17, slot := 0 }) ∧
  (∀ k : BitVec 12,
    (∀ e, x.stub = none → x.theTask.segs[k.toNat]? = some e → e.entry = x.pc.toNat / 32 * 32 → Runs (.seg k) s fun t =>
      (∃ g, t.stream.seg = some g ∧ g.stop = e.stop ∧ g.slive = e.slive ∧ g.vlive = e.vlive ∧ g.plive = e.plive ∧
        g.ilive = e.ilive ∧ g.loops = x.loops ∧ g.idxs = x.i ∧ g.ras = x.ras ∧ g.spilled = x.spilled ∧ g.flags = x.flags ∧
        g.overwritten = false ∧ g.rewinds = 0) ∧
      t = s.onStream fun x => { x with seg := t.stream.seg, latchV := Vector.replicate 2 none, latchC := Vector.replicate 2 none }) ∧
    (x.theTask.segs[k.toNat]? = none → Traps (.seg k) s { num := 0x01, slot := 0 }) ∧
    (∀ e, x.theTask.segs[k.toNat]? = some e → e.entry ≠ x.pc.toNat / 32 * 32 → Traps (.seg k) s { num := 0x01, slot := 0 }) ∧
    (∀ e, x.stub ≠ none → x.theTask.segs[k.toNat]? = some e → e.entry = x.pc.toNat / 32 * 32 →
      Traps (.seg k) s { num := 0x17, slot := 0 }))

/-- The end of a bundle and of a point; DONE and SEG (R166, R167, R39, R168, R172, R173, R366): the claims above together. -/
def Obligations.BundlesAndPointsEnd : Prop :=
  Claims.BundleEndSteersFetch ∧ Claims.DoneAndSegMarkThePoint

/-- R169, R366: in a task that is not PURE a SYS beyond the reserved numbers sends its number and s1-s4 to the firmware and stops
the stream until the result reaches its register, all ones for a service that the firmware does not provide; a reserved service
returns all ones at once; in a PURE task SYS raises PURITY. -/
def Claims.ServicesStopTheStream : Prop := ∀ (o : SysOp) (s : State),
  (s.stream.pure = false → 256 ≤ o.imm.toNat → Runs (.sys o) s fun t => t.stream.waitsSys = true ∧ SameSeg s t ∧
    (∀ v : DWord, s.holder ≠ none → s.stream.stub = none → Runs (.sysServiceComplete v) t fun u =>
      u.sreg o.rd = (if o.rd = 0 then 0 else if Config.firmwareProvides o.imm.toNat = true then v else BitVec.allOnes 64) ∧
        (∀ r, r ≠ o.rd → u.sreg r = s.sreg r) ∧ u.stream.wait = none ∧ u.mem = s.mem) ∧
    t = (s.onStream fun x => { x with wait := some (.sys o.rd o.imm), seg := t.stream.seg }).send
      (.sysRequest s.part o.imm [s.sreg 1, s.sreg 2, s.sreg 3, s.sreg 4])) ∧
  (s.stream.pure = false → 2 ≤ o.imm.toNat → o.imm.toNat < 256 →
    Runs (.sys o) s (WritesS o.rd (BitVec.allOnes 64) 0 s)) ∧
  (s.stream.pure = true → 2 ≤ o.imm.toNat → Traps (.sys o) s { num := 0x12, slot := 0 })

/-- R366: in a stub UNSTUB whose call depth is that of the stub's start returns to the position set aside, and to what was waited
for there; PARK issues, and the stream parks once no matrix instruction of the task is under way and its accesses are performed.
Outside a stub both raise STUB, in a PURE task PURITY. -/
def Claims.StubsReturnOrPark : Prop := ∀ s : State,
  (∀ r, s.stream.stub = some r → r.calls = s.stream.ras.length → r.spilled = s.stream.spilled → Runs .unstub s fun t =>
    t.stream.stub = none ∧ t.stream.pc = r.pc ∧ t.stream.pend = r.pend ∧ t.stream.loops = r.loops ∧
      t.stream.latchV = r.latchV ∧ t.stream.latchC = r.latchC ∧ SameSeg s t ∧
      t = s.onStream fun x => { x with pc := r.pc, pend := r.pend, loops := r.loops, latchV := r.latchV, latchC := r.latchC,
                                       wait := r.wait, stub := none, seg := t.stream.seg }) ∧
  (∀ r, s.stream.stub = some r → (r.calls ≠ s.stream.ras.length ∨ r.spilled ≠ s.stream.spilled) →
    Traps .unstub s { num := 0x17, slot := 0 }) ∧
  (s.stream.stub ≠ none → Runs .park s fun t => SameSeg s t ∧
    t = s.onStream fun x => { x with wait := some .park, seg := t.stream.seg }) ∧
  (s.stream.wait = some .park →
    ((∀ e ∈ s.matrix, e.part ≠ s.part) → s.accessesDone s.part = true →
      s.issue = s.onStream fun x => { x with status := .parked, wait := none, hold := none }) ∧
    ((∃ e ∈ s.matrix, e.part = s.part) ∨ s.accessesDone s.part = false →
      s.issue = s.onStream fun x => { x with hold := some .stall })) ∧
  (s.stream.stub = none → s.stream.pure = false →
    Traps .unstub s { num := 0x17, slot := 0 } ∧ Traps .park s { num := 0x17, slot := 0 }) ∧
  (s.stream.stub = none → s.stream.pure = true →
    Traps .unstub s { num := 0x12, slot := 0 } ∧ Traps .park s { num := 0x12, slot := 0 })

/-- R171, R30, R31, R32, R349: MFC of each of the sixteen control registers gives its contents, in sd alone; in a PURE task
MFC of GTIME, CYCLE and TASKID raises PURITY; a number beyond 15 raises ILLEGAL. MTC of FLAGS takes sa[6:0], MTC of SEED
sets the partition's seed and leaves SEEDSNAP; MTC of a read-only register changes nothing but the segment's mark. -/
def Claims.ControlRegistersReadAndWrite : Prop := ∀ (o : CtlOp) (s : State),
  let x := s.stream
  let b := (s.pt s.part).bind
  let dims := (List.range 14).filter fun d => x.subMask.getLsbD d
  let val : Nat → Option Nat := fun n => match n with
    | 0 => some s.node.toNat
    | 1 => some (x.subMask.toNat + x.subBase.toNat * 2 ^ 16)
    | 2 => some (((dims.mapIdx fun j d => if s.node.getLsbD d then 2 ^ j else 0).sum) + dims.length * 2 ^ 16)
    | 3 => some x.tickno.toNat
    | 4 => some s.gtime.toNat
    | 5 => some s.cycle.toNat
    | 6 => some x.seedsnap.toNat
    | 7 => some x.flags.toNat
    | 8 => some 0x007E0100
    | 9 => some (s.part.val + b.tenant.toNat * 2 ^ 8 + b.plates % 128 * 2 ^ 20)
    | 10 => some (b.checked.toNat + x.det.toNat * 2 + x.pure.toNat * 4 + x.exch.toNat * 8 + x.rqsafe.toNat * 16)
    | 11 => some x.iter.toNat
    | 12 => some x.domain.toNat
    | 13 => some x.taskid.toNat
    | 14 => some (x.ras.length + x.loops.length * 2 ^ 5 + x.spilled.toNat * 2 ^ 16)
    | 15 => some 0x0100
    | _ => none
  (∀ v, val o.num.toNat = some v → ¬(x.pure = true ∧ (o.num.toNat = 4 ∨ o.num.toNat = 5 ∨ o.num.toNat = 13)) →
    GivesS (.mfc o) o.reg (BitVec.ofNat 64 v) s) ∧
  (x.pure = true → (o.num.toNat = 4 ∨ o.num.toNat = 5 ∨ o.num.toNat = 13) → Traps (.mfc o) s { num := 0x12, slot := 0 }) ∧
  (16 ≤ o.num.toNat → Traps (.mfc o) s { num := 0x01, slot := 0 } ∧ Traps (.mtc o) s { num := 0x01, slot := 0 }) ∧
  (o.num.toNat = 7 → Runs (.mtc o) s fun t => t.stream.flags = BitVec.ofNat 7 ((s.sreg o.reg).toNat % 128) ∧ SameSeg s t ∧
    t = s.onStream fun x => { x with flags := t.stream.flags, seg := t.stream.seg }) ∧
  (o.num.toNat = 6 → x.pure = false → Runs (.mtc o) s fun t => (t.pt s.part).seed = s.sreg o.reg ∧ SameSeg s t ∧
    t = (s.onPart s.part fun p => { p with seed := s.sreg o.reg }).onStream fun x => { x with seg := t.stream.seg }) ∧
  (o.num.toNat = 6 → x.pure = true → Traps (.mtc o) s { num := 0x12, slot := 0 }) ∧
  (o.num.toNat < 16 → o.num.toNat ≠ 6 → o.num.toNat ≠ 7 → Runs (.mtc o) s fun t => SameSeg s t ∧
    t = s.onStream fun x => { x with seg := t.stream.seg })

/-- SYS, PARK, UNSTUB, MFC and MTC (R169, R366, R171, R30, R31, R32, R349): the claims above together. -/
def Obligations.ServicesStubsAndControlRegistersAct : Prop :=
  Claims.ServicesStopTheStream ∧ Claims.StubsReturnOrPark ∧ Claims.ControlRegistersReadAndWrite

/-- R170: TRAP raises USER and BRK raises BREAK, with their immediates in the record. -/
def Obligations.TrapAndBrkTakeTheirTraps : Prop := ∀ (imm : BitVec 20) (s : State),
  Traps (.trap imm) s { num := 0x15, slot := 0, info := imm.toNat } ∧ Traps (.brk imm) s { num := 0x16, slot := 0, info := imm.toNat }

/-- R175, R176: BARR adds its arrivals to COUNT, which saturates at 65,535; BSET sets TARGET and clears COUNT; BWAIT with
COUNT at or above TARGET goes on and takes TARGET off COUNT, BWAIT.keep leaves it; below TARGET the group waits. No other
barrier, register or byte changes. -/
def Claims.BarriersCountAndWait : Prop := ∀ s : State,
  let sets := fun (i : Instr) (b : Fin 64) (v : Barrier) => Runs i s fun t => SameSeg s t ∧
    t = s.onStream fun x => { x with bars := x.bars.set b v, seg := t.stream.seg }
  (∀ o : BarOp, let b := s.stream.bars[o.b]
    sets (.barr o) o.b ⟨BitVec.ofNat 16 (min (b.count.toNat + o.n.toNat) 65535), b.target⟩) ∧
  (∀ o : BarOp, sets (.bset o) o.b ⟨0, o.n⟩) ∧
  (∀ o : BwaitOp, let b := s.stream.bars[o.b]
    (b.target.toNat ≤ b.count.toNat →
      sets (.bwait o) o.b ⟨if o.keep then b.count else BitVec.ofNat 16 (b.count.toNat - b.target.toNat), b.target⟩) ∧
    (b.count.toNat < b.target.toNat →
      exec (.bwait o) s = .next (s.onStream fun x => { x with hold := some .waitPoint })))

/-- R143, R100: WAITID of an identifier at or below the channel's DONEID goes on, no byte or register changing; where the header
can be read, only the stash sees the read; above DONEID the group waits. Nothing is stated of bytes that are reached under two key slots
(log 18). -/
def Claims.WaitidWaitsForTheDoneId : Prop := ∀ (o : WaitidOp) (s : State),
  ((s.sreg o.rk).toNat ≤ s.doneId s.part o.ch → Runs (.waitid o) s fun t => SameSeg s t ∧ (s.OneKey → ∀ a, t.byte a = s.byte a) ∧ t.stream.s = s.stream.s ∧
    t.plates = s.plates ∧ ∀ v, s.copyView s.part o.ch = some v → s.copyHdr s.part o.ch % 64 = 0 → s.OneKey →
      ∃ r, ReadsMem s r ∧ t = r.onStream fun x => { x with seg := t.stream.seg }) ∧
  (s.doneId s.part o.ch < (s.sreg o.rk).toNat →
    exec (.waitid o) s = .next (s.onStream fun x => { x with hold := some .waitPoint }))

/-- R177, R312, R315: FENCE issues, and the next group waits; what it waits for has come about once no access of the stream and
nothing of the named classes is under way. Then the stream goes on, and no reader of the named paths, nor the matrix unit after a
store, may still see what a write of a named path replaced; till then the stream waits. That it orders the matrix unit, and a copy path
with no packets left, after a store where the mask does not name them is the model's choice (log 69); so is that hs waits for the host's
own writes and not for its packets (log 99). -/
def Claims.FenceOrdersTheNamedPaths : Prop := ∀ (mask : BitVec 5) (s : State),
  let p := s.part
  let x := s.stream
  let named := fun (m : BitVec 5) (r : Path) => match r with
    | .st => m.getLsbD 0 = true
    | .mx => m.getLsbD 1 = true
    | .cp => m.getLsbD 2 = true
    | .outside => False
  exec (.fence mask) s = .next (s.onStream fun x => { x with wait := some (.fence (s.fenceOf mask)) }) ∧
  (s.holder ≠ none → s.accessesDone p = true → (mask.getLsbD 1 = true → s.matrix = []) →
    (mask.getLsbD 2 = true → (s.pt p).ownPackets = false) → (mask.getLsbD 3 = true → (s.pt p).exchanging = false) →
    (mask.getLsbD 4 = true → ∀ w ∈ s.landings, w.agent = .host → s.landingNo ≤ w.num) → s.fenceMet (s.fenceOf mask) = true) ∧
  (∀ f : FenceWait, x.wait = some (.fence f) →
    (s.fenceMet f = true → ∃ t, s.issue = t ∧
      (∀ l ∈ t.loose, l.part = p → named f.mask l.path → ∀ r,
        (named f.mask r ∨ (l.path = .st ∧ (r = .mx ∨ (r = .cp ∧ (s.pt p).ownPackets = false)))) → r ∉ l.freeFor) ∧
      t.loose.map (fun l => (l.part, l.path, l.addr, l.old)) = s.loose.map (fun l => (l.part, l.path, l.addr, l.old)) ∧
      t = { s with loose := t.loose }.onStream fun x => { x with wait := none, hold := none }) ∧
    (s.fenceMet f = false → s.issue = s.onStream fun x => { x with hold := some .waitPoint }))

/-- Barriers, WAITID and FENCE (R175, R176, R143, R100, R177, R312, R315): the claims above together. -/
def Obligations.WaitsAndFencesOrderTheStream : Prop :=
  Claims.BarriersCountAndWait ∧ Claims.WaitidWaitsForTheDoneId ∧ Claims.FenceOrdersTheNamedPaths

/-- R178, R179, R180, R104: TICK issues, closing the segment, and the next group waits. Once the accesses of the stream have been
performed, no exchange of the task is under way and every partner's token has come, the tick ends in one step: TICKNO counts up,
the partition's staged lines and the values its readers might still see are gone, and with no accumulate waiting for the merge no
line stays its own dirty line. Till then the stream waits. -/
def Claims.TickMergesAndCountsUp : Prop := ∀ (sc : Scope) (s : State), sc ≠ .lane → sc ≠ .slab →
  let begun : Wait := .agree (Join.start (.tick sc))
  ((if sc = .die then s.stream.stub = none else MayReach s sc) →
    exec (.tick sc) s = .next (s.onStream fun x => { x with seg := none, wait := some begun })) ∧
  (s.stream.wait = some begun → s.accessesDone s.part = true → (s.pt s.part).exchanging = false →
    AgreementHeard s true sc (if sc = .pack then 2 else 1) → ∃ t, s.issue = t ∧
      t.stream.tickno = s.stream.tickno + 1 ∧ t.stream.wait = none ∧ t.stream.seg = s.stream.seg ∧ t.stream.hold = none ∧
      (∀ l ∈ t.staged, l.tag ≠ s.part) ∧ (∀ l ∈ t.loose, l.part ≠ s.part) ∧
      ((∀ a ∈ s.heldAccs, a.tag ≠ s.part) → ∀ l ∈ t.stash, s.part ∉ l.owners) ∧
      t.stream.s = s.stream.s ∧ t.plates = s.plates) ∧
  (s.stream.wait = some begun → s.accessesDone s.part = false ∨ (s.pt s.part).exchanging = true →
    s.issue = s.onStream fun x => { x with hold := some .waitPoint })

/-- R178, R180: SYNCP and SYNCC issue, closing the segment, and the next group waits. Once the releases or tokens have come the
stream goes on, with every register, byte and plate as before; before it has heard from every partner it waits. -/
def Claims.SynchronisationsAgreeOrWait : Prop := ∀ s : State,
  let syncs := fun (i : Instr) (sc : Scope) (kind : JoinKind) =>
    let begun : Wait := .agree (Join.start kind)
    (MayReach s sc → exec i s = .next (s.onStream fun x => { x with seg := none, wait := some begun })) ∧
    (s.stream.wait = some begun → AgreementHeard s false sc 1 → ∃ t, s.issue = t ∧ t.stream.wait = none ∧
      t.stream.seg = s.stream.seg ∧ t.stream.hold = none ∧ t.stream.tickno = s.stream.tickno ∧ t.stream.s = s.stream.s ∧
      t.mem = s.mem ∧ t.plates = s.plates ∧ t.loose = s.loose) ∧
    (s.stream.wait = some begun → ¬AgreementHeard s false sc 1 → ∃ t, s.issue = t ∧ t.stream.wait.isSome = true ∧
      t.stream.hold = some .waitPoint ∧ t.mem = s.mem)
  syncs .syncp .pack .syncp ∧ syncs (.syncc .sub) .sub (.syncc .sub) ∧ syncs (.syncc .cube) .cube (.syncc .cube)

/-- R174: RDZ of dimensions the subcube has sends one flit across each and closes the segment; with a mask that is not empty the
next group waits until the partners have answered across every one of them as often as they have been asked. -/
def Claims.RendezvousMeetsEveryPartner : Prop := ∀ (mask : BitVec 14) (s : State),
  let begun : Wait := .agree (Join.start (.rdz mask))
  let sent := fun (t : State) (j : Nat) => t.stream.rdzSent.toList.getD (physDim s.stream.subMask j) 0
  let heard := ∀ j, mask.getLsbD j = true → sent s j ≤ (s.pt s.part).rdzCount (physDim s.stream.subMask j) s.stream.theTask.seq
  ((∀ j, mask.getLsbD j = true → j < s.stream.order) → s.stream.stub = none →
    (mask ≠ 0 → s.stream.pure = false ∧ s.stream.exch = true) → Runs (.rdz mask) s fun t =>
      t.stream.wait = (if mask = 0 then s.stream.wait else some begun) ∧ t.stream.seg = none ∧ t.mem = s.mem ∧
      t.stream.s = s.stream.s ∧ ∀ j, mask.getLsbD j = true → let d := physDim s.stream.subMask j
        sent t j = sent s j + 1 ∧ Sends d (.rdz (s.pt s.part).bind.job s.stream.theTask.seq) s t) ∧
  (s.stream.wait = some begun → heard → s.issue = s.onStream fun x => { x with wait := none, hold := none }) ∧
  (s.stream.wait = some begun → ¬heard → s.issue = s.onStream fun x => { x with hold := some .waitPoint })

/-- R174, R178, R349, R366: what reaches another die raises PURITY in a PURE task, else STUB in a stub, else XDIM in a task
that is not EXCHANGE; a TICK of the die raises STUB alone. That STUB comes before XDIM is the model's choice (log 70). -/
def Claims.ReachingOtherDiesTraps : Prop := ∀ (s : State) (i : Instr),
  i ∈ [Instr.syncp, .syncc .sub, .syncc .cube, .tick .pack, .tick .sub, .tick .cube, .rdz 1] →
  (s.stream.pure = true → Traps i s { num := 0x12, slot := 0 }) ∧
  (s.stream.pure = false → s.stream.stub ≠ none → Traps i s { num := 0x17, slot := 0 } ∧ Traps (.tick .die) s { num := 0x17, slot := 0 }) ∧
  (s.stream.pure = false → s.stream.stub = none → s.stream.exch = false → Traps i s { num := 0x10, slot := 0 })

/-- TICK, SYNCP, SYNCC and RDZ: when they go on, wait and trap (R178, R179, R180, R104, R174, R349, R366): the claims above
together. -/
def Obligations.AgreementsCrossDies : Prop :=
  Claims.TickMergesAndCountsUp ∧ Claims.SynchronisationsAgreeOrWait ∧ Claims.RendezvousMeetsEveryPartner ∧
    Claims.ReachingOtherDiesTraps

/-- R182, R183, R185, R186, R187, R68, R69: element arithmetic in every active lane, elements being those of the type; integers
wrap, or clamp with SAT; a float is the one rounded result; VFMA and VFMS add to, and take from the product, the old element. -/
def Claims.VectorArithmeticResults : Prop :=
  (∀ (o : V2Op) (s : State), ReadyV o.pipe1 o.hold s →
    let act := fun k => (s.preg o.pg).getLsbD k
    let a := fun k j => elemAt o.ty.bits (s.srcV o.pipe1 o.hold false o.va k) j
    let b := fun k j => elemAt o.ty.bits (s.srcV o.pipe1 o.hold true o.vb k) j
    let d := fun k j => elemAt o.ty.bits (s.lane o.vd k) j
    let z := elemInt o.ty
    let gives := fun (i : Instr) (f : Nat → Nat → Nat × Flags) =>
      Runs i s fun t => WritesElems o.vd act o.ty f s t ∧ LatchesV o.pipe1 o.hold o.va o.vb s t
    (∀ f, elemFmt o.ty = some f →
      gives (.vadd o) (fun k j => f.addOp .rne o.m (a k j) (b k j)) ∧ gives (.vsub o) (fun k j => f.subOp .rne o.m (a k j) (b k j)) ∧
      gives (.vmul o) (fun k j => f.mulOp .rne o.m (a k j) (b k j)) ∧ gives (.vdiv o) (fun k j => f.divOp .rne o.m (a k j) (b k j)) ∧
      gives (.vmin o) (fun k j => f.minMax false (a k j) (b k j)) ∧ gives (.vmax o) (fun k j => f.minMax true (a k j) (b k j)) ∧
      gives (.vfma o) (fun k j => f.fmaOp .rne o.m false false (a k j) (b k j) (d k j)) ∧
      gives (.vfms o) (fun k j => f.fmaOp .rne o.m false true (a k j) (b k j) (d k j))) ∧
    (elemFmt o.ty = none →
      gives (.vadd o) (fun k j => intSpec o.ty o.m (z (a k j) + z (b k j))) ∧
      gives (.vsub o) (fun k j => intSpec o.ty o.m (z (a k j) - z (b k j))) ∧
      gives (.vmul o) (fun k j => intSpec o.ty o.m (z (a k j) * z (b k j))) ∧
      gives (.vdiv o) (fun k j => if b k j = 0 then (2 ^ o.ty.bits - 1, 0) else intSpec o.ty false ((z (a k j)).tdiv (z (b k j)))) ∧
      gives (.vmin o) (fun k j => intSpec o.ty false (min (z (a k j)) (z (b k j)))) ∧
      gives (.vmax o) (fun k j => intSpec o.ty false (max (z (a k j)) (z (b k j))))) ∧
    gives (.vshl o) (fun k j => (a k j * 2 ^ (b k j % o.ty.bits), 0)) ∧
    gives (.vshr o) (fun k j => intSpec o.ty false (z (a k j) / 2 ^ (b k j % o.ty.bits)))) ∧
  (∀ (o : V1Op) (s : State), ReadyV o.pipe1 o.hold s →
    let act := fun k => (s.preg o.pg).getLsbD k
    let a := fun k j => elemAt o.ty.bits (s.srcV o.pipe1 o.hold false o.va k) j
    let z := elemInt o.ty
    let gives := fun (i : Instr) (f : Nat → Nat → Nat × Flags) =>
      Runs i s fun t => WritesElems o.vd act o.ty f s t ∧ LatchesV o.pipe1 o.hold o.va 0 s t
    (elemFmt o.ty = none → gives (.vabs o) (fun k j => intSpec o.ty o.sat ((z (a k j)).natAbs : Int)) ∧
      gives (.vneg o) (fun k j => intSpec o.ty o.sat (-z (a k j)))) ∧
    (∀ f, elemFmt o.ty = some f → gives (.vabs o) (fun k j => signOp f (absCode f) (a k j)) ∧
      gives (.vneg o) (fun k j => signOp f (negCode f) (a k j))))

/-- R188: each of the nine functions completes with the function's result in every active element; that the model's
computation rounds the exact value right at every operand is presumed (log 6). -/
def Claims.TranscendentalsComplete : Prop := ∀ (o : V1Op) (s : State) (f : Fmt), ReadyV o.pipe1 o.hold s →
  elemFmt o.ty = some f → ∀ x ∈ [(Instr.vrcp o, TFn.rcp), (.vrsqrt o, .rsqrt), (.vsqrt o, .sqrt), (.vexp2 o, .exp2), (.vlog2 o, .log2),
    (.vtanh o, .tanh), (.vsigm o, .sigm), (.vsin o, .sin), (.vcos o, .cos)],
  Runs x.1 s fun t => LatchesV o.pipe1 o.hold o.va 0 s t ∧ WritesElems o.vd (fun k => (s.preg o.pg).getLsbD k) o.ty
    (fun k j => f.transc x.2 o.sat (elemAt o.ty.bits (s.srcV o.pipe1 o.hold false o.va k) j)) s t

/-- Vector arithmetic and the transcendental functions (R182, R183, R185, R186, R187, R68, R69, R188): the claims above
together. -/
def Obligations.VectorArithmeticGivesItsResults : Prop :=
  Claims.VectorArithmeticResults ∧ Claims.TranscendentalsComplete

/-- R185, R190, R193, R197, R198, R202, R203: the operations on whole lanes: bitwise, select (which writes every lane), permute
within a slab, shift toward higher lanes, bit counts, packing and unpacking. -/
def Claims.WholeLaneOperations : Prop :=
  (∀ (o : VwOp) (s : State), ReadyV o.pipe1 o.hold s →
    let act := fun k => (s.preg o.pg).getLsbD k
    let a := s.srcV o.pipe1 o.hold false o.va
    let b := s.srcV o.pipe1 o.hold true o.vb
    let gives := fun (i : Instr) (act : Nat → Bool) (f : Nat → Word) =>
      Runs i s fun t => WritesLanes o.vd act f s t ∧ LatchesV o.pipe1 o.hold o.va o.vb s t
    gives (.vand o) act (fun k => a k &&& b k) ∧ gives (.vor o) act (fun k => a k ||| b k) ∧
    gives (.vxor o) act (fun k => a k ^^^ b k) ∧ gives (.vsel o) (fun _ => true) (fun k => if act k then a k else b k) ∧
    gives (.vperm o) act (fun k => a (k / 64 * 64 + (b k).toNat % 64))) ∧
  (∀ (o : VshsOp) (s : State), ReadyV false o.hold s → Runs (.vshs o) s fun t => LatchesV false o.hold o.va 0 s t ∧
    WritesLanes o.vd (fun k => (s.preg o.pg).getLsbD k)
      (fun k => if k < o.nm1.val + 1 then 0 else s.srcV false o.hold false o.va (k - (o.nm1.val + 1))) s t) ∧
  (∀ (o : VbitOp) (s : State), ReadyV o.pipe1 o.hold s → let a := s.srcV o.pipe1 o.hold false o.va
    Runs (.vbit o) s fun t => LatchesV o.pipe1 o.hold o.va 0 s t ∧ WritesLanes o.vd (fun k => (s.preg o.pg).getLsbD k)
      (fun k => BitVec.ofNat 32 (match o.fn with
        | .clz => ((List.range 32).takeWhile fun j => !(a k).getLsbD (31 - j)).length
        | .ctz => ((List.range 32).takeWhile fun j => !(a k).getLsbD j).length
        | .popc => (List.range 32).countP fun j => (a k).getLsbD j)) s t) ∧
  (∀ (o : V2Op) (s : State), ReadyV o.pipe1 o.hold s → (o.ty.bits = 16 ∨ o.ty.bits = 8) →
    let a := s.srcV o.pipe1 o.hold false o.va
    let b := s.srcV o.pipe1 o.hold true o.vb
    Runs (.vpack o) s fun t => LatchesV o.pipe1 o.hold o.va o.vb s t ∧ t.stream.flags = s.stream.flags ∧ OnlyV o.vd s t ∧
      ∀ k, k < 1024 → if (s.preg o.pg).getLsbD k then
        (∀ j, j < o.ty.perLane → let e := elemAt o.ty.bits (t.lane o.vd k) j
          let base := if o.ty.bits = 8 ∧ o.m = true then 2 else 0
          e = if j = base then (a k).toNat % 2 ^ o.ty.bits else if j = base + 1 then (b k).toNat % 2 ^ o.ty.bits
            else elemAt o.ty.bits (s.lane o.vd k) j)
      else t.lane o.vd k = s.lane o.vd k) ∧
  (∀ (o : VunpkOp) (s : State), ReadyV o.pipe1 o.hold s → let a := s.srcV o.pipe1 o.hold false o.va
    Runs (.vunpk o) s fun t => LatchesV o.pipe1 o.hold o.va 0 s t ∧ WritesLanes o.vd (fun k => (s.preg o.pg).getLsbD k)
      (fun k => BitVec.ofInt 32 (elemInt o.ty (elemAt o.ty.bits (a k) o.j.val))) s t)

/-- R189, R191: a compare writes 1 into the bits of the active lanes whose elements stand in the relation and 0 into all
others; equality raises NV for a signalling NaN, order for any; PLOG writes every bit. Only the predicate and flags change. -/
def Claims.ComparesAndPredicateLogic : Prop :=
  (∀ (o : VcmpOp) (s : State), o.pd ≠ 0 → ReadyV o.pipe1 o.hold s →
    let act := fun k => (s.preg o.pg).getLsbD k
    let a := fun k => (s.srcV o.pipe1 o.hold false o.va k).toNat
    let b := fun k => (s.srcV o.pipe1 o.hold true o.vb k).toNat
    let gives := fun (i : Instr) (rel : Nat → Bool) (fl : Nat → Flags) => Runs i s fun t =>
      (∀ k, k < 1024 → (t.preg o.pd).getLsbD k = (act k && rel k)) ∧ (∀ q, q ≠ o.pd → t.preg q = s.preg q) ∧
      RaisesFrom act fl s t ∧ LatchesV o.pipe1 o.hold o.va o.vb s t ∧ SameSeg s t ∧
      t = { s with stream := { s.stream with p := t.stream.p, flags := t.stream.flags, seg := t.stream.seg,
                                             latchV := t.stream.latchV } }
    (∀ f, elemFmt o.ty = some f → let x := fun k => f.decode (a k)
      let y := fun k => f.decode (b k)
      let quiet := fun k => (x k).snan ||| (y k).snan
      let any := fun k => if (x k).isNan || (y k).isNan then flNV else 0
      gives (.vcmpeq o) (fun k => (x k).eq (y k)) quiet ∧ gives (.vcmpne o) (fun k => !(x k).eq (y k)) quiet ∧
      gives (.vcmplt o) (fun k => (x k).lt (y k)) any ∧ gives (.vcmple o) (fun k => (x k).lt (y k) || (x k).eq (y k)) any) ∧
    (elemFmt o.ty = none → let x := fun k => elemInt o.ty (a k)
      let y := fun k => elemInt o.ty (b k)
      gives (.vcmpeq o) (fun k => decide (x k = y k)) (fun _ => 0) ∧ gives (.vcmpne o) (fun k => decide (x k ≠ y k)) (fun _ => 0) ∧
      gives (.vcmplt o) (fun k => decide (x k < y k)) (fun _ => 0) ∧ gives (.vcmple o) (fun k => decide (x k ≤ y k)) (fun _ => 0))) ∧
  (∀ (o : PlogOp) (s : State), o.pd ≠ 0 → Runs (.plog o) s fun t =>
    (∀ k, k < 1024 → (t.preg o.pd).getLsbD k = (let a := (s.preg o.pa).getLsbD k
      let b := (s.preg o.pb).getLsbD k
      match o.fn with
      | .and => a && b
      | .or => a || b
      | .xor => a != b
      | .andn => a && !b
      | .not => !a)) ∧ (∀ q, q ≠ o.pd → t.preg q = s.preg q) ∧ SameSeg s t ∧
    t = { s with stream := { s.stream with p := t.stream.p, seg := t.stream.seg } })

/-- R210, R211: VRNG draws for each active lane k the word of counter sa·1024 + k of the task's seed snapshot; an integer type
takes its low 32 bits, FP32 its top 24 bits over 2^24. The function of seed and counter is R210's. -/
def Claims.RandomNumbersFollowTheSeed : Prop := ∀ (o : VmovsOp) (s : State),
  let mix := fun (z : DWord) =>
    let a := (z ^^^ (z >>> 30)) * 0xBF58476D1CE4E5B9#64
    let b := (a ^^^ (a >>> 27)) * 0x94D049BB133111EB#64
    b ^^^ (b >>> 31)
  let word := fun (k : Nat) => mix (s.stream.seedsnap ^^^ mix (s.sreg o.sa * 1024 + BitVec.ofNat 64 k))
  Runs (.vrng o) s fun t => t.stream.latchV = s.stream.latchV ∧ t.stream.flags = s.stream.flags ∧ OnlyV o.vd s t ∧
    ∀ k, k < 1024 → ((s.preg o.pg).getLsbD k = false → t.lane o.vd k = s.lane o.vd k) ∧
      ((s.preg o.pg).getLsbD k = true → o.ty ≠ .f32 → t.lane o.vd k = BitVec.ofNat 32 (word k).toNat) ∧
      ((s.preg o.pg).getLsbD k = true → o.ty = .f32 → ∃ m : Nat, ∃ e : Int,
        fmtF32.decode (t.lane o.vd k).toNat = .fin false m e ∧ -149 ≤ e ∧
          m * 2 ^ (e + 149).toNat = (word k).toNat / 2 ^ 40 * 2 ^ (149 - 24))

/-- Whole-lane operations, compares, predicate logic, VRNG (R185, R190, R193, R197, R198, R202, R203, R189, R191, R210, R211):
the claims above together. -/
def Obligations.LanesAndPredicatesGiveTheirResults : Prop :=
  Claims.WholeLaneOperations ∧ Claims.ComparesAndPredicateLogic ∧ Claims.RandomNumbersFollowTheSeed

/-- R192, R199, R200, R201: PCNT (slot 2) counts the lanes with pa and pN both 1; VMOVS writes the low bits of a scalar into every element
of the active lanes; VLANE writes the scalar's low word plus the lane's number; VEXT (slot 2) reads the lane that sb[9:0] names,
sign-extended for I32. Their words have the fields and the zeros the rules give. -/
def Obligations.ScalarsAndLanesExchangeValues : Prop :=
  (∀ w, w < 2 ^ 32 → field w 25 6 = 0x2E → decodeSlot 3 w = .error .illegal ∧
    (field w 10 5 ≠ 0 ∨ field w 4 3 ≠ 0 → decodeSlot 2 w = .error .illegal) ∧
    ∀ i, decodeSlot 2 w = .ok i → ∃ o : PcntOp, i = .pcnt o ∧ o.sd = regAt w 20 ∧ o.pa.val = field w 15 5 ∧ o.pg.val = field w 7 3) ∧
  (∀ (o : PcntOp) (s : State), let n := (List.range 1024).countP fun k => (s.preg o.pa).getLsbD k && (s.preg o.pg).getLsbD k
    n ≤ 1024 ∧ GivesS (.pcnt o) o.sd (BitVec.ofNat 64 n) s) ∧
  (∀ w slot, w < 2 ^ 32 → slot = 2 ∨ slot = 3 → field w 25 6 = 0x2A →
    (field w 10 5 ≠ 0 → decodeSlot slot w = .error .illegal) ∧ ∀ i, decodeSlot slot w = .ok i →
      ∃ o : VmovsOp, i = .vmovs o ∧ o.vd = regAt w 20 ∧ o.sa = regAt w 15 ∧ o.ty = typeAt w ∧ o.pg.val = field w 7 3) ∧
  (∀ (o : VmovsOp) (s : State), Runs (.vmovs o) s fun t => t.stream.latchV = s.stream.latchV ∧
    t.stream.flags = s.stream.flags ∧ WritesElems o.vd (fun k => (s.preg o.pg).getLsbD k) o.ty
      (fun _ _ => ((s.sreg o.sa).toNat % 2 ^ o.ty.bits, 0)) s t) ∧
  (∀ w slot, w < 2 ^ 32 → slot = 2 ∨ slot = 3 → field w 25 6 = 0x2C →
    (field w 4 3 ≠ 4 ∨ field w 10 5 ≠ 0 → decodeSlot slot w = .error .illegal) ∧ ∀ i, decodeSlot slot w = .ok i →
      ∃ o : VlaneOp, i = .vlane o ∧ o.vd = regAt w 20 ∧ o.sa = regAt w 15 ∧ o.pg.val = field w 7 3) ∧
  (∀ (o : VlaneOp) (s : State), Runs (.vlane o) s fun t => t.stream.latchV = s.stream.latchV ∧
    WritesLanes o.vd (fun k => (s.preg o.pg).getLsbD k) (fun k => BitVec.ofNat 32 ((s.sreg o.sa).toNat % 2 ^ 32 + k)) s t) ∧
  (∀ w, w < 2 ^ 32 → field w 25 6 = 0x2B → decodeSlot 3 w = .error .illegal ∧
    (field w 7 3 ≠ 0 ∨ typeAt w ∉ [ElemType.f32, .i32, .n32] → decodeSlot 2 w = .error .illegal) ∧
    ∀ i, decodeSlot 2 w = .ok i → ∃ o : VextOp, i = .vext o ∧ o.sd = regAt w 20 ∧ o.va = regAt w 15 ∧ o.sb = regAt w 10 ∧ o.ty = typeAt w) ∧
  (∀ (o : VextOp) (s : State), ReadyV false o.hold s → let x := s.srcV false o.hold false o.va ((s.sreg o.sb).toNat % 1024)
    Runs (.vext o) s fun t => LatchesV false o.hold o.va 0 s t ∧ ∃ u, t = u.onStream (fun y => { y with latchV := t.stream.latchV }) ∧
      WritesS o.sd (if o.ty = .i32 then BitVec.ofInt 64 x.toInt else BitVec.ofNat 64 x.toNat) 0 s u)

/-- R194, R195, R196, R80: VCVT completes in every active lane, from FP32 to the other format or to FP32 from it: between
floats one rounding, to an integer clamped and extended over the lane, from an integer rounded once. -/
def Obligations.ConversionsBetweenFormats : Prop := ∀ (o : VcvtOp) (s : State), ReadyV o.pipe1 o.hold s →
  let act := fun k => (s.preg o.pg).getLsbD k
  let a := fun k => (s.srcV o.pipe1 o.hold false o.va k).toNat
  let r := fun k => if o.rm = .sr then s.draw16 (if o.pipe1 then 3 else 2) k else 0
  let gives := fun (f : Nat → Word × Flags) => Runs (.vcvt o) s fun t => LatchesV o.pipe1 o.hold o.va 0 s t ∧
    (∀ k, k < 1024 → t.lane o.vd k = if act k then (f k).1 else s.lane o.vd k) ∧ RaisesFrom act (fun k => (f k).2) s t ∧ OnlyV o.vd s t
  (∀ f, cvtFmt o.fmt = some f → o.toF32 = true → gives fun k =>
    let v := convert fmtF32 o.rm (r k) false (f.decode (a k % 2 ^ f.width))
    (BitVec.ofNat 32 v.1, v.2)) ∧
  (∀ f, cvtFmt o.fmt = some f → o.toF32 = false → gives fun k =>
    let v := convert f o.rm (r k) o.sat (fmtF32.decode (a k))
    (BitVec.ofNat 32 v.1, v.2)) ∧
  (∀ ty, cvtInt o.fmt = some ty → o.toF32 = true → gives fun k =>
    let v := ofInt fmtF32 o.rm (r k) false (elemInt ty (a k))
    (BitVec.ofNat 32 v.1, v.2)) ∧
  (∀ ty, cvtInt o.fmt = some ty → o.toF32 = false → gives fun k =>
    let v := toInt ty.signed ty.bits o.rm (r k) (fmtF32.decode (a k))
    (BitVec.ofInt 32 (elemInt ty v.1), v.2)) ∧
  (cvtFmt o.fmt = none → cvtInt o.fmt = none → o.toF32 = false → gives fun k =>
    let v := if o.fmt = .t2 then toT2 o.rm (r k) (fmtF32.decode (a k)) else toE8m0 o.rm (r k) (fmtF32.decode (a k))
    (BitVec.ofNat 32 v.1, v.2)) ∧
  (o.fmt = .e8m0 → o.toF32 = true → gives fun k =>
    let v := convert fmtF32 .rne 0 false (ofE8m0 (a k))
    (BitVec.ofNat 32 v.1, v.2)) ∧
  (o.fmt = .t2 → o.toF32 = true → ∃ f, gives f ∧ ∀ k, (a k % 4 = 2 → f k = (0, flT2R)) ∧
    (a k % 4 = 0 → f k = (0, 0)) ∧ (a k % 4 = 1 → f k = (0x3F800000, 0)) ∧ (a k % 4 = 3 → f k = (0xBF800000, 0)))

/-- R204, R205, R206, R207, R208, R209: sums over the active lanes in the calibre's order. VREDADD of FP32 gives the last output,
VSCANADD each lane its own; integer sums are exact, a reduction's in 64 bits, a scan's wrapped or clamped; an empty VREDADD
gives 0. -/
def Claims.ReductionsAndScansAdd : Prop := ∀ (o : VredOp) (s : State), ReadyV false o.hold s →
  let l := ((List.range 1024).filter fun k => (s.preg o.pg).getLsbD k).map fun k => (k, (s.srcV false o.hold false o.va k).toNat)
  (o.ty = .f32 → ∃ ms, sumOutputs (sumOrder o.cal) l ms ∧
    (Runs (.vredadd o) s fun t => LatchesV false o.hold o.va 0 s t ∧ ∃ u, t = u.onStream (fun y => { y with latchV := t.stream.latchV }) ∧
      ∃ f, WritesS o.rd (BitVec.ofNat 64 ((ms.getLast?).elim 0 fun m => m.value.1 % 2 ^ 32)) f s u ∧
        ∀ b, b < 7 → (f.getLsbD b = true ↔ ∃ m ∈ ms, m.value.2.getLsbD b = true)) ∧
    (Runs (.vscanadd o) s fun t => LatchesV false o.hold o.va 0 s t ∧ OnlyV o.rd s t ∧
      (∀ k, k < 1024 → (s.preg o.pg).getLsbD k = false → t.lane o.rd k = s.lane o.rd k) ∧
      (∀ (n : Nat) (x : Nat × Nat) (m : Sum32), l[n]? = some x → ms[n]? = some m → t.lane o.rd x.1 = BitVec.ofNat 32 m.value.1))) ∧
  (elemFmt o.ty = none → o.ty.bits = 32 →
    (Runs (.vredadd o) s fun t => LatchesV false o.hold o.va 0 s t ∧ ∃ u, t = u.onStream (fun y => { y with latchV := t.stream.latchV }) ∧
      WritesS o.rd (BitVec.ofInt 64 ((l.map fun x => elemInt o.ty x.2).sum)) 0 s u) ∧
    (Runs (.vscanadd o) s fun t => LatchesV false o.hold o.va 0 s t ∧ OnlyV o.rd s t ∧
      (∀ k, k < 1024 → (s.preg o.pg).getLsbD k = false → t.lane o.rd k = s.lane o.rd k) ∧
      (∀ (n : Nat) (x : Nat × Nat), l[n]? = some x →
        t.lane o.rd x.1 = BitVec.ofNat 32 (intSpec o.ty o.sat ((l.take (n + 1)).map fun y => elemInt o.ty y.2).sum).1)))

/-- R204, R205, R208, R209: integer maxima and minima over the active lanes, of all of them for a reduction, of those up to its
own for each lane of a scan; with no active lane a reduction gives the least or greatest value of the type, FP32 the
canonical NaN, and a scan changes nothing. The FP32 forms complete with R77's order. -/
def Claims.ReductionsAndScansPick : Prop := ∀ (o : VredOp) (s : State), ReadyV false o.hold s →
  let l := ((List.range 1024).filter fun k => (s.preg o.pg).getLsbD k).map fun k => (k, (s.srcV false o.hold false o.va k).toNat)
  let reduces := fun (i : Instr) (v : DWord) => Runs i s fun t => LatchesV false o.hold o.va 0 s t ∧
    ∃ u f, t = u.onStream (fun y => { y with latchV := t.stream.latchV }) ∧ WritesS o.rd v f s u
  let scans := fun (i : Instr) (v : Nat → Word) => Runs i s fun t => LatchesV false o.hold o.va 0 s t ∧ OnlyV o.rd s t ∧
    (∀ k, k < 1024 → (s.preg o.pg).getLsbD k = false → t.lane o.rd k = s.lane o.rd k) ∧
    (∀ (n : Nat) (x : Nat × Nat), l[n]? = some x → t.lane o.rd x.1 = v n)
  let best := fun (mx : Bool) (n : Nat) => (l.take n).tail.foldl (fun y x =>
    if mx then max y (elemInt o.ty x.2) else min y (elemInt o.ty x.2)) (elemInt o.ty ((l.head?).elim 0 (·.2)))
  let bestF := fun (mx : Bool) (n : Nat) => (l.take n).tail.foldl (fun y x => (fmtF32.minMax mx y x.2).1)
    (fmtF32.minMax mx ((l.head?).elim 0 (·.2)) ((l.head?).elim 0 (·.2))).1
  (l = [] → o.ty = .f32 → reduces (.vredmax o) 0x7FC00000 ∧ reduces (.vredmin o) 0x7FC00000) ∧
  (l = [] → o.ty = .i32 → reduces (.vredmax o) (BitVec.ofInt 64 (-2147483648)) ∧ reduces (.vredmin o) 0x7FFFFFFF) ∧
  (l = [] → o.ty = .n32 → reduces (.vredmax o) 0 ∧ reduces (.vredmin o) 0xFFFFFFFF) ∧
  (l ≠ [] → o.ty = .i32 ∨ o.ty = .n32 →
    reduces (.vredmax o) (BitVec.ofInt 64 (best true l.length)) ∧ reduces (.vredmin o) (BitVec.ofInt 64 (best false l.length))) ∧
  (l ≠ [] → o.ty = .f32 → reduces (.vredmax o) (BitVec.ofNat 64 (bestF true l.length)) ∧
    reduces (.vredmin o) (BitVec.ofNat 64 (bestF false l.length))) ∧
  (o.ty = .i32 ∨ o.ty = .n32 → scans (.vscanmax o) (fun n => BitVec.ofInt 32 (best true (n + 1))) ∧
    scans (.vscanmin o) (fun n => BitVec.ofInt 32 (best false (n + 1)))) ∧
  (o.ty = .f32 → scans (.vscanmax o) (fun n => BitVec.ofNat 32 (bestF true (n + 1))) ∧
    scans (.vscanmin o) (fun n => BitVec.ofNat 32 (bestF false (n + 1))))

/-- Reductions and scans: sums, maxima, minima (R204, R205, R206, R207, R208, R209): the claims above together. -/
def Obligations.ReductionsAndScansGiveTheirResults : Prop :=
  Claims.ReductionsAndScansAdd ∧ Claims.ReductionsAndScansPick

/-- R248, R249: with every active element aligned, in the share and, for a load, free of uncorrectable words, PLD, PLDS and PGTH
bring each active element from its offset in its slab's share, and PST, PSTS and PSCT put it there in increasing element order; no
other lane, plate cell, register or byte of memory changes. Offsets: sa + n·size, sa + n·sb, sa + vb[lane] for element n of the
slab. -/
def Claims.PlateLoadsAndStores : Prop := ∀ s : State,
  let slab := fun (ty : ElemType) (e : Nat) => e / ty.perLane / 64
  let nth := fun (ty : ElemType) (e : Nat) => e % (64 * ty.perLane)
  let loads := fun (i : Instr) (vd : RegNo) (pg : Fin 8) (ty : ElemType) (off : Nat → Int) =>
    (∀ e, e < 1024 * ty.perLane → (s.preg pg).getLsbD (e / ty.perLane) = true → PlateOk s (ty.bits / 8) (ty.bits / 8) (off e) ∧
      s.platesBad s.part (slab ty e) (off e).toNat (ty.bits / 8) = false) →
    Runs i s fun t => t.stream.latchV = s.stream.latchV ∧ WritesElems vd (fun k => (s.preg pg).getLsbD k) ty
      (fun k j => (s.plateNum s.part (k / 64) (off (k * ty.perLane + j)).toNat (ty.bits / 8), 0)) s t
  let stores := fun (i : Instr) (vd : RegNo) (pg : Fin 8) (ty : ElemType) (off : Nat → Int) =>
    (∀ e, e < 1024 * ty.perLane → (s.preg pg).getLsbD (e / ty.perLane) = true → PlateOk s (ty.bits / 8) (ty.bits / 8) (off e)) →
    Runs i s fun t => WritesPlates s.part
      (((List.range (1024 * ty.perLane)).filter fun e => (s.preg pg).getLsbD (e / ty.perLane)).flatMap fun e =>
        (List.range (ty.bits / 8)).map fun b => (slab ty e, (off e).toNat + b,
          BitVec.ofNat 8 (elemAt ty.bits (s.lane vd (e / ty.perLane)) (e % ty.perLane) / 256 ^ b))) s t
  let unit := fun (sa : RegNo) (ty : ElemType) (e : Nat) => (s.sreg sa).toInt + (nth ty e * (ty.bits / 8) : Nat)
  let stride := fun (sa sb : RegNo) (ty : ElemType) (e : Nat) => (s.sreg sa).toInt + (nth ty e : Nat) * (s.sreg sb).toInt
  let index := fun (sa vb : RegNo) (e : Nat) => (s.sreg sa).toInt + ((s.lane vb e).toNat : Nat)
  (∀ o : M0Op, loads (.pld o) o.vd o.pg o.ty (unit o.sa o.ty) ∧ stores (.pst o) o.vd o.pg o.ty (unit o.sa o.ty)) ∧
  (∀ o : M0sOp, loads (.plds o) o.vd o.pg o.ty (stride o.sa o.sb o.ty) ∧ stores (.psts o) o.vd o.pg o.ty (stride o.sa o.sb o.ty) ∧
    (o.ty.perLane = 1 → loads (.pgth o) o.vd o.pg o.ty (index o.sa o.sb) ∧ stores (.psct o) o.vd o.pg o.ty (index o.sa o.sb)))

/-- R249, R250, R110: PLDB brings a row of slab 0's share, if no word of it is uncorrectable, to the active lanes of every slab;
PFILL writes the low word of sc over sb bytes of every slab's share; neither changes anything else. -/
def Claims.PlateBroadcastAndFill : Prop := ∀ s : State,
  (∀ o : PldbOp, ((∃ k, k < 1024 ∧ (s.preg o.pg).getLsbD k = true) → PlateOk s 256 256 (s.sreg o.sa).toInt ∧
      s.platesBad s.part 0 (s.sreg o.sa).toInt.toNat 256 = false) →
    Runs (.pldb o) s fun t => WritesLanes o.vd (fun k => (s.preg o.pg).getLsbD k)
      (fun k => BitVec.ofNat 32 (s.plateNum s.part 0 ((s.sreg o.sa).toInt.toNat + 4 * (k % 64)) 4)) s t) ∧
  (∀ o : PfillOp, let n := (s.sreg o.sb).toNat
    let a := (s.sreg o.sa).toInt
    n % 4 = 0 → PlateOk s n 4 a → (s.pt s.part).bind.pbase + (s.pt s.part).bind.plates ≤ 64 → Runs (.pfill o) s fun t =>
      (∀ slab x : Nat, slab < 16 → x < (s.pt s.part).bind.plates * 65536 → t.plate s.part slab x =
        if a ≤ x ∧ (x : Int) < a + n then BitVec.ofNat 8 ((s.sreg o.sc).toNat / 256 ^ ((x - a.toNat) % 4)) else s.plate s.part slab x) ∧
      (∀ c, (∀ slab x : Nat, slab < 16 → a ≤ x → (x : Int) < a + n → s.plateCell s.part slab x ≠ c) → t.plates.get c = s.plates.get c) ∧
      (∀ k ∈ t.platePoison, k ∈ s.platePoison) ∧ t = { s with plates := t.plates, platePoison := t.platePoison })

/-- Loads, stores, broadcast and fill of the plates (R248, R249, R250, R110): the claims above together. -/
def Obligations.PlateInstructionsMoveBytes : Prop :=
  Claims.PlateLoadsAndStores ∧ Claims.PlateBroadcastAndFill

/-- R86, R105, R110, R250, R364: in PLD, PST, PLDS, PSTS, PGTH and PSCT the lowest active element whose offset is misaligned or outside
the share traps, ALIGN before PLATE, with its number and offset in the record, and nothing is loaded or stored; with every one
sound a load of an uncorrectable word raises UNCORR. PLDB checks its row so for its lowest active element, PFILL its run. -/
def Claims.PlateAccessTraps : Prop := ∀ s : State,
  let fault := fun (e : Nat) (x : Int) (align : Nat) =>
    ({ num := if x % (align : Int) = 0 then 0x08 else 0x07, slot := 4, elem := e, info := (x % 2 ^ 64).toNat } : Trap)
  let stops := fun (ld st : Instr) (pg : Fin 8) (ty : ElemType) (off : Nat → Int) =>
    let n := ty.bits / 8
    let active := fun e : Nat => e < 1024 * ty.perLane ∧ (s.preg pg).getLsbD (e / ty.perLane) = true
    ∀ e, active e →
      ((∀ d, d < e → active d → PlateOk s n n (off d)) → ¬PlateOk s n n (off e) →
        Traps ld s (fault e (off e) n) ∧ Traps st s (fault e (off e) n)) ∧
      ((∀ d, active d → PlateOk s n n (off d)) → s.platesBad s.part (e / ty.perLane / 64) (off e).toNat n = true →
        Traps ld s { num := 0x14, slot := 4 })
  let nth := fun (ty : ElemType) (e : Nat) => e % (64 * ty.perLane)
  (∀ o : M0Op, stops (.pld o) (.pst o) o.pg o.ty fun e => (s.sreg o.sa).toInt + (nth o.ty e * (o.ty.bits / 8) : Nat)) ∧
  (∀ o : M0sOp, stops (.plds o) (.psts o) o.pg o.ty (fun e => (s.sreg o.sa).toInt + (nth o.ty e : Nat) * (s.sreg o.sb).toInt) ∧
    (o.ty.perLane = 1 → stops (.pgth o) (.psct o) o.pg o.ty fun e => (s.sreg o.sa).toInt + ((s.lane o.sb e).toNat : Nat))) ∧
  (∀ (o : PldbOp) (e : Nat), e < 1024 → (s.preg o.pg).getLsbD e = true → (∀ d, d < e → (s.preg o.pg).getLsbD d = false) →
    let a := (s.sreg o.sa).toInt
    (¬PlateOk s 256 256 a → Traps (.pldb o) s (fault e a 256)) ∧
    (PlateOk s 256 256 a → s.platesBad s.part 0 a.toNat 256 = true → Traps (.pldb o) s { num := 0x14, slot := 4 })) ∧
  (∀ o : PfillOp, let a := (s.sreg o.sa).toInt
    let n := (s.sreg o.sb).toNat
    (n % 4 ≠ 0 → Traps (.pfill o) s { num := 0x07, slot := 4, info := (a % 2 ^ 64).toNat }) ∧
    (n % 4 = 0 → a % 4 ≠ 0 ∨ n ≠ 0 → ¬PlateOk s n 4 a → Traps (.pfill o) s (fault 0 a 4)))

/-- R85-R87, R89, R95, R105, R255, R256, R265, R312, R318, R349: what stops a load, a store or an atomic, in order: a full outbox holds
it; PURITY of a PURE task's write outside an OUT window, DETATOM; the trap of its lowest failing element; a page still to be
translated holds it; UNCORR of a word that is read; an earlier update or pushed item on one of its bytes holds it (its wait is the
model's way to give it, log 102). -/
def Claims.HomeAccessStops : Prop := ∀ s : State,
  let stalls := fun i : Instr => exec i s = .next (s.onStream fun x => { x with hold := some .stall })
  let first := fun (i : Instr) (w : Nat) (writes returns : Bool) => (s.outboxFull = true → stalls i) ∧ (MayAccess s →
    (writes = true → (s.stream.pure = true ∧ returns = true) ∨ ¬PureOk s w → Traps i s { num := 0x12, slot := 5 }) ∧
    (returns = true → s.stream.pure = false → s.stream.det = true → Traps i s { num := 0x11, slot := 5 }))
  let free := fun (w : Nat) (writes returns : Bool) =>
    MayAccess s ∧ (writes = true → PureOk s w) ∧ (returns = true → s.stream.pure = false ∧ s.stream.det = false)
  let one := fun (i : Instr) (k : AccessKind) (w n : Nat) (returns : Bool) (off : Int) =>
    let t := s.stream.theTask
    let va := ((t.win w).base + off).toNat
    first i w (k != .load) returns ∧ (free w (k != .load) returns →
      (∀ tr, AccessTrap s w n k off tr → Traps i s tr) ∧ (Passes s w n k off →
        (t.resolve w va = none → exec i s = .next (s.onStream fun x => { x with hold := some (.lazyPage w va) })) ∧
        ((∀ b, b < n → t.resolve w (va + b) ≠ none) →
          (k ≠ .store → (∃ b, b < n ∧ t.phys w (va + b) / 8 ∈ s.poison) → Traps i s { num := 0x14, slot := 5 }) ∧
          ((k = .store ∨ ∀ b, b < n → t.phys w (va + b) / 8 ∉ s.poison) →
            (∃ b, b < n ∧ ((k ≠ .atomic ∧ s.pendingOn s.part [t.phys w (va + b)] = true) ∨
              s.pushedOn s.part [t.phys w (va + b)] = true)) → stalls i))))
  let many := fun (i : Instr) (k : AccessKind) (w n : Nat) (returns : Bool) (pg : Fin 8) (ty : ElemType) (off : Nat → Int) =>
    let active := fun e : Nat => e < 1024 * ty.perLane ∧ (s.preg pg).getLsbD (e / ty.perLane) = true
    first i w (k != .load) returns ∧ (free w (k != .load) returns → ∀ e tr, active e →
      (∀ d, d < e → active d → Passes s w n k (off d)) → AccessTrap s w n k (off e) tr → Traps i s { tr with elem := e })
  (∀ o : MsOp, let n := o.size.width
    let one' := fun (i : Instr) (k : AccessKind) (r : Bool) => one i k o.win.val n r ((s.sreg o.sa).toInt + o.imm.toInt * n)
    one' (.ldh o) .load false ∧ one' (.sth o) .store false ∧ one' (.saadd o) .atomic false ∧ one' (.samin o) .atomic false ∧
    one' (.samax o) .atomic false ∧ one' (.saand o) .atomic false ∧ one' (.saor o) .atomic false ∧
    one' (.saaddx o) .atomic true ∧ one' (.saswpx o) .atomic true) ∧
  (∀ o : CasOp, one (.scasx o) .atomic o.win.val o.size.width true (s.sreg o.sa).toInt) ∧
  (∀ o : M1Op, let unit := fun e : Nat => (s.sreg o.sa).toInt + (e * (o.ty.bits / 8) : Nat)
    let many' := fun (i : Instr) (k : AccessKind) => many i k o.win.val (o.ty.bits / 8) false o.pg o.ty unit
    many' (.vldh o) .load ∧ many' (.vsth o) .store) ∧
  (∀ o : M1sOp, let stride := fun e : Nat => (s.sreg o.sa).toInt + (e : Nat) * (s.sreg o.sb).toInt
    let index := fun e : Nat => (s.sreg o.sa).toInt + (s.lane o.sb e).toInt
    let strided := fun (i : Instr) (k : AccessKind) => many i k o.win.val (o.ty.bits / 8) false o.pg o.ty stride
    let indexed := fun (i : Instr) (k : AccessKind) (r : Bool) => many i k o.win.val 4 r o.pg o.ty index
    strided (.vldhs o) .load ∧ strided (.vsths o) .store ∧ (o.ty.bits = 32 → indexed (.vgth o) .load false ∧
      indexed (.vsct o) .store false ∧ (∀ i ∈ [Instr.vaadd o, .vamin o, .vamax o, .vaand o, .vaor o, .vaxor o],
        indexed i .atomic false) ∧ ∀ i ∈ [Instr.vaaddx o, .vaminx o, .vamaxx o, .vaswpx o], indexed i .atomic true))

/-- Where plate and home-memory accesses trap or wait (R86, R105, R110, R250, R364, R85-R87, R89, R95, R255, R256, R265, R312,
R318, R349): the claims above together. -/
def Obligations.AccessesOutOfBoundsTrap : Prop :=
  Claims.PlateAccessTraps ∧ Claims.HomeAccessStops

/-- R252, R255, R256: LDH of a size through a window that admits it gives sd the little-endian number at sa + imm·size, sign-
or zero-extended; STH stores the low bytes of sd there; the address is computed as R85 and R94 say. A load changes no byte
and no other register; a store changes no register and no other byte. -/
def Claims.ScalarHomeLoadsAndStores : Prop := ∀ (o : MsOp) (s : State), MayAccess s →
  let n := o.size.width
  let off := (s.sreg o.sa).toInt + o.imm.toInt * n
  let w := o.win.val
  (Reaches s w n .load off → Runs (.ldh o) s fun t => ∃ v, ReadsMem v t ∧ WritesS o.sd
    (if o.size = .i8 ∨ o.size = .i16 ∨ o.size = .i32 ∨ o.size = .i64 then BitVec.ofInt 64 (Int.bmod (homeLoad s w n off) (2 ^ (8 * n)))
      else BitVec.ofNat 64 (homeLoad s w n off)) 0 s v) ∧
  (Reaches s w n .store off → (s.stream.pure = true → (s.stream.theTask.win w).attr = .output) →
    Runs (.sth o) s fun t => WritesMem (homeStore s w n off (s.sreg o.sd).toNat) s t)

/-- R85, R101, R253: PREF of a byte that passes the checks of R85, as a load of one byte (the model's choice, log 24), and whose page
is translated fills its line where it is absent, and does nothing to a line that is there; of any other byte it does nothing. No
byte of a line reached under one key slot (log 18) and no register changes. A full outbox holds it (R265). -/
def Claims.PrefetchChangesNoByte : Prop := ∀ (o : PrefOp) (s : State),
  let t := s.stream.theTask
  let win := t.win o.win.val
  let va := (win.base : Int) + ((s.sreg o.sa).toInt + o.imm.toInt)
  let passes := 0 ≤ va ∧ va + 1 ≤ 2 ^ 48 ∧ win.len ≠ 0 ∧ (win.base : Int) ≤ va ∧ va + 1 ≤ (win.base : Int) + win.len ∧
    win.attr.allows .load = true
  (s.outboxFull = true → exec (.pref o) s = .next (s.onStream fun x => { x with hold := some .stall })) ∧
  (MayAccess s → (¬passes → exec (.pref o) s = .next s) ∧
    (passes → t.resolve o.win.val va.toNat = none → exec (.pref o) s = .next s) ∧
    (∀ pa, passes → t.resolve o.win.val va.toNat = some pa →
      ((∃ l ∈ s.stash, l.line = pa / 128) → exec (.pref o) s = .next s) ∧
      Runs (.pref o) s fun u => BytesBecome noKey [] s u ∧ MemoryOnly s u ∧ ∃ l ∈ u.stash, l.line = pa / 128))

/-- LDH, STH and PREF (R252, R255, R256, R85, R101, R253): the claims above together. -/
def Obligations.ScalarHomeAccessesMoveBytes : Prop :=
  Claims.ScalarHomeLoadsAndStores ∧ Claims.PrefetchChangesNoByte

/-- R254, R257: a vector load brings each active element from its offset through the window, a vector store puts it there,
elements in increasing order, the last winning: contiguous, strided by sb, or at sa + vb[lane] as I32. Only vd, or only the
stored bytes, change. -/
def Obligations.VectorHomeLoadsAndStores : Prop := ∀ s : State, MayAccess s →
  let active := fun (pg : Fin 8) (ty : ElemType) (e : Nat) => e < 1024 * ty.perLane ∧ (s.preg pg).getLsbD (e / ty.perLane) = true
  let loads := fun (i : Instr) (vd : RegNo) (pg : Fin 8) (ty : ElemType) (w : Fin 16) (off : Nat → Int) =>
    (∀ e, active pg ty e → Reaches s w.val (ty.bits / 8) .load (off e)) →
    Runs i s fun t => ∃ v, ReadsMem v t ∧ v.stream.latchV = s.stream.latchV ∧ WritesElems vd (fun k => (s.preg pg).getLsbD k) ty
      (fun k j => (homeLoad s w.val (ty.bits / 8) (off (k * ty.perLane + j)), 0)) s v
  let stores := fun (i : Instr) (vd : RegNo) (pg : Fin 8) (ty : ElemType) (w : Fin 16) (off : Nat → Int) =>
    (∀ e, active pg ty e → Reaches s w.val (ty.bits / 8) .store (off e)) →
    (s.stream.pure = true → (s.stream.theTask.win w.val).attr = .output) →
    Runs i s fun t => WritesMem
      (((List.range (1024 * ty.perLane)).filter fun e => (s.preg pg).getLsbD (e / ty.perLane)).flatMap fun e =>
        homeStore s w.val (ty.bits / 8) (off e) (elemAt ty.bits (s.lane vd (e / ty.perLane)) (e % ty.perLane))) s t
  let unit := fun (sa : RegNo) (ty : ElemType) (e : Nat) => (s.sreg sa).toInt + (e * (ty.bits / 8) : Nat)
  let stride := fun (sa sb : RegNo) (e : Nat) => (s.sreg sa).toInt + (e : Nat) * (s.sreg sb).toInt
  let index := fun (sa vb : RegNo) (e : Nat) => (s.sreg sa).toInt + (s.lane vb e).toInt
  (∀ o : M1Op, loads (.vldh o) o.vd o.pg o.ty o.win (unit o.sa o.ty) ∧ stores (.vsth o) o.vd o.pg o.ty o.win (unit o.sa o.ty)) ∧
  (∀ o : M1sOp, loads (.vldhs o) o.vd o.pg o.ty o.win (stride o.sa o.sb) ∧ stores (.vsths o) o.vd o.pg o.ty o.win (stride o.sa o.sb) ∧
    (o.ty.perLane = 1 → loads (.vgth o) o.vd o.pg o.ty o.win (index o.sa o.sb) ∧ stores (.vsct o) o.vd o.pg o.ty o.win (index o.sa o.sb)))

/-- R259, R260, R262, R264, R371: an atomic without a value hands its updates to the units, lanes in increasing order, each with
its address and operand, and changes no byte yet; in a DETERMINISTIC task an f32 add goes as line updates. It makes the open
segment unrewindable and takes the next number. -/
def Claims.AtomicsIssueTheirUpdates : Prop := ∀ s : State, s.outboxFull = false →
  let issues := fun (i : Instr) (op : AtomOp) (z : MemSize) (l : List (Nat × Nat × DWord)) => Runs i s fun t =>
    t.atomInstr = s.atomInstr + 1 ∧ t.stream.seg = s.stream.seg.map (fun g => { g with overwritten := true }) ∧
    (¬(s.stream.det = true ∧ op = .add ∧ z = .f32) → t.detSent = s.detSent ∧
      t.atoms = s.atoms ++ l.map fun x => ⟨s.atomInstr, s.part, op, z, x.2.1, x.2.2, none⟩) ∧
    (s.stream.det = true → op = .add → z = .f32 → t.atoms = s.atoms ∧
      ∃ d, t.detSent = s.detSent ++ d ∧ (∀ u ∈ d, u.instr = s.atomInstr ∧ u.part = s.part ∧ u.addends =
        (l.filter fun x => x.1 / 64 == u.slab.val && x.2.1 / 64 == u.line).map fun x => (x.2.1 % 64 / 4, BitVec.ofNat 32 x.2.2.toNat)) ∧
        ∀ x ∈ l, x.1 < 1024 → ∃ u ∈ d, u.slab.val = x.1 / 64 ∧ u.line = x.2.1 / 64) ∧
    t = { s with atoms := t.atoms, detSent := t.detSent, atomInstr := t.atomInstr,
                 stream := { s.stream with seg := t.stream.seg } }
  (∀ o : MsOp, let n := o.size.width
    let off := (s.sreg o.sa).toInt + o.imm.toInt * n
    Reaches s o.win.val n .atomic off → PureOk s o.win.val →
      ∀ x ∈ [(Instr.saadd o, AtomOp.add), (.samin o, .min), (.samax o, .max), (.saand o, .and), (.saor o, .or)],
        issues x.1 x.2 o.size [(0, homeAt s o.win.val off 0, s.sreg o.sd)]) ∧
  (∀ o : M1sOp, o.ty.bits = 32 → let lanes := (List.range 1024).filter fun k => (s.preg o.pg).getLsbD k
    let off := fun k => (s.sreg o.sa).toInt + (s.lane o.sb k).toInt
    (∀ k ∈ lanes, Reaches s o.win.val 4 .atomic (off k)) → PureOk s o.win.val →
      ∀ x ∈ [(Instr.vaadd o, AtomOp.add), (.vamin o, .min), (.vamax o, .max), (.vaand o, .and), (.vaor o, .or), (.vaxor o, .xor)],
        issues x.1 x.2 (if o.ty = .f32 then .f32 else if o.ty = .i32 then .i32 else .n32)
          (lanes.map fun k => (k, homeAt s o.win.val (off k) 0, BitVec.ofNat 64 (s.lane o.vd k).toNat)))

/-- R261, R262, R371: an atomic with a value, outside PURE and DETERMINISTIC tasks, hands its one update to the unit with the
register that the word goes to, marks the open segment, and changes nothing else; where nothing goes before it on its word, the unit
then gives sd the old word and stores the new one, sum, swap, or for SCASX the new value where the old equals sd. -/
def Claims.ScalarAtomicsReturnTheOldWord : Prop := ∀ s : State, MayAccess s → s.stream.pure = false → s.stream.det = false →
  let acts := fun (i : Instr) (op : AtomOp) (sd : RegNo) (z : MemSize) (w : Fin 16) (off : Int) =>
    let n := z.width
    let pa := homeAt s w.val off 0
    let m := s.atomWord s.part pa n
    Reaches s w.val n .atomic off → ∃ t, exec i s = .next t ∧
      t = { s with atoms := s.atoms ++ [⟨s.atomInstr, s.part, op, z, pa, s.sreg sd, some (.scalar sd)⟩], atomInstr := s.atomInstr + 1,
                   stream := { s.stream with seg := s.stream.seg.map fun g => { g with overwritten := true } } } ∧
      (s.atoms = [] → s.detPending = [] → s.heldByOther s.part pa = false → s.holder = some s.part → z ≠ .f32 →
        Runs (.atomicApply ⟨0⟩) t fun u => u.atoms = [] ∧
          u.sreg sd = (if sd = 0 then 0 else if z.signed then BitVec.ofInt 64 (Int.bmod m (2 ^ (8 * n))) else BitVec.ofNat 64 m) ∧
          (∀ r, r ≠ sd → u.sreg r = s.sreg r) ∧
          BytesBecome noKey (storedBytes pa n (intUpdate op z.signed (8 * n) m ((s.sreg sd).toNat % 2 ^ (8 * n)))) s u)
  (∀ o : MsOp, let off := (s.sreg o.sa).toInt + o.imm.toInt * o.size.width
    acts (.saaddx o) .add o.sd o.size o.win off ∧ acts (.saswpx o) .swp o.sd o.size o.win off) ∧
  (∀ o : CasOp, acts (.scasx o) (.cas (s.sreg o.sn)) o.sd o.size o.win (s.sreg o.sa).toInt)

/-- R260, R262, R371: a vector atomic with a value hands the units the updates of its active lanes in increasing order, each with the
lane of vd that the word goes to, marks the open segment, and changes nothing else. -/
def Claims.VectorAtomicsReturnTheOldWords : Prop := ∀ (o : M1sOp) (s : State), MayAccess s →
  let lanes := (List.range 1024).filter fun k => (s.preg o.pg).getLsbD k
  let off := fun k => (s.sreg o.sa).toInt + (s.lane o.sb k).toInt
  s.stream.pure = false → s.stream.det = false → o.ty.bits = 32 → (∀ k ∈ lanes, Reaches s o.win.val 4 .atomic (off k)) →
  ∀ x ∈ [(Instr.vaaddx o, AtomOp.add), (.vaminx o, .min), (.vamaxx o, .max), (.vaswpx o, .swp)], Runs x.1 s fun t =>
    t = { s with atoms := s.atoms ++ lanes.map (fun k => ⟨s.atomInstr, s.part, x.2,
                   (if o.ty = .f32 then .f32 else if o.ty = .i32 then .i32 else .n32), homeAt s o.win.val (off k) 0,
                   BitVec.ofNat 64 (s.lane o.vd k).toNat, some (.lane o.vd k)⟩),
                 atomInstr := s.atomInstr + 1,
                 stream := { s.stream with seg := s.stream.seg.map fun g => { g with overwritten := true } } }

/-- The atomic instructions (R259, R260, R262, R264, R371, R261): the claims above together. -/
def Obligations.AtomicInstructionsUpdateMemory : Prop :=
  Claims.AtomicsIssueTheirUpdates ∧ Claims.ScalarAtomicsReturnTheOldWord ∧ Claims.VectorAtomicsReturnTheOldWords

/-- R33, R261-R263, R267: the units apply any update that no earlier one of its instruction on its word precedes: its word takes the
result, the flags reach FLAGS of its partition's context, a returning one's register takes the word found, and nothing else
changes; one that a deterministic update or tick goes before, waits. The word found is the stream's latest. -/
def Claims.AtomicUnitsApplyUpdates : Prop := ∀ (o : AtomicPick) (s : State),
  ((firstOnWord s.atoms)[o.index]? = none → exec (.atomicApply o) s = .next s) ∧
  (∀ pre u post, s.atoms = pre ++ u :: post → (∀ v ∈ pre, ¬(v.instr = u.instr ∧ v.pa = u.pa)) → u ∈ firstOnWord s.atoms) ∧
  (∀ u : AtomUpdate, (firstOnWord s.atoms)[o.index]? = some u →
    let n := u.size.width
    let m := s.atomWord u.part u.pa n
    let x := u.operand.toNat % 2 ^ (8 * n)
    let r : Nat × Flags :=
      if u.size = .f32 then
        match u.op with
        | .add => fmtF32.addOp .rne false m x
        | .min => fmtF32.minMax false m x
        | .max => fmtF32.minMax true m x
        | _ => (x, 0)
      else (intUpdate u.op u.size.signed (8 * n) m x, 0)
    let old : DWord := if u.size.signed then BitVec.ofInt 64 (Int.bmod m (2 ^ (8 * n))) else BitVec.ofNat 64 m
    let waits := s.behindDet u = true ∨ s.heldByOther u.part u.pa = true
    (s.loose = [] → (∀ b, b < n → s.steady noKey ((u.pa + b) / 128)) →
      m = ((List.range n).map fun b => (s.byte (u.pa + b)).toNat * 256 ^ b).sum) ∧
    (waits → exec (.atomicApply o) s = .next s) ∧
    (¬waits → Runs (.atomicApply o) s fun t => ∃ v, BytesBecome noKey (storedBytes u.pa n r.1) s v ∧
      MemoryOnly { s with atoms := s.atoms.erase u, free := v.free } v ∧
      OnContext u.part (fun c => match u.ret with
        | none => { c with flags := c.flags ||| r.2 }
        | some (.scalar rd) => { c with flags := c.flags ||| r.2, s := if rd = 0 then c.s else c.s.set rd old }
        | some (.lane vd k) => { c with flags := c.flags ||| r.2, v := c.v.set (1024 * vd.val + k) (BitVec.ofNat 32 m) }) v t))

/-- R264-R266: a slab's oldest line update enters its unit's buffer or, refused, the slab's outbox, unless that holds four; a unit
refuses what an earlier instruction's update of the line goes before, or a new line beyond 256 (but for a task's oldest instruction,
log 66); a refused update enters once it is not. When all updates of an instruction have left their slabs it closes: each word
takes their addends in slab and lane order, each rounded on its own, the flags are ORed in, the lines are under deterministic
reduction, and nothing else changes; what another partition's tick holds stays. -/
def Claims.DeterministicPathMovesUpdates : Prop := ∀ s : State,
  (∀ (slab : Fin 16) (u : DetUpdate), (s.detSent.find? fun u => u.slab == slab) = some u →
    let rest := { s with detSent := s.detSent.erase u }
    (rest.refuses u = false → exec (.detUpdate slab) s = .next { rest with detBuf := s.detBuf ++ [u] }) ∧
    (rest.refuses u = true → (s.detOutbox.filter fun v => v.slab == slab).length < 4 →
      exec (.detUpdate slab) s = .next { rest with detOutbox := s.detOutbox ++ [u] }) ∧
    (rest.refuses u = true → 4 ≤ (s.detOutbox.filter fun v => v.slab == slab).length → exec (.detUpdate slab) s = .next s)) ∧
  (∀ slab : Fin 16, (∀ u ∈ s.detSent, u.slab ≠ slab) → exec (.detUpdate slab) s = .next s) ∧
  (∀ u : DetUpdate, (s.detPending = [] → s.refuses u = false) ∧ (s.detHeld u = true → s.refuses u = false) ∧
    (s.detHeld u = false → (∃ v ∈ s.detPending, v.line = u.line ∧ v.instr < u.instr ∧ s.detHeld v = false) → s.refuses u = true) ∧
    (s.detHeld u = false → (∀ v ∈ s.detPending, v.line ≠ u.line) → (s.refuses u = true ↔
      (∃ v ∈ s.detPending, v.part = u.part ∧ v.instr < u.instr) ∧
        256 ≤ ((s.detBuf.filter fun v => v.line / 2 % 16 == u.line / 2 % 16).map (·.line)).eraseDups.length))) ∧
  (∀ (slab : Fin 16) (u : DetUpdate),
    (s.detOutbox.find? fun u => u.slab == slab && !({ s with detOutbox := s.detOutbox.erase u }).refuses u) = some u →
    exec (.detOutboxRetry slab) s = .next { s with detOutbox := s.detOutbox.erase u, detBuf := s.detBuf ++ [u] }) ∧
  (∀ slab : Fin 16, (∀ u ∈ s.detOutbox, u.slab = slab → ({ s with detOutbox := s.detOutbox.erase u }).refuses u = true) →
    exec (.detOutboxRetry slab) s = .next s) ∧
  (s.closable = none → exec .detClose s = .next s) ∧
  (∀ n, s.closable = some n → Runs .detClose s fun t =>
    let goes := fun u : DetUpdate => u.instr == n && !s.detHeld u
    let into := fun line w : Nat => (List.range 16).flatMap fun slab => (s.detBuf.filter fun u => goes u && u.line == line &&
      u.slab.val == slab).flatMap fun u => (u.addends.filter fun x => x.1 == w).map (·.2)
    let word := fun line w : Nat => ((List.range 4).map fun b => (s.byte (line * 64 + 4 * w + b)).toNat * 256 ^ b).sum
    (∀ u ∈ s.detSent ++ s.detOutbox, u.instr ≠ n) ∧ t.detBuf = s.detBuf.filter (fun u => !goes u) ∧
    (∀ x, x ∈ t.detLines ↔ x ∈ s.detLines ∨ ∃ u ∈ s.detBuf, goes u = true ∧ x = (u.part, u.line)) ∧
    (∀ line w, w < 16 → s.loose = [] → s.steady noKey (line / 2) → (∀ b, b < 4 →
      t.byte (line * 64 + 4 * w + b) = BitVec.ofNat 8 ((addedInto (word line w) (into line w)).1 / 256 ^ b))) ∧
    (∀ p x, s.loose = [] → (∀ u ∈ s.detBuf, goes u = true → u.part = p ∧ s.steady noKey (u.line / 2)) → s.ctx p = some x →
      ∃ y, t.ctx p = some y ∧ ∀ b, b < 7 → (y.flags.getLsbD b = true ↔ x.flags.getLsbD b = true ∨
        ∃ line w, w < 16 ∧ (addedInto (word line w) (into line w)).2.getLsbD b = true)) ∧
    (∀ a, (∀ u ∈ s.detBuf, goes u = true → ∀ x ∈ u.addends, a < u.line * 64 + 4 * x.1 ∨ u.line * 64 + 4 * x.1 + 4 ≤ a) →
      s.steady noKey (a / 128) → t.byte a = s.byte a) ∧
    t.shadow.map (·.map fun x => { x.unnoted with flags := 0 }) = s.shadow.map (·.map fun x => { x.unnoted with flags := 0 }) ∧
    t.stream.unnoted = { s.stream.unnoted with flags := t.stream.flags } ∧
    t = { s with mem := t.mem, stash := t.stash, lineKeys := t.lineKeys, poison := t.poison, loose := t.loose, accNo := t.accNo,
                 repEntries := t.repEntries, repCounters := t.repCounters, free := t.free, detBuf := t.detBuf, detLines := t.detLines,
                 stream := { s.stream with flags := t.stream.flags, task := t.stream.task }, shadow := t.shadow })

/-- The atomic units and the deterministic path (R33, R261-R263, R267, R264-R266): the claims above together. -/
def Obligations.AtomicUnitsApplyUpdates : Prop :=
  Claims.AtomicUnitsApplyUpdates ∧ Claims.DeterministicPathMovesUpdates

/-- R112, R114, R117, R258, R371: SBIND of a pattern that passes R114's checks, once the stream's earlier accesses are performed,
releases what the register held and binds it with nothing moved, fetched or landed; before that it waits (the model's way to include
the stream's earlier stores, log 102). SREL leaves the register unbound: an outbound one's items are written in order, once no
earlier atomic on their bytes is to come, an inbound one's are discarded. Both mark the open segment. -/
def Claims.StreamsBindAndRelease : Prop :=
  let marks := fun s t : State => t.stream.seg = s.stream.seg.map fun g => { g with overwritten := true }
  (∀ (o : SbindOp) (s : State), MayAccess s →
    let e := fun j => s.stream.e.toArray.getD (16 + 4 * o.k.val + j) 0
    let q : QReg := { pb := e 0, pc := e 1, ps1 := e 2, ps2 := e 3, moved := 0, fetched := 0, flight := [], items := [] }
    let t := s.stream.theTask
    (s.stream.pure = true → q.outbound = true → (t.win q.win).len ≠ 0 ∧ (t.win q.win).attr = .output) → s.checkPattern q = none →
    (q.total = 0 ∨ t.missing q.win ((t.win q.win).va q.low).toNat (q.high - q.low).toNat = none) →
    (s.accessesDone s.part = true → Runs (.sbind o) s fun r =>
      r.stream.q[o.q] = some q ∧ (∀ n, n ≠ o.q → r.stream.q[n] = s.stream.q[n]) ∧
      r.stream.s = s.stream.s ∧ r.stream.v = s.stream.v ∧ marks s r ∧
      ((∀ old, s.stream.q[o.q] = some old → old.outbound = false) → r.mem = s.mem)) ∧
    (s.accessesDone s.part = false → exec (.sbind o) s = .next (s.onStream fun x => { x with hold := some .stall }))) ∧
  (∀ (n : Fin 8) (s : State), s.outboxFull = false →
    let blocked := ∃ old, s.stream.q[n] = some old ∧ old.outbound = true ∧ ∃ (j : Nat) (it : QItem), old.items[j]? = some it ∧
      s.pendingOn s.part ((itemStores s old (old.fetched + j) it).map (·.1)) = true
    (blocked → exec (.srel n) s = .next (s.onStream fun x => { x with hold := some .stall })) ∧
    (¬blocked → Runs (.srel n) s fun r => r.stream.q[n] = none ∧ marks s r ∧
      (∀ m, m ≠ n → r.stream.q[m] = s.stream.q[m]) ∧ r.stream.s = s.stream.s ∧ r.stream.v = s.stream.v ∧
      ((∀ old, s.stream.q[n] = some old → old.outbound = false ∨ old.items = []) → r.mem = s.mem) ∧
      (∀ old, s.stream.q[n] = some old → old.outbound = true →
        BytesBecome noKey ((old.items.mapIdx fun j it => itemStores s old (old.fetched + j) it).flatten) s r)))

/-- R105, R116, R212, R371, R372: VQPOP of an inbound stream with an item landed takes the oldest into the active lanes; VQPUSH of an
outbound stream with room appends va and its active lanes; past the last item, on the wrong direction or unbound both raise QEND; a
pop of an item that read an uncorrectable word raises UNCORR; a pop of an item still to land, or a push without room, waits. Pop and
push mark the open segment. -/
def Claims.StreamItemsPopAndPush : Prop := ∀ (o : VqOp) (s : State),
  let marks := fun t : State => t.stream.seg = s.stream.seg.map fun g => { g with overwritten := true }
  let waits := fun i : Instr => exec i s = .next (s.onStream fun x => { x with hold := some .stall })
  (∀ q it rest, s.stream.q[o.q] = some q → q.outbound = false → q.moved < q.total → q.items = it :: rest → it.bad = false →
    Runs (.vqpop o) s fun t => (∀ k, k < 1024 → t.lane o.v k = if (s.preg o.pg).getLsbD k then Cells.get it.data k else s.lane o.v k) ∧
      t.stream.q[o.q] = some { q with moved := q.moved + 1, items := rest } ∧ (∀ n, n ≠ o.q → t.stream.q[n] = s.stream.q[n]) ∧
      t.stream.s = s.stream.s ∧ t.stream.flags = s.stream.flags ∧ t.mem = s.mem ∧ marks t) ∧
  (∀ q it rest, s.stream.q[o.q] = some q → q.outbound = false → q.moved < q.total → q.items = it :: rest → it.bad = true →
    Traps (.vqpop o) s { num := 0x14, slot := if o.pipe1 then 3 else 2 }) ∧
  (∀ q, s.stream.q[o.q] = some q → q.outbound = true → q.moved < q.total → q.items.length < 4 → ReadyV o.pipe1 o.hold s →
    Runs (.vqpush o) s fun t => (∃ it, t.stream.q[o.q] = some { q with moved := q.moved + 1, items := q.items ++ [it] } ∧
        it.act = s.preg o.pg ∧ ∀ k, k < 1024 → Cells.get it.data k = s.srcV o.pipe1 o.hold false o.v k) ∧
      (∀ n, n ≠ o.q → t.stream.q[n] = s.stream.q[n]) ∧ LatchesV o.pipe1 o.hold o.v 0 s t ∧
      t.stream.s = s.stream.s ∧ t.stream.v = s.stream.v ∧ t.mem = s.mem ∧ marks t) ∧
  (∀ q, s.stream.q[o.q] = some q → (q.outbound = true ∨ q.total ≤ q.moved) →
    Traps (.vqpop o) s { num := 0x0D, slot := if o.pipe1 then 3 else 2 }) ∧
  (∀ q, s.stream.q[o.q] = some q → (q.outbound = false ∨ q.total ≤ q.moved) → ReadyV o.pipe1 o.hold s →
    Traps (.vqpush o) s { num := 0x0D, slot := if o.pipe1 then 3 else 2 }) ∧
  (s.stream.q[o.q] = none → Traps (.vqpop o) s { num := 0x0D, slot := if o.pipe1 then 3 else 2 } ∧
    (ReadyV o.pipe1 o.hold s → Traps (.vqpush o) s { num := 0x0D, slot := if o.pipe1 then 3 else 2 })) ∧
  (∀ q, s.stream.q[o.q] = some q → q.outbound = false → q.moved < q.total → q.items = [] → waits (.vqpop o)) ∧
  (∀ q, s.stream.q[o.q] = some q → q.outbound = true → q.moved < q.total → 4 ≤ q.items.length → ReadyV o.pipe1 o.hold s →
    waits (.vqpush o))

/-- R113, R116, R117, R312: a stream unit with a permit fetches the next item from its addresses, in one piece (the model's choice,
log 68; lines reached under one key slot, log 18); the oldest item in flight lands behind those landed; the oldest pushed item is
written to its addresses in its active lanes, once no earlier atomic on its bytes is to come, and no other byte changes. -/
def Claims.StreamUnitsMoveItems : Prop := ∀ (n : Fin 8) (s : State) (q : QReg), s.stream.q[n] = some q →
  let pa := fun slab b : Nat => q.phys ((s.taskOf s.part).getD Task.empty) q.fetched slab b
  (q.outbound = false → q.fetched < q.total → q.flight.length + q.items.length < 4 → Runs (.streamItemFetch n) s fun t =>
    ∃ it v, ReadsMem s v ∧
      t = (v.onStream fun x => { x with q := x.q.set n (some { q with fetched := q.fetched + 1, flight := q.flight ++ [it] }) }) ∧
      (it.bad = true ↔ ∃ slab b, slab < 16 ∧ b < 256 ∧ pa slab b / 8 ∈ s.poison) ∧
      (s.loose = [] → ∀ k, k < 1024 → (∀ b, b < 4 → s.steady noKey (pa (k / 64) (4 * (k % 64) + b) / 128)) →
        Cells.get it.data k = BitVec.ofNat 32 (((List.range 4).map fun b =>
          (s.byte (pa (k / 64) (4 * (k % 64) + b))).toNat * 256 ^ b).sum))) ∧
  (∀ it rest, q.flight = it :: rest → exec (.streamItemLand n) s =
    .next (s.onStream fun x => { x with q := x.q.set n (some { q with flight := rest, items := q.items ++ [it] }) })) ∧
  (∀ it rest, q.outbound = true → q.items = it :: rest →
    let l := itemStores s q q.fetched it
    (s.pendingOn s.part (l.map (·.1)) = true → exec (.streamItemWrite n) s = .next s) ∧
    (s.pendingOn s.part (l.map (·.1)) = false → Runs (.streamItemWrite n) s fun t => ∃ u, WritesMem l s u ∧
      t = u.onStream fun x => { x with q := x.q.set n (some { q with fetched := q.fetched + 1, items := rest }) }))
/-! ### The matrix unit (R215-R246) -/

/-- SBIND, SREL, VQPOP, VQPUSH and the stream units (R112, R114, R117, R258, R371, R105, R116, R212, R372, R113, R312): the
claims above together. -/
def Obligations.StreamRegistersMoveItems : Prop :=
  Claims.StreamsBindAndRelease ∧ Claims.StreamItemsPopAndPush ∧ Claims.StreamUnitsMoveItems

/-- R215, R221, R224, R225, R227, R228, R229: a product that passes its checks and reads no uncorrectable word, into a queue
with room, leaves in every cell of its tile the dot product of a row of A and a column of B under its calibre, on the old cell with IP and on zero without;
its entry carries the flags of the cells. Element k of a row or column lies at the place the layout gives it. An E word acts at its
issue, its flags and arrival in the entry (the model's choice, log 11). -/
def Obligations.ProductsUpdateTheirTile : Prop :=
  (∀ (o : MmaOp) (s : State), ∀ x ∈ [(Instr.mma o, MmaKind.dense), (.smma o, .sparse), (.tmma o, .ternary)],
    let a := s.srcC false o.hold false o.sa
    let b := s.srcC false o.hold true o.sb
    let g := s.geo
    ReadyC false o.hold s → Going s → (g.asrc ≠ 0 → o.sa = 0 ∧ o.hold ≠ .latch false ∧ o.hold ≠ .held false) →
    s.checkE (s.work (.mma x.2 o.tile.val o.af o.cal o.bc o.ip) a b) = none →
    s.consumesBad (s.capture (s.work (.mma x.2 o.tile.val o.af o.cal o.bc o.ip) a b)) = false → s.matrixFull = false →
    let cell := fun slab ij =>
      cellDot o.cal (accFmt o.af) g.k (if o.ip then s.tile o.af o.tile.val slab ij else 0)
        (s.rowA g (calFtz o.cal) a.toInt.toNat slab (ij / 64)).toArray
        ((if x.2 = .sparse then s.colSparse else s.colB) g (calFtz o.cal) b.toInt.toNat (if o.bc then 0 else slab) (ij % 64))
    Runs x.1 s fun t => TileBecomes o.af o.tile.val (fun slab ij => (cell slab ij).1) s t ∧ t.abuf = s.abuf ∧
      Queues none (fun b => ∃ slab ij, slab < 16 ∧ ij < 4096 ∧ (cell slab ij).2.getLsbD b = true) s t ∧
      LatchesC false o.hold o.sa o.sb s t ∧ OnlyE s t ∧ Marked s t) ∧
  (∀ (s : State) (g : Geo) (ftz : Bool) (at0 slab i k : Nat), g.amx = false → g.asrc = 0 → k < mStep g.afmt * g.steps →
    (s.rowA g ftz at0 slab i)[k]? = some (mElem g.afmt ftz none (packedAt
      (s.plateNum s.part slab (at0 + 64 * mSlot g.afmt * (k / mStep g.afmt) + mSlot g.afmt * i) (mSlot g.afmt))
      (mBits g.afmt) (k % mStep g.afmt)))) ∧
  (∀ (s : State) (g : Geo) (ftz : Bool) (at0 slab j k : Nat), g.bmx = false → mStep g.bfmt = mStep g.afmt →
    k < mStep g.bfmt * g.steps →
    (s.colB g ftz at0 slab j)[k]? = some (k, mElem g.bfmt ftz none (packedAt
      (s.plateNum s.part slab (at0 + 64 * mSlot g.bfmt * (k / mStep g.bfmt) + mSlot g.bfmt * j) (mSlot g.bfmt))
      (mBits g.bfmt) (k % mStep g.bfmt))))

/-- R231: MZERO, opcode 0x04 of slot 6 with tile and view in their fields, writes +0 into every cell of its tile in that view, in every
slab, and into no other bit of an accumulator, at its issue (the model's choice, log 11). -/
def Obligations.MzeroWritesZeroInEverySlab : Prop :=
  (∀ o : MzeroOp, encode (.mzero o) / 2 ^ 25 = 4 ∧
    (tileOk o.af o.tile = true → decodeSlot 6 (encode (.mzero o)) = .ok (.mzero o))) ∧
  ∀ (o : MzeroOp) (s : State), Going s → s.matrixFull = false → Runs (.mzero o) s fun t =>
    TileBecomes o.af o.tile.val (fun _ _ => 0) s t ∧ t.abuf = s.abuf ∧ t.stream.latchC = s.stream.latchC ∧
      Queues none (fun _ => False) s t ∧ OnlyE s t ∧ Marked s t

/-- R232: MDECAY leaves in every cell of its tile the rounded product of the cell and its factor: one for the tile, or the FP32
number of the cell's row, of slab 0 with BC; at issue (the model's choice, log 11). -/
def Claims.TilesAreDecayed : Prop :=
  ∀ (o : MdecayOp) (s : State),
    let a := s.srcC false o.hold false o.sa
    ReadyC false o.hold s → Going s → (o.row = true → PlateOk s 256 4 a.toInt) →
    (o.row = true → ∀ slab, slab < 16 → s.platesBad s.part (if o.bc then 0 else slab) a.toInt.toNat 256 = false) →
    s.matrixFull = false →
    let cell := fun slab ij => decayCell o.cal (accFmt o.af)
      (if o.row then s.plateNum s.part (if o.bc then 0 else slab) (a.toInt.toNat + 4 * (ij / 64)) 4 else a.toNat % 2 ^ 32)
      (s.tile o.af o.tile.val slab ij)
    Runs (.mdecay o) s fun t => TileBecomes o.af o.tile.val (fun slab ij => (cell slab ij).1) s t ∧ t.abuf = s.abuf ∧
      Queues none (fun b => ∃ slab ij, slab < 16 ∧ ij < 4096 ∧ (cell slab ij).2.getLsbD b = true) s t ∧
      LatchesC false o.hold o.sa 0 s t ∧ OnlyE s t

/-- R71, R82, R110, R233, R234: a drain that passes its checks writes, for every slab and row i, element j at sA + i·PITCH + e·j, or
in the MX formats the packed elements of block blk at sA + i·PITCH + 4·w·blk and its scale at sB + i·SPITCH + blk; the cells are
those of the row, of the column with TRANS, flushed first under calibres 1 and 5; with CLR the tile becomes zero; its entry carries
the arrival of BAR and the flags. No other byte of a plate changes. It acts at its issue (the model's choice, log 11). -/
def Claims.DrainsWritePlates : Prop := ∀ (o : MdrainOp) (s : State),
  let a := s.srcC false o.hold false o.sa
  let b := s.srcC false o.hold true o.sb
  let g := s.geo.drn
  let at' := fun lo n : Nat => g / 2 ^ lo % 2 ^ n
  let f : Fmt := match at' 0 3 with | 0 => fmtF32 | 1 => fmtBf16 | 2 => fmtF16 | 3 => fmtE4m3 | 4 => fmtE5m2 | _ => fmtE2m1
  let rm : RoundMode := match at' 3 3 with | 0 => .rne | 1 => .rz | 2 => .ru | 3 => .rd | _ => .sr
  let w := f.width
  let ij := fun i j : Nat => if g.testBit 7 then 64 * j + i else 64 * i + j
  let h := s.stream.drawBase (BitVec.ofNat 64 (s.stream.pc.toNat / 32 * 32 + 24))
  let r16 := fun slab i j : Nat => if rm = .sr then (s.stream.rngword (h ^^^ BitVec.ofNat 64 (4096 * slab + ij i j))).toNat % 65536 else 0
  let cell := fun slab i j : Nat => let c := s.tile o.af o.tile.val slab (ij i j)
    (accFmt o.af).decode (if (o.cal = .c1 ∨ o.cal = .c5) ∧ (accFmt o.af).isSub c = true then (accFmt o.af).zeroLike c else c)
  let elem := fun slab i j : Nat => convert f rm (r16 slab i j) (g.testBit 6) (cell slab i j)
  let block := fun slab i blk : Nat =>
    drainBlock f rm (fun k => r16 slab i (32 * blk + k)) ((List.range 32).map fun k => cell slab i (32 * blk + k))
  let rowAt := fun i : Nat => a.toInt.toNat + i * at' 16 16
  let writes := fun slab i : Nat =>
    if at' 0 3 < 3 then (List.range 64).flatMap fun j => (List.range (w / 8)).map fun k =>
      (slab, rowAt i + w / 8 * j + k, BitVec.ofNat 8 ((elem slab i j).1 / 256 ^ k))
    else (List.range 2).flatMap fun blk => ((List.range (4 * w)).map fun k => (slab, rowAt i + 4 * w * blk + k, BitVec.ofNat 8
      ((((block slab i blk).2.1.mapIdx fun n c => c % 2 ^ w * 2 ^ (w * n)).sum) / 256 ^ k))) ++
      [(slab, b.toInt.toNat + i * at' 32 16 + blk, BitVec.ofNat 8 (block slab i blk).1)]
  ReadyC false o.hold s → Going s → s.checkDrain s.geo a.toInt b.toInt = none → s.matrixFull = false →
  Runs (.mdrain o) s fun t => ∃ u : State,
    WritesPlates s.part ((List.range 16).flatMap fun slab => (List.range 64).flatMap fun i => writes slab i) s u ∧
    (if o.clr then TileBecomes o.af o.tile.val (fun _ _ => 0) u t ∧ Marked s t else t.stream.acc = s.stream.acc) ∧ t.abuf = s.abuf ∧
    Queues (if o.bar then some (Fin.ofNat 64 (at' 8 6)) else none)
      (fun b => ∃ slab i, slab < 16 ∧ i < 64 ∧ if at' 0 3 < 3 then ∃ j, j < 64 ∧ (elem slab i j).2.getLsbD b = true
        else ∃ blk, blk < 2 ∧ (block slab i blk).2.2.getLsbD b = true) s t ∧
    LatchesC false o.hold o.sa o.sb s t ∧ OnlyE u t

/-- R235: a gather that passes its checks leaves in each row of its A buffer the bytes of the plate row its index names, zeros
from the gathered length on, and so for the scale rows; the indices are read from the plate as it stands; the other buffer stays.
It acts at issue (the model's choice, log 11). -/
def Claims.GathersFillABuffer : Prop := ∀ (o : MgathOp) (s : State),
  let a := s.srcC false o.hold false o.sa
  let b := s.srcC false o.hold true o.sb
  let g := s.geo
  ReadyC false o.hold s → Going s → s.checkGather g o.bc o.idx a.toInt b.toInt = none →
  s.consumesBad (s.capture (s.work (.mgath o.ab.val o.bc o.idx) a b)) = false → s.matrixFull = false →
  let src := fun slab => if o.bc then 0 else slab
  let q := fun slab i => if o.idx then s.plateNum s.part (src slab) (b.toInt.toNat + 4 * i) 4 else i
  Runs (.mgath o) s fun t =>
    (∀ slab i c, slab < 16 → i < 64 →
      (c < 384 → t.abuf.get ((o.ab.val * 16 + slab) * 26624 + 384 * i + c) =
        if c < g.gLen then s.plate s.part (src slab) (a.toInt.toNat + q slab i * g.gPitch + c) else 0) ∧
      (c < 32 → t.abuf.get ((o.ab.val * 16 + slab) * 26624 + 24576 + 32 * i + c) =
        if c < g.gSlen then s.plate s.part (src slab) (g.scb + q slab i * g.gSpitch + c) else 0)) ∧
    (∀ k, k < o.ab.val * 425984 ∨ (o.ab.val + 1) * 425984 ≤ k → t.abuf.get k = s.abuf.get k) ∧
    t.stream.acc = s.stream.acc ∧ Queues none (fun _ => False) s t ∧ LatchesC false o.hold o.sa o.sb s t ∧ OnlyE s t

/-- MDECAY, MDRAIN and MGATH (R232, R71, R82, R110, R233, R234, R235): the claims above together. -/
def Obligations.TilesDecayDrainAndGather : Prop :=
  Claims.TilesAreDecayed ∧ Claims.DrainsWritePlates ∧ Claims.GathersFillABuffer

/-- R236, R371: MSAVE that passes its checks writes the selected banks and A buffers, one after the other in rising order, from its
offset in the window MSV names; MREST writes them back from there. A bank lies by slab, then cell, four bytes each, least significant
first; a buffer by slab, data rows, then scale rows. Both act at issue (the model's choice, log 11). -/
def Claims.TilesAreSavedAndRestored : Prop :=
  (∀ mask : DWord, let size := fun k : Nat => if k < 8 then 262144 else 425984
    saveStarts mask = ((List.range 10).filter mask.getLsbD).map fun k =>
      (k, (((List.range k).filter mask.getLsbD).map size).sum, size k)) ∧
  (∀ (s : State) (bank slab i j b : Nat), bank < 8 → slab < 16 → i < 64 → j < 64 → b < 4 →
    s.saveByte bank (16384 * slab + 256 * i + 4 * j + b) =
      BitVec.ofNat 8 ((s.stream.acc.get (accCell bank slab (64 * i + j))).toNat / 256 ^ b)) ∧
  (∀ (s : State) (n slab x : Nat), slab < 16 → x < 26624 →
    s.saveByte (8 + n) (26624 * slab + x) = s.abuf.get ((n * 16 + slab) * 26624 + x)) ∧
  ∀ (o : MsaveOp) (s : State),
  let a := (s.srcC false o.hold false o.sa).toInt
  let mask := s.srcC false o.hold true o.sb
  let w := bits s.geo.sv 0 4
  let task := s.stream.theTask
  let place := fun (first k : Nat) => s.m1Phys w (a + (first : Nat)) k
  let bar := if o.bar then some (Fin.ofNat 64 (bits s.geo.sv 4 6)) else none
  let passes := fun (write : Bool) => s.checkSave write a mask = none ∧
    task.missing w (((task.win w).base : Int) + a).toNat (saveSize mask) = none ∧ s.matrixFull = false
  ReadyC false o.hold s → Going s →
  (passes true → Runs (.msave o) s fun t => ∃ u : State,
    WritesMem ((saveStarts mask).flatMap fun x => (List.range x.2.2).map fun k => (place x.2.1 k, s.saveByte x.1 k)) s u ∧
    Queues bar (fun _ => False) s t ∧ LatchesC false o.hold o.sa o.sb s t ∧ t.mem = u.mem ∧ t.stream.acc = s.stream.acc ∧
    t.abuf = s.abuf) ∧
  (passes false → (∀ x ∈ saveStarts mask, ∀ k, k < x.2.2 → (place x.2.1 k / 8) ∉ s.poison) → Runs (.mrest o) s fun t =>
    (∀ x ∈ saveStarts mask, ∀ k, k < x.2.2 → t.saveByte x.1 k = s.seen (some s.part) .mx (place x.2.1 k)) ∧
    (∀ i, i < 10 → mask.getLsbD i = false → ∀ k, k < (if i < 8 then 262144 else 425984) → t.saveByte i k = s.saveByte i k) ∧
    Queues bar (fun _ => False) s t ∧ (saveItems mask ≠ [] → Marked s t) ∧ ∃ u, ReadsMem s u ∧ OnlyE u t)

/-- R237, R238: MSET writes or reads a routine parameter; EWR writes the bits an engine register has and nothing else; ERD reads
an engine register, of e8-e15 once every packet of the channel has claimed its slot, and zero of e55-e63. -/
def Claims.ParametersAndEngineRegisters : Prop := ∀ s : State,
  (∀ o : MsetOp, (o.get = true → GivesS (.mset o) o.sa s.stream.m[o.mn] s) ∧
    (o.get = false → ReadyC false o.hold s → Going s → Runs (.mset o) s fun t => SameSeg s t ∧
      LatchesC false o.hold o.sa 0 s t ∧ t = { s with stream := { s.stream with
        m := s.stream.m.set o.mn (s.srcC false o.hold false o.sa), latchC := t.stream.latchC, seg := t.stream.seg } })) ∧
  (∀ o : EregOp, ReadyC false o.hold s → Going s → Runs (.ewr o) s fun t => LatchesC false o.hold o.sa 0 s t ∧
    t = { s with stream := { s.stream with
      e := s.stream.e.set o.n (s.srcC false o.hold false o.sa &&& BitVec.ofNat 64 (eMask o.n.val))
      latchC := t.stream.latchC } }) ∧
  (∀ o : EregOp, (∀ c : Fin 8, o.n.val = 8 + c.val → (s.pt s.part).queues[c].issued = []) →
    GivesS (.erd o) o.sa (if 55 ≤ o.n.val then 0 else s.stream.ereg o.n) s)

/-- R33, R242, R243: MWAIT issues, and the next group waits until as many matrix instructions as were accepted before it have
completed; the unit begins the oldest entry not yet begun; a begun entry that completes gives its flags to its partition's FLAGS and leaves the queue. -/
def Claims.TheMatrixQueueRunsInOrder : Prop := ∀ s : State,
  exec .mwait s = .next (s.onStream fun x => { x with mwait := some s.matrixCount }) ∧
  (∀ n, s.stream.mwait = some n → s.stream.wait = none →
    (s.matrixCount - s.matrix.length < n → s.issue = s.onStream fun x => { x with hold := some .stall }) ∧
    (n ≤ s.matrixCount - s.matrix.length → s.issue = (s.onStream fun x => { x with mwait := none, hold := none }).issueGroup)) ∧
  (∀ (b r : List MatrixEntry) (e : MatrixEntry), s.matrix = b ++ e :: r → (∀ x ∈ b, x.begun = true) → e.begun = false →
    exec .matrixBegin s = .next { s with matrix := b ++ { e with begun := true } :: r }) ∧
  (∀ (r : List MatrixEntry) (e : MatrixEntry), s.matrix = e :: r → e.begun = true → s.holder = some e.part →
    exec .matrixComplete s = .next { s with matrix := r, stream :=
      let x := { s.stream with flags := s.stream.flags ||| e.flags }
      match e.bar with
      | none => x
      | some b => { x with bars := x.bars.set b ⟨BitVec.ofNat 16 (min (x.bars[b].count.toNat + 1) 65535), x.bars[b].target⟩ } })

/-- R239, R240: MUPD whose image lies in the share, can be read and holds valid routine words, with no call of the routine's former copy under way,
makes it the current copy, the words little-endian; MCALL whose words pass their checks and read no uncorrectable word, into a queue with room, sets m7 to
sB and enters the queue as the routine's current copy, and its words act in order as the same instructions of the stream would with
the m registers their fields name, calibre field 0 being the call's, at issue (the model's choice, log 11); a routine never installed
acts on nothing. -/
def Claims.RoutinesAreInstalledAndCalled : Prop := ∀ s : State, Going s →
  (∀ (i : Instr) (e : EOp × Nat × Nat × Hold) (k : Nat) (l : List Word) (m : Vector DWord 8) (cal : Calibre),
    eopOf i id = some e → WellFormed i → e.2.2.2 = .off → e.2.1 < 8 → e.2.2.1 < 8 →
    let put := fun c : Calibre => (callWork s m c l).find? fun x => x.1 == k
    let as' := fun op : EOp => some (k, EWork.mk op (m.toArray.getD e.2.1 0) (m.toArray.getD e.2.2.1 0) s.geo
      (s.eAddr + BitVec.ofNat 64 (2 ^ 48 * (k + 1))) [])
    (l[k]? = some (BitVec.ofNat 32 (encode i)) → put cal = as' e.1) ∧
    (∀ x, carriesCal (encode i) = true → l[k]? = some (BitVec.ofNat 32 (encode i - 32 * field (encode i) 5 4)) →
      eopOf i (fun _ => cal) = some x → put cal = as' x.1)) ∧
  (∀ (l : List Word) (m : Vector DWord 8) (cal : Calibre), ((callWork s m cal l).map (·.1)).Pairwise (· < ·) ∧
    (∀ k, l[k]? = some 0 → ∀ x ∈ callWork s m cal l, x.1 ≠ k)) ∧
  (∀ (i : Instr) (e : EOp × Nat × Nat × Hold) (t : State), eopOf i id = some e → e.2.2.2 = .off → exec i s = .next t →
    t.matrixCount = s.matrixCount + 1 →
    let value := fun n : Nat => s.sreg (Fin.ofNat 32 n)
    let r := (runE (s.capture (s.work e.1 (value e.2.1) (value e.2.2.1))) s).1
    t.stream.acc = r.stream.acc ∧ t.plates = r.plates ∧ t.abuf = r.abuf) ∧
  (∀ o : C2Op, ReadyC false o.hold s →
    let n : Fin 128 := Fin.ofNat 128 (s.srcC false o.hold false o.sa).toNat
    let at0 := (s.srcC false o.hold true o.sb).toInt
    let word := fun k => s.plateNum s.part 0 (at0.toNat + 4 * k) 4
    PlateOk s 64 64 at0 → s.platesBad s.part 0 at0.toNat 64 = false → (∀ k, k < 16 → routineFault (word k) = none) →
    (∀ e ∈ s.matrix, e.part = s.part → e.routine = some n → e.current = true) →
    Runs (.mupd o) s fun t =>
      (∀ k, k < 16 → ((t.pt s.part).routine n)[k]? = some (BitVec.ofNat 32 (word k))) ∧
      (∀ m, m ≠ n → (t.pt s.part).routine m = (s.pt s.part).routine m) ∧
      (∀ e ∈ t.matrix, e.part = s.part → e.routine = some n → e.current = false) ∧ t.matrix.length = s.matrix.length ∧
      LatchesC false o.hold o.sa o.sb s t ∧
      t = { s with matrix := t.matrix, stream := { s.stream with latchC := t.stream.latchC },
                   parts := s.parts.set s.part { s.pt s.part with routines := (t.pt s.part).routines } }) ∧
  (∀ o : McallOp, ReadyC false o.hold s → s.matrixFull = false →
    let n : Fin 128 := Fin.ofNat 128 (s.srcC false o.hold false o.sa).toNat
    let b := s.srcC false o.hold true o.sb
    let work := callWork s (s.stream.m.set 7 b) o.cal ((s.pt s.part).routine n)
    (∀ w ∈ work, s.checkE w.2 = none ∧ s.consumesBad (s.capture w.2) = false) → s.badRoutineWord ((s.pt s.part).routine n) = none →
    Runs (.mcall o) s fun t => t.stream.m = s.stream.m.set 7 b ∧ t.mem = s.mem ∧ LatchesC false o.hold o.sa o.sb s t ∧
      (∃ l e, t.matrix = s.matrix ++ l ++ [e] ∧ (∀ x ∈ l ++ [e], x.part = s.part ∧ x.routine = some n ∧ x.current = true) ∧
        e.begun = false ∧ t.matrixCount = s.matrixCount + l.length + 1) ∧
      (∃ r, r = work.foldl (fun r w => (runE (s.capture w.2) r).1) s ∧
        t.plates = r.plates ∧ t.stream.acc = r.stream.acc ∧ t.abuf = r.abuf ∧ t.platePoison = r.platePoison) ∧ Marked s t ∧
      ((∀ r ∈ (s.pt s.part).routines, r.1 ≠ n) → t.plates = s.plates ∧ t.stream.acc = s.stream.acc ∧ t.abuf = s.abuf) ∧
      t = { s with plates := t.plates, platePoison := t.platePoison, abuf := t.abuf, matrix := t.matrix,
                   matrixCount := t.matrixCount, stream := { s.stream with
        m := t.stream.m, acc := t.stream.acc, seg := t.stream.seg, latchC := t.stream.latchC } })

/-- MSAVE, MREST, MSET, EWR, ERD, MWAIT, MUPD, MCALL and the matrix queue (R236, R371, R237, R238, R33, R242, R243, R239,
R240): the claims above together. -/
def Obligations.TilesAreSavedParametersKeptRoutinesCalled : Prop :=
  Claims.TilesAreSavedAndRestored ∧ Claims.ParametersAndEngineRegisters ∧ Claims.TheMatrixQueueRunsInOrder ∧
    Claims.RoutinesAreInstalledAndCalled

/-- R136, R138, R139, R142: a copy or CFLAG whose packet passes the checks and whose channel's buffer, one for all partitions, has
room puts it last into the buffer; a packet for the partner sets out across its dimension. The packet's fields are those of e0-e3 and the operands. -/
def Claims.CopiesQueueTheirPacket : Prop :=
  (∀ (s : State) (i : Instr) (h : Hold) (sa sb : RegNo) (ch : Fin 8) (k : Packet),
    let a := s.srcC true h false sa
    let b := s.srcC true h true sb
    let e1 := s.stream.e[1].toNat
    let sel := 2 * (if bit e1 22 then 1 else 0) * 2 ^ 7 + bits e1 12 6 * 2 ^ 12 + bits e1 0 4 * 2 ^ 18 + bits e1 4 4 * 2 ^ 22 +
      bits e1 8 4 * 2 ^ 26 + bits e1 18 4 * 2 ^ 30
    let forms := fun (kind : Nat) (o : CopyOp) => o.hold = h ∧ o.sa = sa ∧ o.sb = sb ∧ o.ch = ch ∧ k =
      ⟨BitVec.ofNat 64 (kind + (if o.flag then 2 ^ 9 else 0) + (if o.bar then 2 ^ 10 else 0) + sel), a, b,
        BitVec.ofNat 64 (s.stream.e[0].toNat % 2 ^ 40), s.stream.e[2], s.stream.e[3], 0⟩
    ((∃ o, i = .copy o ∧ forms 1 o) ∨ (∃ o, i = .copya o ∧ forms 2 o) ∨ (∃ o, i = .copyd o ∧ forms 3 o) ∨ (∃ o, i = .copyda o ∧ forms 4 o) ∨
      (∃ o : CopyhOp, i = .copyh o ∧ o.hold = h ∧ o.sa = sa ∧ o.sb = sb ∧ o.ch = ch ∧ k =
        ⟨BitVec.ofNat 64 (5 + (if o.inward then 2 ^ 4 else 0) + (if o.flag then 2 ^ 9 else 0) + (if o.bar then 2 ^ 10 else 0) + sel),
          if o.inward then b else a, if o.inward then a else b, BitVec.ofNat 64 (s.stream.e[0].toNat % 2 ^ 40), s.stream.e[2],
          s.stream.e[3], 0⟩) ∨
      (∃ o : CflagOp, i = .cflag o ∧ o.hold = h ∧ o.sa = sa ∧ o.sb = sb ∧ o.ch = ch ∧ k =
        ⟨BitVec.ofNat 64 (6 + 2 ^ 9 + (if o.bar then 2 ^ 10 else 0) + bits e1 12 6 * 2 ^ 12 + bits e1 8 4 * 2 ^ 26 +
          bits e1 18 4 * 2 ^ 30 + (if o.far then 2 ^ 34 else 0)), 0, 0, 0, a, b, 0⟩)) →
    ReadyC true h s → Going s → s.checkPacket k = none → s.packetPage k = none →
    ((List.finRange 4).map fun q => (s.queue q ch).issued.length).sum < 16 →
    let out := validPacket .stream k && k.posts
    Runs i s fun t => LatchesC true h sa sb s t ∧
      (t.queue s.part ch).issued =
        (s.queue s.part ch).issued ++ [⟨k, validPacket .stream k, if out then .waiting else .unneeded, none, false⟩] ∧
      (∀ c, c ≠ ch → t.queue s.part c = s.queue s.part c) ∧ t.stream.s = s.stream.s ∧ t.mem = s.mem ∧ t.plates = s.plates ∧
      (out = true → physDim s.stream.subMask k.dim < 14 → Sends (physDim s.stream.subMask k.dim)
        (.posted (s.pt s.part).bind.job ch k (s.srcPieces k)) s t) ∧
      (out = false → t.links = s.links ∧ t.outbox = s.outbox)) ∧
  (∀ (o : CqpushOp) (s : State),
    let off := (s.srcC true o.hold false o.sa).toInt
    let k := Packet.ofWords ((List.range 8).map fun j => s.plateNum s.part 0 (off.toNat + 8 * j) 8)
    ReadyC true o.hold s → Going s → PlateOk s 64 64 off → s.platesBad s.part 0 off.toNat 64 = false →
    ((List.finRange 4).map fun q => (s.queue q o.ch).issued.length).sum < 16 →
    (validPacket .stream k = true → s.checkPacket k = none ∧ s.packetPage k = none) →
    Runs (.cqpush o) s fun t => LatchesC true o.hold o.sa 0 s t ∧ t.mem = s.mem ∧ t.plates = s.plates ∧
      (t.queue s.part o.ch).issued = (s.queue s.part o.ch).issued ++
        [⟨k, validPacket .stream k, if validPacket .stream k && k.posts then .waiting else .unneeded, none, false⟩])

/-- R141, R100: CSTAT gives DONEID; CSTAT.id gives 0 for a packet not yet done, 0xFF where the slot has been reused or for 0, else
the slot's STATUS. The header and the slot are read through the stash; no byte changes where every line is reached under one key
slot (log 18). -/
def Claims.CstatReadsTheQueue : Prop := ∀ (o : CstatOp) (s : State) (v : QueueView) (x : Nat), ReadyC true o.hold s → Going s → s.OneKey →
  s.copyView s.part o.ch = some v → s.copyHdr s.part o.ch % 64 = 0 →
  let id := (s.srcC true o.hold true o.sb).toNat
  (o.byId = true → id ≠ 0 → id ≤ v.done → v.wr < id + v.size → s.vread64 s.part (v.ring + 64 * ((id - 1) % v.size) + 56) = some x) →
  Runs (.cstat o) s fun t => ∃ r u : State, ReadsMem s r ∧ LatchesC true o.hold 0 o.sb s t ∧
    WritesS o.sa (BitVec.ofNat 64 (if o.byId = false then v.done else if v.done < id then 0
      else if id = 0 ∨ id + v.size ≤ v.wr then 255 else x)) 0 r u ∧
    t = { u with stream := { u.stream with latchC := t.stream.latchC } }

/-- The copy instructions and CSTAT (R136, R138, R139, R142, R141, R100): the claims above together. -/
def Obligations.CopiesQueueTheirPacket : Prop :=
  Claims.CopiesQueueTheirPacket ∧ Claims.CstatReadsTheQueue

/-- R290, R291, R293, R299, R301: an exchange instruction that passes its checks on a free slot, where no READY waits, takes its
counter's number, holds its slot BUSY and waiting for its partner, and sends one READY across every dimension it pairs on;
with no byte to move it completes at once as EMPTY. -/
def Claims.ExchangesTakeTheirSlot : Prop :=
  ∀ (s : State) (i : Instr) (h : Hold) (sa sb : RegNo) (k : Fin 4) (kind : XKind) (bb : Nat) (back : Bool) (cal : Option Calibre),
    ((∃ o : XchOp, i = .xch o ∧ (o.hold, o.sa, o.sb, o.k) = (h, sa, sb, k) ∧ kind = .xch ∧ bb = 0 ∧ back = false ∧ cal = none) ∨
      (∃ o : XcbOp, i = .xcb o ∧ (o.hold, o.sa, o.sb, o.k) = (h, sa, sb, k) ∧ kind = .xcb ∧ bb = 0 ∧ back = false ∧ cal = some o.cal) ∨
      (∃ o : SibOp, i = .sib o ∧ (o.hold, o.sa, o.sb, o.k) = (h, sa, sb, k) ∧ kind = .sib ∧ bb = o.b.val ∧ back = false ∧ cal = none) ∨
      (∃ o : SibcOp, i = .sibc o ∧ (o.hold, o.sa, o.sb, o.k) = (h, sa, sb, k) ∧ kind = .sibc ∧ bb = o.b.val ∧ back = false ∧
        cal = some o.cal) ∨
      (∃ o : ShfOp, i = .shf o ∧ (o.hold, o.sa, o.sb, o.k) = (h, sa, sb, k) ∧ kind = .shf ∧ bb = 0 ∧ back = o.back ∧ cal = none) ∨
      (∃ o : ShfcOp, i = .shfc o ∧ (o.hold, o.sa, o.sb, o.k) = (h, sa, sb, k) ∧ kind = .shfc ∧ bb = 0 ∧ back = o.back ∧
        cal = some o.cal)) →
    let a := s.srcC true h false sa
    let g := s.stream.xgeo k (s.srcC true h true sb)
    let sts := fun u : State => (u.stream.ereg (xReg k 3)).toNat
    ReadyC true h s → Going s → (s.pt s.part).xslots[k] = none → s.checkX kind g a bb = none →
    (zeroCount kind g a = false → (s.pt s.part).pairing = [] → Runs i s fun t => LatchesC true h sa sb s t ∧ t.stream.seg = none ∧
      (t.pt s.part).xslots[k] = some (s.xOp kind g a bb back cal) ∧ bits (sts t) 0 2 = 3 ∧ bits (sts t) 2 62 = bits (sts s) 2 62 ∧
      t.plates = s.plates ∧ t.mem = s.mem ∧ t.stream.s = s.stream.s ∧
      (kind.shifts = true → t.stream.ps = s.stream.ps + 1 ∧ t.stream.px = s.stream.px) ∧
      (kind.shifts = false → t.stream.ps = s.stream.ps ∧ ∀ d : Fin 14, t.stream.px[d] = s.stream.px[d] + if d.val = a.toNat then 1 else 0) ∧
      ∀ pr ∈ (s.xOp kind g a bb back cal).sendTo.toList ++ (s.xOp kind g a bb back cal).recvFrom.toList, pr.dim < 14 →
        (t.link pr.dim).pseqOut = (s.link pr.dim).pseqOut + 1) ∧
    (zeroCount kind g a = true → Runs i s fun t => LatchesC true h sa sb s t ∧ t.stream.seg = none ∧
      (t.pt s.part).xslots[k] = none ∧ sts t = 3 * 2 ^ 4 + (bits (sts s) 16 32 + 1) % 2 ^ 32 * 2 ^ 16 ∧ t.links = s.links ∧
      t.stream.px = s.stream.px ∧ t.stream.ps = s.stream.ps ∧ t.plates = s.plates ∧ t.mem = s.mem)

/-- R303, R304: XWAIT goes on once every slot it names is free, and waits while one is not; XSTAT reads PX of a logical
dimension, PS at 14, 0 elsewhere. -/
def Claims.ExchangeSlotsAreAwaitedAndRead : Prop := ∀ s : State,
  (∀ mask : BitVec 4,
    ((∀ k : Fin 4, mask.getLsbD k.val = true → (s.pt s.part).xslots[k] = none) →
      Runs (.xwait mask) s fun t => SameSeg s t ∧ t = s.onStream fun x => { x with seg := t.stream.seg }) ∧
    ((∃ k : Fin 4, mask.getLsbD k.val = true ∧ (s.pt s.part).xslots[k] ≠ none) →
      exec (.xwait mask) s = .next (s.onStream fun x => { x with hold := some .waitPoint }))) ∧
  (∀ o : XqOp, ReadyC true o.hold s → Going s → s.stream.order ≤ 14 →
    let n := (s.srcC true o.hold true o.sb).toNat
    GivesC true (.xstat o) o.hold 0 o.sb o.sd (BitVec.ofNat 64
      (if n < s.stream.order then s.stream.px.toList.getD n 0 else if n = 14 then s.stream.ps else 0)) s)

/-- R306: XCINS, outside a PURE task, of a sound image in the share whose words are all allowed, keeps the image for the partition's
next merge; the images that are current stay. -/
def Claims.XcinsWaitsForTheMerge : Prop := ∀ (o : C2Op) (s : State), ReadyC true o.hold s → Going s → s.stream.pure = false →
  let off := (s.srcC true o.hold true o.sb).toInt
  let word := fun k => s.plateNum s.part 0 (off.toNat + 4 * k) 4
  PlateOk s 128 128 off → s.platesBad s.part 0 off.toNat 128 = false → (∀ k, k < 32 → compWordOk (word k) = true) →
  Runs (.xcins o) s fun t => LatchesC true o.hold o.sa o.sb s t ∧ SameSeg s t ∧
    t = { s with stream := { s.stream with latchC := t.stream.latchC, seg := t.stream.seg },
                 parts := s.parts.set s.part { s.pt s.part with compsNext := (s.pt s.part).compsNext ++
                   [(Fin.ofNat 64 (s.srcC true o.hold false o.sa).toNat, (List.range 32).map fun k => BitVec.ofNat 32 (word k))] } }

/-- The exchange instructions, XWAIT, XSTAT and XCINS (R290, R291, R293, R299, R301, R303, R304, R306): the claims above
together. -/
def Obligations.ExchangesTakeTheirSlot : Prop :=
  Claims.ExchangesTakeTheirSlot ∧ Claims.ExchangeSlotsAreAwaitedAndRead ∧ Claims.XcinsWaitsForTheMerge

/-- R294, R300: once its pair has matched, an operation that still has bytes to send sends the next chunk of 256 bytes of its send
region across that dimension, from plates that are sound there; each row of the plates is read once, as a whole; under OP 3 the chunk
of error terms goes with it. -/
def Claims.ExchangeChunksGoOut : Prop :=
  ∀ (s : State) (p : PartNo) (k : Fin 4) (x : XOp) (pr : XPair) (slab : Fin 16) (c : Nat) (rest : List (Fin 16 × Nat)),
    (s.pt p).xslots[k] = some x → x.sendTo = some pr → pr.state = .matched → pr.dim < 14 → x.toSend = (slab, c) :: rest →
    let n := min 256 (x.len - 256 * c)
    let part := fun base : Nat => rowBytes s p x.sendRows slab.val (base + 256 * c) n
    let pairs := x.kind.combines = true ∧ x.op = 3
    s.platesBad p slab.val (x.snd + 256 * c) n = false → (pairs → s.platesBad p slab.val (x.snd + x.len + 256 * c) n = false) →
    Runs (.exchangeSend ⟨p, k⟩) s fun t =>
      (∃ rows, ReadsRows s p slab.val x.sendRows rows ∧ (t.pt p).xslots[k] = some { x with toSend := rest, sendRows := rows }) ∧ (∀ q, q ≠ p → t.pt q = s.pt q) ∧
      (∀ j, j ≠ k → (t.pt p).xslots[j] = (s.pt p).xslots[j]) ∧
      Sends pr.dim (.chunk ⟨x.job, x.seq, x.ctr, x.num, s.node, slab, c, part x.snd,
        if pairs then part (x.snd + x.len) else []⟩) s t ∧
      t = { s with parts := t.parts, links := t.links, outbox := t.outbox }

/-- R294, R297-R300: where an operation can take a chunk that came (its pair has matched, the chunk is awaited, and over
identical regions its own bytes have left) and the plates it combines with are sound, one such chunk is taken at its place of the
receive region: as it came, or combined with the bytes there, the operand of the lower rank first; the flags join the operation's.
Each row of the plates whose bytes have all come goes as a whole into a landing row; the rest waits with the operation. No plate
changes before the rows drain. -/
def Claims.ExchangeChunksArrive : Prop := ∀ s : State,
  let takeable := fun (p : PartNo) (k : Fin 4) (x : XOp) (c : Chunk) => (s.pt p).xslots[k] = some x ∧ c ∈ (s.pt p).arrivals ∧
    (c.ctr, c.num, c.seq) = (x.ctr, x.num, x.seq) ∧ (∃ pr, x.recvFrom = some pr ∧ pr.state = .matched ∧ pr.node = c.src) ∧
    (c.slab, c.index) ∈ x.toRecv ∧ (x.snd = x.rcv → (c.slab, c.index) ∉ x.toSend)
  let soundAt := fun (p : PartNo) (x : XOp) (c : Chunk) (base : Nat) =>
    s.platesBad p c.slab.val (base + 256 * c.index) (min 256 (x.len - 256 * c.index)) = false
  (∃ p k x c, takeable p k x c) →
  (∀ p k x c, takeable p k x c → x.kind.combines = true → soundAt p x c x.rcv ∧ (x.op = 3 → soundAt p x c (x.rcv + x.len))) → ∃ (p : PartNo) (k : Fin 4) (x : XOp) (c : Chunk), takeable p k x c ∧
    let n := min 256 (x.len - 256 * c.index)
    let own := fun base : Nat => rowBytes s p x.ownRows c.slab.val (base + 256 * c.index) n
    let mine := own x.rcv
    let mineE := own (x.rcv + x.len)
    let out := if x.kind.combines = false then ((c.bytes.take n).map some, [], 0)
      else if x.selfLow then combineChunk x s.free c.slab c.index mine (if x.op = 3 then mineE else []) c.bytes c.errBytes
      else combineChunk x s.free c.slab c.index c.bytes c.errBytes mine (if x.op = 3 then mineE else [])
    let come := x.recvBytes ++ (out.1.mapIdx fun j b => (c.slab.val, x.rcv + 256 * c.index + j, b)) ++
      (out.2.1.mapIdx fun j b => (c.slab.val, x.rcv + x.len + 256 * c.index + j, b))
    let ofRow := fun row : Nat => come.filter fun y => y.1 == c.slab.val && y.2.1 / 256 == row
    let stop := x.rcv + (if x.kind.combines = true ∧ x.op = 3 then 2 * x.len else x.len)
    let full := fun row : Nat => ofRow row ≠ [] ∧ (ofRow row).length = min (256 * row + 256) stop - max (256 * row) x.rcv
    let bytes := fun row : Nat => (ofRow row).filterMap fun y => y.2.2.map fun b => (y.2.1, b)
    Runs .exchangeChunkArrive s fun t =>
      (∃ rows : List RowItem, t.rowsWaiting = s.rowsWaiting ++ rows ∧
        (∀ r ∈ rows, r.part = p ∧ r.slab = c.slab ∧ r.slot = k ∧ (∃ d, r.flow = .exchange d) ∧ ∃ row, full row ∧ r.bytes = bytes row) ∧
        ∀ row, full row → ∃ r ∈ rows, r.bytes = bytes row) ∧
      ∃ (own : RowCache) (left : List (Nat × Nat × Option Byte)), ReadsRows s p c.slab.val x.ownRows own ∧
        (∀ y, y ∈ left ↔ y ∈ come ∧ ¬(y.1 = c.slab.val ∧ full (y.2.1 / 256))) ∧
        t = { s with rowsWaiting := t.rowsWaiting, free := t.free, parts := s.parts.set p { s.pt p with
          arrivals := (s.pt p).arrivals.erase c,
          xslots := (s.pt p).xslots.set k (some { x with toRecv := x.toRecv.erase (c.slab, c.index), flags := x.flags ||| out.2.2,
                                                          ownRows := own, recvBytes := left }) } }

/-- R297, R298: combining two chunks of the same length acts on each lane: OP 0 to 2 element by element, OP 3 on the sums and the
error terms by TwoSum. Both dies name the lower rank's operand first, so both hold the same bits. -/
def Claims.CombiningActsOnEachLane : Prop :=
  ∀ (x : XOp) (free : Nat) (slab : Fin 16) (i : Nat) (a ae b be : List Byte) (n : Nat),
    a.length = 4 * n → b.length = 4 * n → ae.length = (if x.op = 3 then 4 * n else 0) → be.length = ae.length →
    let lane := fun (l : List Byte) (k : Nat) => ofBytes ((l.drop (4 * k)).take 4)
    let holds := fun (r : List (Option Byte)) (f : Nat → Nat) =>
      ∃ l : List Byte, r = l.map some ∧ l.length = 4 * n ∧ ∀ k, k < n → lane l k = f k
    let ftz := x.cal.elim false calFtz
    let r := combineChunk x free slab i a ae b be
    (x.op ≤ 2 → r.2.1 = [] ∧ holds r.1 fun k =>
      (combineLane x.ty.val x.op ftz (BitVec.ofNat 32 (lane a k)) (BitVec.ofNat 32 (lane b k))).1.toNat) ∧
    (x.op = 3 →
      let t := fun k => twoSum ftz (lane a k) (lane ae k) (lane b k) (lane be k)
      holds r.1 (fun k => (t k).1 % 2 ^ 32) ∧ holds r.2.1 fun k => (t k).2.1 % 2 ^ 32) ∧
    (x.op = 4 → r.1.length = 4 * n ∧ r.2.1 = [])

/-- R299, R307: an operation with every byte read and every byte written completes: its slot is free, XSTS shows OK or, where a
pair did not match, MISMATCH, with its flags and one completion more; FLAGS takes the flags; the named barrier gets one arrival,
held while the partition is parked. -/
def Claims.ExchangesComplete : Prop := ∀ (s : State) (p : PartNo) (k : Fin 4) (x : XOp) (u : Stream),
  (s.pt p).xslots[k] = some x → s.ctx p = some u → (∀ pr, (x.sendTo = some pr ∨ x.recvFrom = some pr) → pr.state ≠ .awaited) →
  x.toSend = [] → x.toRecv = [] → (∀ r ∈ s.rowsWaiting ++ s.rowsFull, ∀ d, r.part = p → r.flow ≠ .exchange d) →
  let lost := ∃ pr, (x.sendTo = some pr ∨ x.recvFrom = some pr) ∧ pr.state = .mismatched
  Runs (.exchangeComplete ⟨p, k⟩) s fun t => (t.pt p).xslots[k] = none ∧ t.plates = s.plates ∧ t.mem = s.mem ∧ t.links = s.links ∧
    ∃ v, t.ctx p = some v ∧ v.flags = u.flags ||| x.flags ∧ v.s = u.s ∧
      (∀ c : Nat, (lost → c = 2) → (¬lost → c = 1) → (v.ereg (xReg k 3)).toNat =
        c * 2 ^ 4 + x.flags.toNat * 2 ^ 8 + (bits (u.ereg (xReg k 3)).toNat 16 32 + 1) % 2 ^ 32 * 2 ^ 16) ∧
      (∀ e, e ≠ xReg k 3 → v.ereg e = u.ereg e) ∧
      (x.baren = false → v.bars = u.bars ∧ (t.pt p).heldBars = (s.pt p).heldBars) ∧
      (x.baren = true → s.holder = some p → v.bars = u.bars.set x.bar
        ⟨BitVec.ofNat 16 (min (u.bars[x.bar].count.toNat + 1) 65535), u.bars[x.bar].target⟩) ∧
      (x.baren = true → s.holder ≠ some p → v.bars = u.bars ∧ (t.pt p).heldBars = (s.pt p).heldBars ++ [x.bar])

/-- R104, R179: while a TICK of the running task waits for its agreement with its own lines written back, the release of that
agreement merges the partition's staged lines: their bytes replace those of the main partition (where nothing else waits for the merge,
and what is said of a byte is said where its line is reached under one key slot, log 18), no staged line and no value of before stays
for its readers; the tick itself ends when its group next issues. -/
def Claims.ReleasedTicksMerge : Prop := ∀ (s : State) (p : PartNo) (j : Join) (sc : Scope),
  s.holder = some p → s.stream.wait = some (.agree j) → j.kind = .tick sc → j.cleaned = true → j.merged = false → sc ≠ .lane → sc ≠ .slab →
  (j.releases = 1 ∨ sc = .die ∨
    (sc = .pack ∧ s.stream.packTicks + 1 ≤ releasesOf (s.pt p).tickReleases s.stream.theTask.seq) ∨
    ((sc = .sub ∨ sc = .cube) ∧ ∀ d ∈ (if j.arrived then j.dims else s.scopeDims sc),
      s.stream.agreed true sc + 1 ≤ (s.pt p).tokenCount true sc d s.stream.theTask.seq)) →
  Runs (.stagedMerge p) s fun t => (∃ j', t.stream.wait = some (.agree j') ∧ j'.merged = true ∧ j'.kind = .tick sc) ∧
    (∀ l ∈ t.staged, l.tag ≠ p) ∧ (∀ l ∈ s.staged, l.tag ≠ p → l ∈ t.staged) ∧ (∀ l ∈ t.loose, l.part ≠ p) ∧
    t.stream.tickno = s.stream.tickno ∧ t.plates = s.plates ∧ t.stream.hold = s.stream.hold ∧
    ((∀ a ∈ s.heldAccs, a.tag ≠ p) → (∀ x ∈ s.detLines, x.1 ≠ p) → t.stream.s = s.stream.s ∧
      let l := (s.staged.filter fun l => l.tag = p).flatMap fun l => l.bytes.map fun b => (l.line * 128 + b.1, b.2)
      ∀ a, (∃ m, s.oneSlot noKey m (a / 128) ∧ ∀ x ∈ s.staged, x.tag = p → (∃ b ∈ x.bytes, (x.line * 128 + b.1) / 128 = a / 128) →
        ∀ k, x.key = some k → k = m) → t.byte a = ((l.reverse.find? fun x => x.1 == a).map (·.2)).getD (s.byte a))

/-- The exchange engine, and the merge of a released TICK (R294, R300, R297-R300, R297, R298, R299, R307, R104, R179): the
claims above together. -/
def Obligations.ExchangeEngineMovesAndCombines : Prop :=
  Claims.ExchangeChunksGoOut ∧ Claims.ExchangeChunksArrive ∧ Claims.CombiningActsOnEachLane ∧ Claims.ExchangesComplete ∧
    Claims.ReleasedTicksMerge

/-- R360, R361: REPQ gives the state of the entry of the running tenant under a key: 0 where there is none, 1 pending, 2 valid
in identity mode, 3 valid in content mode; REPS gives a counter, 0 past the sixth; REPC writes the running task's key, that of its
lookup where it had one, 32 zero bytes where it has none; REPX removes the entries it names, and no other. Of these REPQ, REPS, REPX
raise PURITY in a PURE task; an uncorrectable word of the key that REPQ or REPX reads raises UNCORR (R105). -/
def Obligations.RepeaterWords : Prop := ∀ s : State, Going s →
  let tenant := (s.pt s.part).bind.tenant
  let keyAt := fun off : Int => s.plateBytes s.part 0 off.toNat 32
  (∀ o : XqOp, ReadyC true o.hold s →
    let off := (s.srcC true o.hold true o.sb).toInt
    (s.stream.pure = true → Traps (.repq o) s { num := 0x12, slot := 7 } ∧ Traps (.reps o) s { num := 0x12, slot := 7 }) ∧
    (s.stream.pure = false → PlateOk s 32 32 off → s.platesBad s.part 0 off.toNat 32 = true →
      Traps (.repq o) s { num := 0x14, slot := 7 }) ∧
    (s.stream.pure = false → PlateOk s 32 32 off → s.platesBad s.part 0 off.toNat 32 = false →
      let gives := fun v => GivesC true (.repq o) o.hold 0 o.sb o.sd v s
      ((∀ e ∈ s.repEntries, e.tenant = tenant → e.key ≠ keyAt off) → gives 0) ∧
      (∀ (b r : List RepEntry) (e : RepEntry), s.repEntries = b ++ e :: r → e.tenant = tenant → e.key = keyAt off →
        (∀ x ∈ b, x.tenant = tenant → x.key ≠ keyAt off) →
        gives (if e.state = .pending then 1 else if e.content = false then 2 else 3))) ∧
    (s.stream.pure = false →
      let n := (s.srcC true o.hold true o.sb).toNat
      let gives := fun v => GivesC true (.reps o) o.hold 0 o.sb o.sd v s
      ((∀ c ∈ s.repCounters, c.tenant ≠ tenant) → gives 0) ∧
      (∀ (b r : List RepCounters) (c : RepCounters), s.repCounters = b ++ c :: r → c.tenant = tenant → (∀ x ∈ b, x.tenant ≠ tenant) →
        gives (BitVec.ofNat 64 (c.counts.toList.getD n 0))))) ∧
  (∀ o : RepcOp, ReadyC true o.hold s →
    let off := (s.srcC true o.hold true o.sb).toInt
    PlateOk s 32 32 off → Runs (.repc o) s fun t => ∃ key : List Byte,
      (s.stream.pure = false ∨ s.tenantRow tenant = none → key = List.replicate 32 0) ∧
      (∀ row, s.stream.pure = true → s.tenantRow tenant = some row →
        (∀ b l, s.stream.theTask.rep ∈ [.pending (b :: l), .noRecord (b :: l)] → key = b :: l) ∧
        (s.stream.theTask.rep ∈ [.none, .pending [], .noRecord []] →
          key = s.repKey s.part s.stream.theTask s.stream.seedsnap row)) ∧
      (∀ w ∈ t.platePoison, w ∈ s.platePoison) ∧ t.plates = s.plates.blit (s.plateCell s.part 0 off.toNat) key.length (fun j => key.getD j 0) ∧
      LatchesC true o.hold 0 o.sb s t ∧
      t = { s with plates := t.plates, platePoison := t.platePoison, stream := { s.stream with latchC := t.stream.latchC } }) ∧
  (∀ o : RepxOp, ReadyC true o.hold s →
    let off := (s.srcC true o.hold true o.sb).toInt
    let named := fun e : RepEntry => e.tenant = tenant ∧ (o.all = true ∨ e.key = keyAt off)
    (s.stream.pure = true → Traps (.repx o) s { num := 0x12, slot := 7 }) ∧
    (s.stream.pure = false → o.all = false → PlateOk s 32 32 off → s.platesBad s.part 0 off.toNat 32 = true →
      Traps (.repx o) s { num := 0x14, slot := 7 }) ∧
    (s.stream.pure = false → (o.all = true ∨ PlateOk s 32 32 off ∧ s.platesBad s.part 0 off.toNat 32 = false) → Runs (.repx o) s fun t =>
      (∀ e, e ∈ t.repEntries ↔ e ∈ s.repEntries ∧ ¬named e) ∧ LatchesC true o.hold 0 o.sb s t ∧ SameSeg s t ∧
      t = { s with repEntries := t.repEntries, repCounters := t.repCounters,
                   stream := { s.stream with latchC := t.stream.latchC, seg := t.stream.seg } }))

/-- R17, R22, R277, R284, R285, R388, R389; which dimensions' links train, which detour entries and which order of the sites the
Regulator chooses is in the outcome (the model's form, logs 44, 78): a stage that ends with no failure leads to the next: stage 2 with the digests of the
verified firmware and the die's node id, stage 3 with memory zero, the slab map, slot 0 alone loaded and TRAIN on every dimension of
the cube, stage 4 with the dimensions up that trained and agreed on a version, their detour entries, and the lowest node id of the
trained cube as time master; a failure code of stage 1 or 2 leaves STAGE and sets FAIL, one that the stage does not have changes
nothing; a link timeout enters stage 4 with its dimensions dead and FAIL 4. -/
def Claims.StartUpStagesAdvance : Prop := ∀ (o : StageOutcome) (s : State), s.powered = true → s.fail = 0 →
  let runs := Runs (.stageAdvance o) s
  let fits := s.stage = 1 ∧ o.fail = 1 ∨ s.stage = 2 ∧ (o.fail = 2 ∨ o.fail = 3)
  (fits → exec (.stageAdvance o) s = .next { s with fail := o.fail }) ∧
  (o.fail ≠ 0 → ¬fits → ¬(s.stage = 3 ∧ o.fail = 4) → exec (.stageAdvance o) s = .next s) ∧
  (o.fail = 0 → s.stage = 1 → runs fun t => t.stage = 2 ∧ t.fail = 0 ∧ t.digests = o.digests ∧ t.node = o.node ∧
    (∀ c : Fin 4, t.bucketCfg[c] = 0x0000_0F42_4010_0400#64) ∧
    t = { s with stage := t.stage, digests := t.digests, node := t.node, bucketCfg := t.bucketCfg, buckets := t.buckets }) ∧
  (o.fail = 0 → s.stage = 2 → slabMapOk o.slabMap o.badHalves = true → runs fun t => t.stage = 3 ∧ t.fail = 0 ∧
    (∀ a, t.byte a = 0) ∧ t.slabMap = o.slabMap ∧ t.keys.map (fun k => (k.slot.val, k.key)) = [(0, o.deviceKey)] ∧
    t.master = s.node &&& ~~~o.trained ∧ (∃ r : List SiteRole, t.sites.toList = r.map some ∧ r.Nodup) ∧
    (∀ d : Fin 14, o.trained.getLsbD d.val = true → (t.link d).state = 1 ∧
      ∃ f : Flit, f.ftype = 6 ∧ f.what = .train 0x0100 0x0100 ∧ OutMsg.flit d.val f ∈ t.outbox) ∧
    t = { s with stage := t.stage, mem := t.mem, lineKeys := [], slabMap := t.slabMap, badHalves := o.badHalves, keys := t.keys,
                 sites := t.sites, master := t.master, links := t.links, outbox := t.outbox }) ∧
  (o.fail = 0 → s.stage = 2 → slabMapOk o.slabMap o.badHalves = false → runs fun t => t.stage = 2 ∧ t.fail = 2) ∧
  (s.stage = 3 → ∀ (x : TrainTimeout) (i : Instr) (dead : BitVec 14) (fail : BitVec 8),
    (i = .stageAdvance o ∧ o.fail = 0 ∧ dead = 0 ∧ fail = 0 ∨ i = .stageAdvance o ∧ o.fail = 4 ∧ dead = ~~~o.trained ∧ fail = 4 ∨
      i = .linkTrainTimeout x ∧ x.rest = o ∧ dead = x.dead ∧ fail = 4) → Runs i s fun t =>
      let up := fun d : Fin 14 => dead.getLsbD d.val = false ∧ s.links[d].ver ≠ 0 ∧
        (s.links[d].state = 2 ∨ s.links[d].state = 3 ∨ s.links[d].state = 1 ∧ o.trained.getLsbD d.val = true)
      t.stage = 4 ∧ t.fail = fail ∧ t.node = s.node ∧ t.master = s.node &&& ~~~t.trained ∧
      (∀ d : Fin 14, (t.trained.getLsbD d.val = true ↔ up d) ∧ (up d → (t.link d).state = 2 ∨ (t.link d).state = 3) ∧
        (¬up d → (t.link d).state = if dead.getLsbD d.val then 4 else 0) ∧
        ((t.link d).detv = true → t.trained.getLsbD (t.link d).dete.toNat = true ∧ (t.link d).dete.toNat ≠ d.val)) ∧
      ((∀ d : Fin 14, ∀ f ∈ s.links[d].replay, f.bad = false) →
        t = { s with stage := t.stage, fail := t.fail, links := t.links, trained := t.trained, master := t.master, outbox := t.outbox }))

/-- R274, R275, R388 (that firmware and images are kept outside, what the registers hold without power and that memory is then zero is
the model's choice, logs 52, 2, 3): power-good starts stage 1; a loss of power leaves a machine without power, as at reset but for the lasers'
HOURS and TREND and whether their event has come, the stored images and firmware, and the die's place; an update of the firmware
keeps its digest for the next start. -/
def Claims.PowerComesAndGoes : Prop := ∀ s : State,
  (s.powered = false → exec .powerGood s = .next { s with powered := true, stage := 1 }) ∧
  (Runs .powerLoss s fun t => t.powered = false ∧ t.keys = [] ∧ (∀ a, t.byte a = 0) ∧ t.stream = State.reset.stream ∧
    t.holder = none ∧ t.parts = State.reset.parts ∧ t.stage = 1 ∧ t.fail = 0 ∧ t.alarm = 0 ∧ t.fw = s.fw ∧ t.images = s.images ∧
    t.node = s.node ∧
    ∀ k : Fin 72, t.lasers[k].hours = s.lasers[k].hours ∧ t.lasers[k].trend = s.lasers[k].trend ∧
      t.lasers[k].raised = s.lasers[k].raised) ∧
  (∀ d, s.powered = true → exec (.firmwareUpdateService d) s = .next { s with fw := d })

/-- R97, R98, R120, R390, R391 (when the load ends, what a line under a changed key reads as, and the digests of 4 to 6 are the model's
choice, logs 18, 51, 85, 92): in a secured session LOADKEY of a slot other than 0 begins to load it, else it is refused; it ends,
once no extent of a dispatched task and no pinned page names the slot, with the slot's lines written back and gone and its key and
owner changed, no other slot's: what home memory holds under the slot reads from then on as the new key deciphers it, every other
byte as before, where no line of the slot came in under a wrong one. SPDM requests answer, the measurements 1 to 3 with the digests of
the firmware, 4 to 6 with a digest of the slab map, the versions and the slots' owners, and open and close the session. -/
def Claims.KeysAreLoadedInASession : Prop := ∀ s : State,
  let whole := fun k : KeySlot => Cells.wf s.lineKeys = true ∧ ∀ l ∈ s.stash, l.key = k.slot.val → l.dirty = true ∨ l.image = []
  (∀ o : LoadkeyMsg, s.powered = true → s.alarm = 0 → s.loading = none →
    (s.session = true ∧ o.slot.val ≠ 0 → exec (.loadkey o) s = .next { s with loading := some ⟨o.slot, o.tenant, o.key⟩ }) ∧
    (s.session = false ∨ o.slot.val = 0 → exec (.loadkey o) s = .next { s with outbox := .keyLoaded o.slot false :: s.outbox })) ∧
  (∀ k : KeySlot, s.loading = some k → 3 ≤ s.stage.val →
    (∀ p t, s.taskOf p = some t → ∀ x ∈ t.extents, x.key ≠ k.slot.val) →
    (∀ p, ∀ va ∈ s.pinned p, s.vkey p va true false ≠ some k.slot.val) →
    Runs .loadkeyComplete s fun t => t.loading = none ∧
      (∀ x, x ∈ t.keys ↔ (x = k ∧ k.key ≠ 0) ∨ (x ∈ s.keys ∧ x.slot ≠ k.slot)) ∧
      (t.stash.map fun l => (l.line, l.key, l.dirty, l.owners)) =
        (s.stash.filter fun l => l.key != k.slot.val).map (fun l => (l.line, l.key, l.dirty, l.owners)) ∧
      (whole k → ∀ a, s.slotKey k.slot.val = k.key ∨ t.lineSlot (a / 128) ≠ k.slot.val → t.byte a = s.byte a) ∧
      (whole k → s.slotKey k.slot.val ≠ k.key → k.slot.val ≠ 0 → ∀ n, t.lineSlot n = k.slot.val →
        (∀ l ∈ t.stash, l.line ≠ n) → t.lineBytes n = openBytes k.key n (sealBytes (s.slotKey k.slot.val) n (s.lineBytes n))) ∧
      t = { s with loading := none, keys := t.keys, stash := t.stash, mem := t.mem, lineKeys := t.lineKeys,
                   outbox := .keyLoaded k.slot true :: s.outbox }) ∧
  (s.powered = true →
    (∀ (n : Nat) (d : BitVec 512), 1 ≤ n → n ≤ 3 → s.digests[n - 1]? = some d → exec (.spdmRequest (.measurement n)) s =
      .next { s with free := s.free + 1, outbox := .spdm [d] :: s.outbox }) ∧
    (∀ (n : Nat) (l : List Nat), n = 4 ∧ l = s.slabMap.flatMap (fun m => [m.1, m.2]) ∨ n = 5 ∧ l = List.replicate 6 0x0100 ∨
      n = 6 ∧ l = (List.range 1023).map (fun k => ((s.keys.find? fun x => x.slot.val == k + 1).map fun x => x.tenant.toNat + 1).getD 0) →
      exec (.spdmRequest (.measurement n)) s = .next { s with free := s.free + 1, outbox := .spdm [Config.measure n l] :: s.outbox }) ∧
    (Runs (.spdmRequest .openSession) s fun t => ∃ a, t = { s with free := s.free + 1, session := true, outbox := .spdm a :: s.outbox }) ∧
    (Runs (.spdmRequest .closeSession) s fun t => ∃ a, t = { s with free := s.free + 1, session := false, outbox := .spdm a :: s.outbox }) ∧
    (Runs (.spdmRequest .certificate) s fun t => ∃ a, t = { s with free := s.free + 1, outbox := .spdm a :: s.outbox }))

/-- Start-up stages, power, keys and SPDM (R17, R22, R277, R284, R285, R388, R389, R274, R275, R97, R98, R120, R390, R391):
the claims above together. -/
def Obligations.StartUpPowerAndKeys : Prop :=
  Claims.StartUpStagesAdvance ∧ Claims.PowerComesAndGoes ∧ Claims.KeysAreLoadedInASession

/-- R393, R394, R397 (that home memory is lost with its keys is log 52): an alarm of a higher level is taken, a lower one changes nothing; the running command ends with ALARM and
the mailbox is told; level 3 leaves no key, no line of the stash, zero plates and no saved context; the thermal trip is level
2; the thermal cap comes and goes. -/
def Obligations.AlarmsRiseAndNeverFall : Prop := ∀ s : State,
  (∀ level : Fin 4, level ≤ s.alarm → exec (.alarmTrigger level) s = .next s) ∧
  (∀ level : Fin 4, s.alarm < level → Runs (.alarmTrigger level) s fun t => t.alarm = level ∧ t.mbxRun = none ∧ t.loading = none ∧
    (∀ r, s.mbxRun = some r → t.mbxBusy = false ∧ t.mbxResult = 5 ∧ t.mbxTag = r.tag) ∧
    (∀ k, s.loading = some k → ∀ x ∈ t.keys, x.slot ≠ k.slot) ∧
    (s.mbxEvents.length < 256 → t.mbxEvents = s.mbxEvents ++ [⟨9, s.dieNo, BitVec.ofNat 32 level.val⟩]) ∧
    (level = 3 → t.keys = [] ∧ t.stash = [] ∧ (∀ c, t.plates.get c = 0) ∧ ∀ p : Fin 4, t.shadow[p] = none) ∧
    (level ≠ 3 → (s.loading = none → t.mem = s.mem ∧ t.stash = s.stash) ∧ t.plates = s.plates ∧ t.stream = s.stream ∧
      t.shadow = s.shadow)) ∧
  exec .thermalTrip s = exec (.alarmTrigger 2) s ∧
  exec .thermalCap s = .next { s with cap := true } ∧ exec .thermalCapRelease s = .next { s with cap := false }

/-- R385, R387, R392, R395, R398: a mailbox command written while none runs sets BUSY and keeps its outcome: BADSTAGE outside its
stages, else what its row of R387 says (BADCMD for code 0 too, and BADARG where no image is kept, are the model's choice, logs 49, 48); one
written while BUSY sets OVERRUN and does nothing else. -/
def Claims.MailboxCommandsStart : Prop := ∀ (s : State) (tag : BitVec 16), s.powered = true → s.alarm = 0 → s.fail ≠ 1 →
  let arg := fun k : Fin 4 => s.mbxArgs[k].toNat
  let starts := fun (i : Instr) (code lo hi : Nat) (res : State → Nat → List DWord → Prop) =>
    (s.mbxBusy = true → exec i s = .next { s with mbxOverrun := true }) ∧
    (s.mbxBusy = false → Runs i s fun t => ∃ r l, t.mbxRun = some ⟨BitVec.ofNat 16 code, tag, s.mbxArgs, r, l⟩ ∧ t.mbxBusy = true ∧
      t.mbxCmd = BitVec.ofNat 32 (code + tag.toNat * 65536) ∧ t.mem = s.mem ∧ t.stage = s.stage ∧
      (s.stage.val < lo ∨ hi < s.stage.val → r = 2 ∧ l = []) ∧ (lo ≤ s.stage.val → s.stage.val ≤ hi → res t r l))
  starts (.versions tag) 1 1 4 (fun _ r l => r = 0 ∧ l = [0x0100_0100_0100_0100#64, 0x0100_0100#64]) ∧
  starts (.settime tag) 2 3 4 (fun t r _ => (s.node ≠ s.master → r = 3 ∧ t.gtime = s.gtime ∧ t.slew = s.slew) ∧
    (s.node = s.master → r = 0 ∧ (s.stage = 3 → t.gtime = s.mbxArgs[0]) ∧
      (s.stage = 4 → t.gtime = s.gtime ∧ t.slew = (arg 0 : Int) - s.gtime.toNat))) ∧
  starts (.readreg tag) 3 2 4 (fun _ r l => (regAddr (arg 1) = none ∨ 16 ≤ arg 0 → r = 3 ∧ l = []) ∧
    ∀ x, regAddr (arg 1) = some x → arg 0 = s.dieNo.toNat → r = 0 ∧ l = [s.readReg x]) ∧
  starts (.writereg tag) 4 2 4 (fun t r _ => (regAddr (arg 1) = none ∨ 16 ≤ arg 0 → r = 3 ∧ t.bucketCfg = s.bucketCfg) ∧
    ∀ x, regAddr (arg 1) = some x → arg 0 = s.dieNo.toNat → r = 0 ∧ t.trapRecord = s.trapRecord ∧
      ∀ c, x = .config c → t.bucketCfg[c] = s.mbxArgs[2] &&& 0x0000_FFFF_FFFF_FFFF#64) ∧
  (arg 1 ≠ 1 → starts (.chkptSave tag) 5 4 4 fun t r _ => r = (if arg 1 = 0 then 0 else 3) ∧ t.chkptHold = (s.chkptHold || arg 1 == 0)) ∧
  (arg 1 = 1 → starts (.chkptRestore tag) 5 4 4 fun t r _ => ((∀ i ∈ s.images, i.base ≠ s.mbxArgs[0]) → r = 3) ∧
    ∀ (b l : List CheckpointImage) (i : CheckpointImage), s.images = b ++ i :: l → i.base = s.mbxArgs[0] →
      (∀ j ∈ b, j.base ≠ s.mbxArgs[0]) → (i.headerOk = true → r = 0 ∧ t.chkptHold = true) ∧
      (i.headerOk = false → r = 3 ∧ t.chkptHold = s.chkptHold)) ∧
  starts (.resume tag) 6 4 4 (fun t r _ => r = 0 ∧ t.chkptHold = false) ∧
  starts (.retry tag) 7 4 4 (fun t r _ => (4 ≤ arg 1 ∨ 16 ≤ arg 0 → r = 3) ∧ ∀ p : Fin 4, arg 1 = p.val → arg 0 = s.dieNo.toNat →
    ((s.pt p).disp = .held → r = 0 ∧ (t.pt p).disp = .translate) ∧ ((s.pt p).disp ≠ .held → r = 3 ∧ t.parts = s.parts)) ∧
  (∀ c : BitVec 16, c = 0 ∨ 8 ≤ c.toNat → c.toNat < 256 → starts (.undefinedCommand ⟨tag, c⟩) c.toNat 1 4 fun _ r l => r = 1 ∧ l = []) ∧
  (∀ c : BitVec 16, 256 ≤ c.toNat → starts (.firmwareCommand ⟨tag, c⟩) c.toNat 1 4 fun _ r l => r < 256 ∧ l.length = 4)

/-- R385, R395, R396: a command completes with BUSY cleared, RESULT and TAG written and its results in MBXARG; a checkpoint does so
once every partition has parked: a save when every dirty line has been written back and the image holds home memory as ciphertext,
the plates, the staged lines and the owners of the slots, by the arguments with which it was accepted; a restore, whose header it
checks, when the image's plates, keys, owners and lines have come back (what an image is made of is the model's choice, logs 48, 91). Reading MBXEVT answers the oldest
event with LOST, removes it and clears LOST. -/
def Claims.MailboxCommandsComplete : Prop := ∀ s : State,
  (∀ r, s.mbxRun = some r → ¬(r.code = 5 ∧ r.result = 0) → Runs .commandComplete s fun t =>
    t.mbxBusy = false ∧ t.mbxRun = none ∧ t.mbxResult = BitVec.ofNat 8 r.result ∧ t.mbxTag = r.tag ∧
    (∀ k : Fin 4, t.mbxArgs[k] = r.args.getD k.val s.mbxArgs[k]) ∧
    t = { s with mbxBusy := false, mbxRun := none, mbxResult := t.mbxResult, mbxTag := t.mbxTag, mbxArgs := t.mbxArgs }) ∧
  (∀ r, s.mbxRun = some r → r.code = 5 → r.result = 0 → r.given[1] = 0 → s.holder = none → (∀ p, (s.pt p).disp ≠ .ending) →
    Runs .commandComplete s fun t => t.mbxBusy = false ∧ t.mbxResult = 0 ∧ t.mem = s.mem ∧ t.plates = s.plates ∧
      (∀ l ∈ t.stash, l.dirty = false) ∧ t.staged = s.staged ∧ ∃ i ∈ t.images, i.base = r.given[0] ∧ i.headerOk = true ∧
        i.owners = (s.keys.filter fun k => k.slot.val != 0).map (fun k => (k.slot, k.tenant)) ∧ i.home = t.listedLines.map (fun k => (k, t.cipherLine k)) ∧ i.under = t.lineKeys ∧ i.plates = s.plates ∧
        i.staged = s.staged.map t.stagedImage) ∧
  (∀ (r : MbxRun) (b l : List CheckpointImage) (i : CheckpointImage), s.mbxRun = some r → r.code = 5 → r.result = 0 →
    r.given[1] = 1 → s.holder = none → (∀ p, (s.pt p).disp ≠ .ending) → s.images = b ++ i :: l → i.base = r.given[0] →
    i.headerOk = true → (∀ j ∈ b, j.base ≠ r.given[0]) → Runs .commandComplete s fun t => t.mbxBusy = false ∧ t.mbxResult = 0 ∧ t.stash = [] ∧
      t.plates = i.plates ∧ t.lineKeys = i.under ∧
      (∀ k, k ∈ t.keys ↔ k = ⟨0, 0, i.key0⟩ ∨ ∃ x ∈ s.keys, x.slot.val ≠ 0 ∧
        k = { x with tenant := ((i.owners.find? fun o => o.1 == x.slot).map (·.2)).getD x.tenant }) ∧
      (∀ n, (∀ x ∈ i.home, x.1 ≠ n) → ∀ j, j < 128 → t.byte (n * 128 + j) = 0) ∧
      (∀ n c, i.home = [(n, c)] → c.length = 128 → t.lineBytes n = openBytes (t.slotKey (t.lineSlot n)) n c)) ∧
  (s.powered = true → s.alarm = 0 → s.fail ≠ 1 → Runs .mbxevtRead s fun t => ∃ v : DWord,
    (∀ e l, s.mbxEvents = e :: l → v = e.detail ++ s.mbxLost ++ e.die ++ e.event) ∧ (s.mbxEvents = [] → bits v.toNat 0 16 = 0) ∧
    t = { s with mbxEvents := s.mbxEvents.drop 1, mbxLost := 0, outbox := .mbxEvent v :: s.outbox })

/-- R6, R7, R276, R375, R385: a write of a register reaches its writable fields alone: an argument, the OVERRUN bit, which a one
clears, the laser threshold, a bucket class's configuration, and a link's detour entry. -/
def Claims.RegisterWritesReachTheirFields : Prop := ∀ (s : State) (v : BitVec 64), s.powered = true → s.alarm = 0 → s.fail ≠ 1 →
  (∀ k : Fin 4, exec (.registerWrite ⟨.bar0, 8 + 8 * k.val, v⟩) s = .next { s with mbxArgs := s.mbxArgs.set k v }) ∧
  exec (.registerWrite ⟨.bar0, 0x28, v⟩) s = .next { s with mbxOverrun := s.mbxOverrun && !v.getLsbD 1 } ∧
  (∀ sp, exec (.registerWrite ⟨sp, 0x14000, v⟩) s = .next { s with eolthr := v.truncate 16 }) ∧
  (∀ c : Fin 4, exec (.registerWrite ⟨.regulator, 0x20000 + 8 * c.val, v⟩) s =
    .next { s with bucketCfg := s.bucketCfg.set c (v &&& 0x0000_FFFF_FFFF_FFFF#64) }) ∧
  (∀ d : Fin 14, let e := v.extractLsb' 4 4
    let writes := Runs (.registerWrite ⟨.regulator, 0x8000 + 0x100 * (s.dieNo.toNat % 4) + 0x10 * d.val, v⟩) s
    let entry := fun t : State => (t.link d).detv = v.getLsbD 3 ∧ (t.link d).dete = e ∧ (t.link d).state = (s.link d).state
    ((s.link d).state ≠ 4 → (s.link d).deton = false → writes fun t => entry t ∧
      (∀ k, k ≠ d.val → { t.link k with noPathSince := none } = { s.link k with noPathSince := none }) ∧
      t = { s with links := t.links }) ∧
    ((s.link d).state = 4 → (s.link d).lost = false → v.getLsbD 3 = true → e.toNat ≠ d.val → (s.link e.toNat).up = true →
      writes fun t => entry t ∧ (t.link d).deton = true ∧ (t.link d).fenceNo = (s.link d).fenceNo + 1))

/-- R6, R7, R274, R276, R382, R385: a read of BAR0 gives each register's fields in its bits and zero in the reserved ones; MBXCMD,
which is write-only, and an address without a register read zero (that a read other than of MBXEVT is no
instruction but this function is the model's form, log 84). -/
def Claims.RegisterReadsGiveTheirFields : Prop := ∀ s : State,
  let at' := fun (a : Nat) (lo n : Nat) => bits (s.bar0 a).toNat lo n
  (∀ a, a % 8 ≠ 0 ∨ a = 0 ∨ (0x38 ≤ a ∧ a < 0x8000) ∨ (0x8400 ≤ a ∧ a < 0x10000) ∨ (0x12000 ≤ a ∧ a ≠ 0x14000) ∨
      (∃ o, a = 0x8000 + 0x100 * (s.dieNo.toNat % 4) + o ∧ 0xE0 ≤ o ∧ o < 0x100) ∨
      (∃ o, a = 0x10000 + 0x800 * (s.dieNo.toNat % 4) + o ∧ o < 0x800 ∧ 0x90 ≤ o % 0x100) → s.bar0 a = 0) ∧ (∀ k : Fin 4, s.bar0 (8 + 8 * k.val) = s.mbxArgs[k]) ∧
  at' 0x28 0 1 = s.mbxBusy.toNat ∧ at' 0x28 1 1 = s.mbxOverrun.toNat ∧ at' 0x28 2 6 = 0 ∧ at' 0x28 8 8 = s.mbxResult.toNat ∧
  at' 0x28 16 16 = s.mbxTag.toNat ∧ at' 0x28 32 3 = s.stage.val ∧ at' 0x28 35 8 = s.fail.toNat ∧ at' 0x28 43 21 = 0 ∧
  at' 0x14000 0 16 = s.eolthr.toNat ∧ at' 0x14000 16 48 = 0 ∧
  (∀ d : Fin 14, let a := 0x8000 + 0x100 * (s.dieNo.toNat % 4) + 0x10 * d.val
    let l := s.link d
    at' a 0 3 = l.state.val ∧ at' a 3 1 = l.detv.toNat ∧ at' a 4 4 = l.dete.toNat ∧ at' a 8 1 = l.deton.toNat ∧ at' a 9 7 = 0 ∧
    at' a 16 16 = l.ver.toNat ∧ at' a 32 16 = l.retrain.toNat ∧ at' a 48 16 = l.proto.toNat ∧
    at' (a + 8) 0 32 = l.replays.toNat ∧ at' (a + 8) 32 32 = l.fecfix.toNat) ∧
  (∀ (d : Fin 8) (w : Fin 9), let a := 0x10000 + 0x800 * (s.dieNo.toNat % 4) + 0x100 * d.val + 0x10 * w.val
    let x := s.laser (6 + d.val) w.val
    at' a 0 16 = x.bias.toNat ∧ at' a 16 16 = x.power.toNat ∧ at' a 32 16 = x.trend.toNat ∧ at' a 48 3 = x.state.val ∧
    at' a 51 13 = 0 ∧ at' (a + 8) 0 32 = x.hours.toNat ∧ at' (a + 8) 32 32 = x.eol.toNat)

/-- Mailbox commands and register writes (R385, R387, R392, R395, R398, R396, R6, R7, R276, R375, R274, R382): the claims
above together. -/
def Obligations.MailboxCommandsRun : Prop :=
  Claims.MailboxCommandsStart ∧ Claims.MailboxCommandsComplete ∧ Claims.RegisterWritesReachTheirFields ∧
    Claims.RegisterReadsGiveTheirFields

/-- R123, R174, R180, R270, R279, R294, R308, R333: a flit that comes in order gives its place in the lane back, at once (log 19), and
does its one thing on the die: a chunk joins the arrivals of its job's partition, source bytes join the posted packet that asked for them, a token or a rendezvous flit adds one
to its count, the outcome of a posting and the retirement of a posted packet reach the packet they answer, a READY waits in the
table or is dropped and reported where no partition has its job. -/
def Claims.FlitsReachTheirEngines : Prop := ∀ (s : State) (h : FlitHdr) (p : PartNo) (job : Word),
  let c := s.credited h.link
  let onPart := fun f : Partition → Partition => { c with parts := c.parts.set p (f c.parts[p]) }
  s.partOfJob job = some p →
  (InOrder s h 1 → ∀ k : Chunk, k.job = job →
    exec (.dataFlit ⟨h, .chunk k⟩) s = .next (onPart fun t => { t with arrivals := t.arrivals ++ [k] })) ∧
  (InOrder s h 1 → ∀ (ch : Fin 8) (bytes : List Byte) (bad : List Nat) (b r : List RingNote) (n : RingNote),
    let lacks := fun x : RingNote => (((s.queue p ch).active.find? fun y => y.idx == x.idx && y.stage == .pulling).map
      (·.pkt.length)).getD 0 - x.data.length
    let asks := fun x : RingNote => x.origin = .posted ∧ x.dim = h.dim.val ∧ 0 < lacks x
    (s.queue p ch).notes = b ++ n :: r → (∀ x ∈ b, ¬asks x) → asks n → Runs (.dataFlit ⟨h, .copyBytes job ch bytes bad⟩) s fun t =>
      (t.queue p ch).notes = b ++ { n with data := n.data ++ bytes.take (lacks n), bad := n.bad ++ bad.map (n.data.length + ·) } :: r ∧
      t.mem = s.mem ∧ t.links = c.links) ∧
  (InOrder s h 2 → ∀ (seq : Nat) (isTick : Bool) (sc : Scope), Runs (.barrierToken ⟨h, job, seq, isTick, sc⟩) s fun t =>
    (∀ i o d q, (t.pt p).tokenCount i o d q = (s.pt p).tokenCount i o d q + if (i, o, d, q) = (isTick, sc, h.dim.val, seq) then 1 else 0) ∧
    t = onPart fun x => { x with tokens := (t.pt p).tokens }) ∧
  (InOrder s h 2 → ∀ seq : Nat, Runs (.rendezvousFlit ⟨h, job, seq⟩) s fun t =>
    (∀ d q, (t.pt p).rdzCount d q = (s.pt p).rdzCount d q + if (d, q) = (h.dim.val, seq) then 1 else 0) ∧
    t = onPart fun x => { x with rdz := (t.pt p).rdz }) ∧
  (InOrder s h 2 → ∀ (ch : Fin 8) (ok : Bool) (b r : List IssuedPacket) (x : IssuedPacket),
    let waits := fun x : IssuedPacket => x.posting = .waiting ∧ s.postDim p x.pkt = h.dim.val
    (s.queue p ch).issued = b ++ x :: r → (∀ y ∈ b, ¬waits y) → waits x → Runs (.ctrlFlit ⟨h, .postResult job ch ok⟩) s fun t =>
      (t.queue p ch).issued = b ++ { x with posting := if ok then .ok else .failed } :: r ∧ t.mem = s.mem ∧ t.links = c.links) ∧
  (InOrder s h 2 → ∀ (ch : Fin 8) (st : DWord) (b r : List RingNote) (n : RingNote),
    let waits := fun x : RingNote => x.proxy = true ∧ x.failed = false ∧ x.report = none ∧ x.dim = h.dim.val
    (s.queue p ch).notes = b ++ n :: r → (∀ x ∈ b, ¬waits x) → waits n → Runs (.ctrlFlit ⟨h, .proxyRetire job ch st⟩) s fun t =>
      (t.queue p ch).notes = b ++ { n with report := some st } :: r ∧ t.mem = s.mem ∧ t.links = c.links) ∧
  (InOrder s h 2 → ∀ (ch : Fin 8) (st : DWord) (b r : List IssuedPacket) (x : IssuedPacket),
    let waits := fun x : IssuedPacket => x.posting = .ok ∧ x.report = none ∧ s.postDim p x.pkt = h.dim.val
    (∀ n ∈ (s.queue p ch).notes, n.proxy = true → n.failed = false → n.report = none → n.dim ≠ h.dim.val) →
    (s.queue p ch).issued = b ++ x :: r → (∀ y ∈ b, ¬waits y) → waits x → Runs (.ctrlFlit ⟨h, .proxyRetire job ch st⟩) s fun t =>
      (t.queue p ch).issued = b ++ { x with report := some st } :: r ∧ t.mem = s.mem ∧ t.links = c.links) ∧
  (InOrder s h 2 → ∀ r : Ready, r.job = job → (∀ task, s.taskOf p = some task → task.seq ≤ r.seq) → (s.pt p).pairing.length < 64 →
    (∀ (k : Fin 4) (x : XOp), (s.pt p).xslots[k] = some x → ∀ y ∈ (s.pt p).pairing ++ [r], x.awaits y = false) →
    exec (.readyFlit ⟨h, r⟩) s = .next (onPart fun t => { t with pairing := t.pairing ++ [r] })) ∧
  (InOrder s h 2 → ∀ r : Ready, s.partOfJob r.job = none → s.mbxEvents.length < 256 → Runs (.readyFlit ⟨h, r⟩) s fun t =>
    t.mbxEvents = s.mbxEvents ++ [⟨0xD, s.dieNo, r.job⟩] ∧ t.parts = s.parts)

/-- R291, R294, R308: a READY that answers the waiting operation of a slot on both its sides, with no other READY held and
no other slot busy, matches it if its signature is the operation's own; else the operation is mismatched and moves nothing. -/
def Claims.ReadyFlitsMatchOperations : Prop := ∀ (s : State) (h : FlitHdr) (r : Ready) (p : PartNo) (k : Fin 4) (x : XOp) (a b : XPair),
  InOrder s h 2 → s.partOfJob r.job = some p → (∀ task, s.taskOf p = some task → task.seq ≤ r.seq) → (s.pt p).pairing = [] →
  (s.pt p).xslots[k] = some x → (∀ j, j ≠ k → (s.pt p).xslots[j] = none) → x.sendTo = some a → x.recvFrom = some b →
  a.state = .awaited → b.state = .awaited → a.node = r.src → b.node = r.src → (r.ctr, r.num, r.seq) = (x.ctr, x.num, x.seq) →
  let st : PairState := if x.sig = r.sig then .matched else .mismatched
  Runs (.readyFlit ⟨h, r⟩) s fun t => (t.pt p).pairing = [] ∧ t.mem = s.mem ∧ t.plates = s.plates ∧
    (t.pt p).xslots[k] = some { x with
      sendTo := some { a with state := st }, recvFrom := some { b with state := st }
      toSend := if x.sig = r.sig then x.toSend else []
      toRecv := if x.sig = r.sig then x.toRecv else [] }

/-- R123, R333: a posting that finds room takes the next slot and is answered; without a partition of its job it is answered NOPART; a
fan-out copy without one is dropped and reported, without room it waits; the sender's die answers a pull with the source bytes of its
own copy path, 256 to a flit (that it names physical ranges is the model's choice, log 34). -/
def Claims.PostingsAndCopiesArrive : Prop := ∀ (s : State) (h : FlitHdr), InOrder s h 2 → ∀ (job : Word) (ch : Fin 8),
  (∀ (k : Packet) (src : List (Nat × Nat)) (p : PartNo) (v : QueueView), s.partOfJob job = some p → s.copyView p ch = some v →
    v.wr < v.done + v.size → (s.queue p ch).posted = [] → Runs (.postedPacket ⟨h, job, ch, k, src⟩) s fun t =>
      (t.queue p ch).notes = (s.queue p ch).notes ++ [RingNote.mk v.wr .posted (validPacket .posted k) false false
        none false job h.dim.val src [] []] ∧
      Sends h.dim.val (.postResult job ch true) (s.counted h.link) t) ∧
  (∀ (k : Packet) (src : List (Nat × Nat)), s.partOfJob job = none → Runs (.postedPacket ⟨h, job, ch, k, src⟩) s fun t =>
    Sends h.dim.val (.postResult job ch false) (s.counted h.link) t ∧ LinksOnly s t) ∧
  (∀ (k : Packet) (src : List (Nat × Nat)) (p : PartNo) (v : QueueView), s.partOfJob job = some p → s.copyView p ch = some v →
    v.done + v.size ≤ v.wr → Runs (.postedPacket ⟨h, job, ch, k, src⟩) s fun t =>
      (t.queue p ch).posted = (s.queue p ch).posted ++ [⟨k, job, h.dim.val, src⟩] ∧ t.mem = s.mem) ∧
  (∀ e : List DWord, s.partOfJob job = none → s.mbxEvents.length < 256 → Runs (.ctrlFlit ⟨h, .fanout e job⟩) s fun t =>
    t.mbxEvents = s.mbxEvents ++ [⟨6, s.dieNo, job⟩] ∧ t.parts = s.parts ∧ t.mem = s.mem) ∧
  (∀ (e : List DWord) (p : PartNo) (v : QueueView), s.partOfJob job = some p → s.taskView p = some v → v.done + v.size ≤ v.wr →
    Runs (.ctrlFlit ⟨h, .fanout e job⟩) s fun t => (t.pt p).tqPosted = (s.pt p).tqPosted ++ [e] ∧ t.mem = s.mem) ∧
  (∀ (ranges : List (Nat × Nat)) (p : PartNo), s.partOfJob job = some p → Runs (.ctrlFlit ⟨h, .readRequest job ch ranges⟩) s fun t =>
    let l := ranges.flatMap fun r => (List.range r.2).map (r.1 + ·)
    let toGo := fun u : State => (u.link h.dim.val).replay.map (·.cargo) ++ (u.link h.dim.val).held
    toGo t = toGo s ++ ((List.range ((l.length + 255) / 256)).map fun k => let q := (l.drop (256 * k)).take 256
      .readData job ch (q.map fun a => (s.asQueue p ch).seen (some p) .cp a) ((List.range q.length).filter fun j => s.poisoned (q.getD j 0))) ∧
    BytesBecome noKey [] s t)

/-- R180: a release of the package line adds one to the releases of its task. -/
def Claims.PackageLineReleasesCount : Prop := ∀ (o : PackRelease) (s : State) (p : PartNo), s.partOfJob o.job = some p →
  Runs (.packageLineRelease o) s fun t =>
    (∀ q, releasesOf (t.pt p).tickReleases q = releasesOf (s.pt p).tickReleases q + if o.isTick = true ∧ q = o.seq then 1 else 0) ∧
    (∀ q, releasesOf (t.pt p).syncReleases q = releasesOf (s.pt p).syncReleases q + if o.isTick = false ∧ q = o.seq then 1 else 0) ∧
    t = { s with parts := s.parts.set p { s.pt p with
      tickReleases := (t.pt p).tickReleases, syncReleases := (t.pt p).syncReleases } }

/-- What each flit does where it arrives (R123, R174, R180, R270, R279, R294, R308, R333, R291): the claims above together. -/
def Obligations.FlitsReachTheirEngines : Prop :=
  Claims.FlitsReachTheirEngines ∧ Claims.ReadyFlitsMatchOperations ∧ Claims.PostingsAndCopiesArrive ∧
    Claims.PackageLineReleasesCount

/-- R269-R272, R279, R283: a flit whose header is sound acknowledges what its LACK reaches in the hop; a flit after a gap is answered
by a NAK, one that has come before by the acknowledgement again, and neither is delivered; one that fails its check is answered by a
NAK; a CREDIT adds its credits to its lane, and a flit that waited for one leaves; a NAK has every flit of the hop resent, and after
eight replays of one the link is retrained; an uncorrectable DATA or CTRL flit of this die among them aborts the current task and
retrains the link, and so does the receiver's task where a flit that stands for it comes; a reserved type or field counts as a
protocol error. (What a flit without its contents is sent as, a VALID above 256 counted as a protocol error, the first numbers, the
acknowledgements and the credit at once, and TRAIN at a retraining are the model's choice, logs 42, 76, 40, 41, 19, 44.) -/
def Claims.LinksAcknowledgeAndReplay : Prop := ∀ (s : State) (h : FlitHdr),
  let d := h.link.val
  let l := s.link d
  let sound := h.rsv = 0 ∧ h.valid ≤ 256
  let newer := ∀ x ∈ l.hop, ahead h.lack x.1 < 0
  let whole := ∀ x ∈ l.hop, x.2.2.bad = false
  let aborts := fun t : State => t.stream.status = .aborting ∧ t.stream.abort = some .uncorr
  (h.ftype = 0 → sound → h.cargo ≠ BitVec.allOnes 64 → h.cargo ≠ BitVec.allOnes 64 - 1 → l.held = [] → Runs (.idleFlit h) s fun t =>
    (t.link d).hop = l.hop.filter (fun x => decide (ahead h.lack x.1 < 0)) ∧
    (t.link d).lseqIn = l.lseqIn ∧ (t.link d).pseqIn = l.pseqIn ∧ SameOthers d s t ∧ t.outbox = s.outbox) ∧
  (InOrder s h 0 → h.cargo = BitVec.allOnes 64 → s.holder ≠ none → s.stream.status = .running → Runs (.idleFlit h) s fun t =>
    aborts t ∧ (t.link d).lseqIn = l.lseqIn + 1 ∧ (t.link d).pseqIn = l.pseqIn + 1) ∧
  (InOrder s h 0 → h.cargo = BitVec.allOnes 64 - 1 → exec (.idleFlit h) s = .next (s.credited h.link)) ∧
  (h.ftype = 1 → sound → h.lane = 0 → h.dim.val = d → h.dst = s.node → h.src = s.node ^^^ BitVec.ofNat 14 (2 ^ d) → newer → ∀ cargo,
    (1 < ahead h.lseq l.lseqIn → exec (.dataFlit ⟨h, cargo⟩) s = .next (s.sendBare d .nak)) ∧
    (ahead h.lseq l.lseqIn < 1 → exec (.dataFlit ⟨h, cargo⟩) s = .next (s.sendBare d .idle)) ∧
    (ahead h.lseq l.lseqIn = 1 → ahead h.pseq l.pseqIn ≠ 1 → l.state ≠ 1 →
      exec (.dataFlit ⟨h, cargo⟩) s = .next ((s.setLink d { l with lseqIn := l.lseqIn + 1 }).sendBare d (.credit 0 1)))) ∧
  (∀ e : DimNo, ((s.link e.val).up = true → Runs (.flitFecCrcFailure e) s fun t => ∃ f : Flit,
      t = { s with outbox := .flit e.val f :: s.outbox } ∧ f.ftype = 3 ∧ f.what = .nak ∧ f.lack = BitVec.ofNat 32 (s.link e.val).lseqIn ∧
      f.lseq = BitVec.ofNat 32 (s.link e.val).lseqOut) ∧
    ((s.link e.val).up = false → exec (.flitFecCrcFailure e) s = .next s)) ∧
  (h.ftype = 7 → sound → newer → ∀ (lane : Fin 4) (n : Nat),
    (l.waiting = [] → exec (.creditFlit ⟨h, lane, n⟩) s = .next (s.setLink d { l with credits := l.credits.set lane (l.credits[lane] + n) })) ∧
    (∀ f, l.waiting = [(lane, f)] → l.up = true → l.hop.length < (if d < 4 then 256 else 1024) → 0 < n →
      Runs (.creditFlit ⟨h, lane, n⟩) s fun t => (t.link d).waiting = [] ∧ (t.link d).credits[lane] = l.credits[lane] + n - 1 ∧
        (t.link d).hop = l.hop ++ [(l.lseqOut + 1, lane, f)] ∧ (t.link d).lseqOut = l.lseqOut + 1 ∧ SameOthers d s t)) ∧
  (h.ftype = 3 → sound → newer → l.hop ≠ [] → l.up = true → whole → (∀ x ∈ l.hop, l.triesOf x.1 < 8) →
    Runs (.nakFlit ⟨h⟩) s fun t => (∀ x ∈ l.hop, (t.link d).triesOf x.1 = l.triesOf x.1 + 1) ∧ (t.link d).hop = l.hop ∧ SameOthers d s t ∧
      (t.link d).replays = (if l.replays = BitVec.allOnes 32 then l.replays else l.replays + 1) ∧
      t.outbox = (l.hop.map fun x => OutMsg.flit d (s.flitOf d x)).reverse ++ s.outbox) ∧
  (h.ftype = 3 → sound → newer → (∃ x ∈ l.hop, 8 ≤ l.triesOf x.1) → l.up = true →
    Runs (.nakFlit ⟨h⟩) s fun t => (t.link d).state = 1 ∧ (t.link d).hop = l.hop ∧ SameOthers d s t) ∧
  (h.ftype = 3 → sound → newer → l.up = true → (∀ x ∈ l.hop, l.triesOf x.1 < 8) → (∃ x ∈ l.hop, x.2.2.harms = true ∧ x.2.2.isOwn = true) →
    s.holder ≠ none → s.stream.status = .running → Runs (.nakFlit ⟨h⟩) s fun t => aborts t ∧ (t.link d).state = 1 ∧
      ∀ x ∈ (t.link d).hop, x.2.2.bad = false) ∧
  (8 ≤ h.ftype.val ∨ h.rsv ≠ 0 ∨ 256 < h.valid → Runs (.idleFlit h) s fun t =>
    (t.link d).proto = (if l.proto = BitVec.allOnes 16 then l.proto else l.proto + 1) ∧ (t.link d).hop = l.hop ∧
    (t.link d).state = (if l.up then 1 else l.state) ∧ SameOthers d s t)

/-- R277-R281, R284: on an intermediate die a detoured flit goes on whole to its next lane, or waits for a credit there, and no
engine sees it; a FENCE for this die is answered end to end with its number; an end-to-end acknowledgement frees the pair's flits
and, of the fence of a return, lets the pair return; TRAIN of a link that is down settles version 1.0, or none (logs 41, 44). -/
def Claims.DetoursFencesAndTraining : Prop := ∀ s : State,
  let room := fun (d : Nat) (lane : Fin 4) => (s.link d).up = true ∧ (s.link d).waiting = [] ∧ 0 < (s.link d).credits[lane] ∧
    (s.link d).hop.length < (if d < 4 then 256 else 1024)
  (∀ (o : TransitFlit) (port : Nat) (lane : Fin 4), o.hdr.ftype.val < 8 → o.hdr.rsv = 0 → o.hdr.valid ≤ 256 →
    o.hdr.link.val ≠ port → port < 14 → (∀ x ∈ (s.link o.hdr.link.val).hop, ahead o.hdr.lack x.1 < 0) →
    ahead o.hdr.lseq (s.link o.hdr.link.val).lseqIn = 1 → s.nextHop o.hdr = some (port, lane) →
    let f : OutFlit := ⟨o.hdr.dim.val, o.hdr.pseq.toNat,
      .transit o.hdr.ftype o.hdr.src o.hdr.dst o.hdr.valid o.hdr.cargo o.payload, false⟩
    (room port lane → Runs (.detourForward o) s fun t =>
      (t.link o.hdr.link.val).lseqIn = (s.link o.hdr.link.val).lseqIn + 1 ∧ (t.link port).lseqOut = (s.link port).lseqOut + 1 ∧
      (t.link port).hop = (s.link port).hop ++ [((s.link port).lseqOut + 1, lane, f)] ∧ LinksOnly s t) ∧
    ((s.link port).up = true → (s.link port).waiting = [] → (s.link port).credits[lane] = 0 → Runs (.detourForward o) s fun t =>
      (t.link port).waiting = [(lane, f)] ∧ (t.link port).hop = (s.link port).hop ∧ LinksOnly s t)) ∧
  (∀ h : FlitHdr, InOrder s h 4 → (s.link h.link.val).deton = false → room h.link.val 0 → Runs (.fenceFlit h) s fun t =>
    (t.link h.link.val).lseqOut = (s.link h.link.val).lseqOut + 1 ∧ LinksOnly s t ∧
    ∃ n, (t.link h.link.val).hop = (s.link h.link.val).hop ++ [((s.link h.link.val).lseqOut + 1, 0, ⟨h.dim.val, n,
      .ack (s.link h.link.val).pseqIn (some h.cargo), false⟩)]) ∧
  (∀ o : AckMsg, InOrder s o.hdr 2 → let l := s.link o.hdr.link.val
    l.held = [] → l.state ≠ 1 → exec (.endToEndAck o) s = .next ((s.setLink o.hdr.link.val { l with
      lseqIn := l.lseqIn + 1
      replay := l.replay.filter (fun f => decide (ahead o.upTo f.pseq < 0))
      fenceAcked := l.fenceAcked || (l.returning && o.fence && o.hdr.cargo == BitVec.ofNat 64 l.fenceNo) }).sendBare
        o.hdr.link.val (.credit 0 1))) ∧
  (∀ o : TrainMsg, o.hdr.ftype = 6 → o.hdr.rsv = 0 → o.hdr.valid ≤ 256 → let l := s.link o.hdr.link.val
    (∀ x ∈ l.hop, ahead o.hdr.lack x.1 < 0) → l.state.val ≤ 1 →
    (o.lo ≤ 0x0100 → 0x0100 ≤ o.hi → exec (.trainFlit o) s = .next (s.setLink o.hdr.link.val { l with ver := 0x0100 })) ∧
    (0x0100 < o.lo ∨ o.hi < 0x0100 → s.mbxEvents.length < 256 → Runs (.trainFlit o) s fun t => (t.link o.hdr.link.val).state = 0 ∧
      (t.link o.hdr.link.val).ver = 0 ∧
      t.mbxEvents = s.mbxEvents ++ [⟨0xB, s.dieNo, BitVec.ofNat 32 (o.hdr.link.val + o.hi.toNat * 2 ^ 16)⟩]))

/-- Acknowledgement, replay, detours, fences and training (R269-R272, R279, R283, R277-R281, R284): the claims above together.
-/
def Obligations.LinksAcknowledgeReplayAndDetour : Prop :=
  Claims.LinksAcknowledgeAndReplay ∧ Claims.DetoursFencesAndTraining

/-- R272, R273, R277, R280-R282: a link that is up retrains, counting it; a retraining that succeeds brings it up, one that fails
and a link declared dead leave it dead with an empty hop, its pair's flits kept, and the pair on its detour behind a FENCE where it
has one; a pair whose return fence has been acknowledged leaves its detour; the first wavelength that fails gives way to the spare;
flits that have waited 10 ms without a path are due to be dropped, here or at the partner's end: the running EXCHANGE task is killed
with NOPATH, and the host is told (which detour is chosen, what a new entry does, and that resending counts as no replay are the model's
choice, logs 43, 94, 95; that the partner's end counts here, log 96). -/
def Claims.LinksRetrainDieAndReturn : Prop := ∀ (s : State) (d : DimNo),
  let l := s.link d.val
  let whole := (∀ f ∈ l.replay, f.bad = false) ∧ ∀ x ∈ l.hop, x.2.2.bad = false
  let counts := fun t : State => (t.link d.val).state = 1 ∧ (t.link d.val).retrain = (if l.retrain = BitVec.allOnes 16 then l.retrain else l.retrain + 1) ∧
    (t.link d.val).replay = l.replay ∧ (t.link d.val).hop = l.hop ∧ (∀ k, k ≠ d.val → t.link k = s.link k)
  let dies := fun i : Instr => i = .linkDead d ∧ l.state ≠ 4 ∨ i = .retrainComplete ⟨d, false⟩ ∧ l.state = 1
  (l.up = true → Runs (.linkRetrain d) s counts) ∧
  (l.state ≠ 1 → s.stage = 4 → Runs (.regulatorOrderedRetraining d) s fun t => counts t ∧
    (6 ≤ d.val → (t.laser d.val 8).state = 0 ∧ ∀ w, w < 8 → (t.laser d.val w).state ≠ 2)) ∧
  (l.state = 1 → l.deton = false → whole → Runs (.retrainComplete ⟨d, true⟩) s fun t => (t.link d.val).up = true ∧
    t.trained.getLsbD d.val = true ∧ (t.link d.val).replay = l.replay ∧ (t.link d.val).pseqOut = l.pseqOut) ∧
  (∀ i, dies i → l.detv = false → (∀ j, j ≠ d.val → (s.link j).deton = false) →
    Runs i s fun t => (t.link d.val).state = 4 ∧ (t.link d.val).hop = [] ∧ (t.link d.val).waiting = [] ∧
      (t.link d.val).replay = l.replay ∧ (t.link d.val).deton = false ∧ t.mem = s.mem) ∧
  (∀ i, dies i → l.detv = true → l.lost = false → l.dete.toNat ≠ d.val → (s.link l.dete.toNat).up = true → whole →
    (∀ j, j ≠ d.val → (s.link j).deton = false) → Runs i s fun t => (t.link d.val).state = 4 ∧ (t.link d.val).deton = true ∧
      (t.link d.val).hop = [] ∧ (t.link d.val).replay = l.replay ∧ (t.link d.val).fenceNo = l.fenceNo + 1 ∧ t.mem = s.mem) ∧
  (l.returning = true → l.fenceAcked = true → l.up = true → whole → Runs (.detourReturn d) s fun t =>
    (t.link d.val).deton = false ∧ (t.link d.val).returning = false ∧ (t.link d.val).replay = l.replay ∧ LinksOnly s t) ∧
  (∀ w : Fin 8, 6 ≤ d.val → (s.laser d.val w.val).state = 1 → (s.laser d.val 8).state = 0 → l.state = 2 →
    Runs (.wavelengthFailover ⟨d, ⟨w.val, by omega⟩⟩) s fun t => (t.laser d.val w.val).state = 2 ∧ (t.laser d.val 8).state = 1 ∧
      (t.link d.val).state = 3 ∧ t = { s with lasers := t.lasers, links := t.links }) ∧
  (.nopathTimeout d ∈ s.dueNow ↔ l.fallen = true ∧ s.hasPath d.val = false ∧
    ∃ since, l.noPathSince = some since ∧ since + 10000000 ≤ s.gtime.toNat) ∧
  (l.fallen = true →
    (l.lost = false → (∀ p, (s.pt p).disp ≠ .translate ∧ (s.pt p).disp ≠ .held) → s.mbxEvents.length < 256 →
      Runs (.nopathTimeout d) s fun t => (t.link d.val).replay = [] ∧ (t.link d.val).held = [] ∧ (t.link d.val).lost = true ∧
        t.mbxEvents = s.mbxEvents ++ [⟨5, s.dieNo, BitVec.ofNat 32 d.val⟩] ∧
        ∀ p, s.holder = some p → (s.pt p).disp = .run → s.stream.exch = true →
          t.stream.status = .aborting ∧ t.stream.abort = some (.kill 0x17 0 0)) ∧
    (l.lost = true → s.pathOver d.val = false → exec (.nopathTimeout d) s = .next s)) ∧
  (l.fallen = false → exec (.nopathTimeout d) s = .next s)

/-- R285: GTIME goes out over every trained dimension with a path; a sample that comes sets the link's delay to half the round trip
and, from the parent, the offset to be slewed away, and never steps GTIME; the loss of every path to the parent is reported once, after 1 ms. -/
def Claims.TimeFollowsTheParent : Prop := ∀ s : State,
  (Runs .gtimeExchange s fun t => (∀ d : DimNo, if s.trained.getLsbD d.val = true ∧ s.hasPath d.val = true
    then Sends d.val (.gtime s.gtime) s t
    else (t.link d.val).pseqOut = (s.link d.val).pseqOut ∧ (t.link d.val).replay = (s.link d.val).replay) ∧ LinksOnly s t ∧ t.gtime = s.gtime) ∧
  (∀ o : GtimeMsg, InOrder s o.hdr 5 → Runs (.gtimeFlit o) s fun t => (t.link o.hdr.link.val).delay = o.roundTrip / 2 ∧ t.gtime = s.gtime ∧
    t.slew = (if s.parentDim = some o.hdr.link.val then (o.sample.toNat : Int) + o.roundTrip / 2 - s.gtime.toNat else s.slew) ∧
    t = { s with links := t.links, slew := t.slew, outbox := t.outbox }) ∧
  (s.stage = 4 → ∀ d, s.parentDim = some d → s.clockParent = if s.hasPath d = true then { s with timeLost := none, timeTold := false }
    else { s with timeLost := some (s.timeLost.getD s.gtime.toNat) }) ∧
  (∀ (d : DimNo) (since : Nat), s.parentDim = some d.val → s.hasPath d.val = false → s.timeLost = some since →
    (s.timeTold = true ∨ s.gtime.toNat < since + 1000000 → exec (.gtimelost d) s = .next s) ∧
    (s.timeTold = false → since + 1000000 ≤ s.gtime.toNat → .gtimelost d ∈ s.dueNow ∧ (s.mbxEvents.length < 256 →
      exec (.gtimelost d) s = .next { s with timeTold := true, mbxEvents := s.mbxEvents ++ [⟨10, s.dieNo, BitVec.ofNat 32 d.val⟩] })))

/-- Retraining, dead links, wavelengths and the time of the parent (R272, R273, R277, R280-R282, R285): the claims above
together. -/
def Obligations.LinksRetrainAndKeepTime : Prop :=
  Claims.LinksRetrainDieAndReturn ∧ Claims.TimeFollowsTheParent

/-- R310, R382, R384, R388, R394: writes of the host, of CXL and of Ethernet to bytes of no task change those bytes and no other;
a write into a window of a task that finds room waits beside the main partition, where other agents read it at once and
main-partition reads do not; before stage 4, under an alarm, beyond the die or while a CHKPT runs the host's are refused and change
nothing: with Unsupported Request, Completer Abort or a poison response. Ethernet reaches only dies whose IOD has a port (R10).
Every such write goes by one rule (log 21); which status answers which cause is the model's choice (log 50). -/
def Claims.OutsideWritesLand : Prop := ∀ (s : State) (a : Nat) (l : List Byte),
  let writes := [Instr.hostWrite ⟨a, l⟩, .cxlMemStore ⟨a, l⟩, .ethernetDma ⟨true, a, l, 0⟩]
  let bytes := l.mapIdx fun k b => (a + k, b)
  (∀ i ∈ writes, PortOpen s a l.length → s.hasEthernet = true ∨ i ∈ writes.take 2 → Plain s a l.length → Runs i s fun t => Lands bytes s t ∧ t.outbox = s.outbox ∧ t.staged = s.staged) ∧
  (∀ i ∈ writes, ∀ tag : PartNo, PortOpen s a l.length → s.hasEthernet = true ∨ i ∈ writes.take 2 → l ≠ [] → a % 128 + l.length ≤ 128 →
    (∀ k, k < l.length → s.treatment (a + k) = .staged tag) → (∀ w ∈ s.landings, w.agent ≠ .host) → s.roomFor (a / 128) = true →
    Runs i s fun t => (∀ k, k < l.length → some (t.merged (a + k)) = l[k]?) ∧ (∀ x, t.byte x = s.byte x) ∧
      (∀ x, x < a ∨ a + l.length ≤ x → t.stagedByte x = s.stagedByte x)) ∧
  (s.stage ≠ 4 ∨ s.alarm ≠ 0 ∨ 2 ^ 36 < a + l.length ∨ s.chkptRuns = true →
    exec (.hostWrite ⟨a, l⟩) s = .next (s.send (.hostRefused (if s.alarm ≠ 0 ∨ s.stage = 4 ∧ s.chkptRuns = true then .completerAbort
      else .unsupportedRequest))) ∧ exec (.cxlMemStore ⟨a, l⟩) s = .next (s.send (.hostRefused .cxlPoison))) ∧
  (s.hasEthernet = false → exec (.ethernetDma ⟨true, a, l, 0⟩) s = .next s)

/-- R314, R382, R384: reads of the host, of CXL and of Ethernet answer every byte of the merged view and change no byte; the
three atomic operations of PCIe answer the old number and leave the sum, the operand, or the operand where the old number is
the compared one (a status of the model's choice answers what the die does not support, log 50). -/
def Claims.OutsideReadsAndAtomics : Prop := ∀ (s : State) (a n : Nat), (∀ k, k < n → s.badView (a + k) = false) →
  (∀ i ∈ [Instr.hostRead ⟨a, n⟩, .cxlMemLoad ⟨a, n⟩, .ethernetDma ⟨false, a, [], n⟩], s.stage = 4 → s.alarm = 0 → a + n ≤ 2 ^ 36 →
    s.hasEthernet = true ∨ i ≠ .ethernetDma ⟨false, a, [], n⟩ → Runs i s fun t => t.outbox = .hostReply (s.mergedBytes a n) :: s.outbox ∧ Lands [] s t) ∧
  (∀ o : HostAtomic, o.addr = a → n = (if o.wide then 8 else 4) → PortOpen s a n → Plain s a n →
    let old := ((List.range n).map fun k => (s.merged (a + k)).toNat * 256 ^ k).sum
    let gives := fun (i : Instr) (x : Nat) => Runs i s fun t =>
      t.outbox = .hostReply (s.mergedBytes a n) :: s.outbox ∧ Lands (storedBytes a n (x % 256 ^ n)) s t
    gives (.hostFetchadd o) (old + o.operand.toNat) ∧
    (o.wide = true → gives (.hostSwap o) o.operand.toNat ∧
      gives (.hostCas o) (if old = o.compare.toNat then o.operand.toNat else old)))

/-- R109, R115, R118, R319: a grant moves waiting rows into shared rows, never past 32 of a slab, and takes the one row that
waits; a drain writes the oldest full row of its slab into its plate and frees it; a landing that waited goes on once its set has room, and its
bytes then stand in memory where no window takes them. -/
def Claims.LandingRowsAndWaits : Prop := ∀ s : State,
  (Runs .landingRowGrant s fun t =>
    (∀ k : Fin 16, (t.rowsFull.filter fun r => r.slab == k).length ≤ max 32 (s.rowsFull.filter fun r => r.slab == k).length) ∧
    (∀ r, s.rowsWaiting = [r] → (s.rowsFull.filter fun x => x.slab == r.slab).length < 32 →
      t.rowsWaiting = [] ∧ t.rowsFull = s.rowsFull ++ [r]) ∧ t = { s with rowsWaiting := t.rowsWaiting, rowsFull := t.rowsFull }) ∧
  (∀ (b q : List RowItem) (r : RowItem), s.rowsFull = b ++ r :: q → (∀ x ∈ b, x.slab ≠ r.slab) →
    Runs (.landingRowDrain r.slab) s fun t =>
      WritesPlates r.part (r.bytes.map fun x => (r.slab.val, x.1, x.2)) { s with rowsFull := b ++ q } t) ∧
  (∀ (w : WaitingLanding) (x : Nat × Byte) (l : List (Nat × Byte)), s.landings = [w] → w.bytes = x :: l →
    (s.canLand x.1 = true → w.agent = .host ∨ s.treatment x.1 = .direct → Runs .stagingRoomWaitEnd s fun t => t.landings = [] ∧
      t.plates = s.plates ∧ t.stream.s = s.stream.s ∧
      (s.treatment x.1 = .direct → w.bad = [] → BytesBecome (fun _ => w.key) w.bytes s t ∧ t.staged = s.staged)) ∧
    (s.canLand x.1 = false → exec .stagingRoomWaitEnd s = .next s))

/-- The host, CXL and Ethernet in home memory; landings and landing rows (R310, R382, R384, R388, R394, R314, R109, R115,
R118, R319): the claims above together. -/
def Obligations.OutsideAccessesReachMemory : Prop :=
  Claims.OutsideWritesLand ∧ Claims.OutsideReadsAndAtomics ∧ Claims.LandingRowsAndWaits

/-- R274, R275, R375: an hour of a lit laser sets BIAS and POWER and counts HOURS; the first power at or below the threshold is
reported (an unlit one is not measured, log 45). A corrected error adds INC to its bucket's FILL and one to TOTAL, both saturating, and the crossing of MARK while EVT
is 0 raises one event; on a lane of a link with FEC it is one of the thousand symbols that FECFIX counts (the model's reading, log 64); a leak takes one from every FILL of its class that is not 0. -/
def Claims.LasersAndBucketsCount : Prop := ∀ s : State,
  (∀ o : LaserMsg, 6 ≤ o.link.val → o.lit = true → let d := o.link.val; let x := s.laser d o.wave.val
    Runs (.laserHourlyUpdate o) s fun t => let y := t.laser d o.wave.val
      y.bias = o.bias ∧ y.power = o.power ∧ y.hours = x.hours + 1 ∧
      (y.state = if o.power.sle s.eolthr = true ∧ x.state ≠ 2 then 3 else x.state) ∧ (o.power.sle s.eolthr = true → y.eol = x.hours + 1) ∧
      (s.mbxEvents.length < 256 → t.mbxEvents = s.mbxEvents ++ (if o.power.sle s.eolthr && !x.raised then
        [⟨1, s.dieNo, BitVec.ofNat 32 (d - 6 + o.wave.val * 16)⟩] else [])) ∧ t.mem = s.mem ∧ t.links = s.links) ∧
  (∀ e : ErrUnit, e.unit < unitCount e.cls → let w := s.bucket e
    let fill := min (bucketFill w + s.inc e.cls) 65535
    let crosses := bucketEvt w = false ∧ bucketFill w < s.mark e.cls ∧ s.mark e.cls ≤ fill
    Runs (.correctedError e) s fun t => bucketFill (t.bucket e) = fill ∧
      bucketTotal (t.bucket e) = min (bucketTotal w + 1) 0xFFFFFFFF ∧ (bucketEvt (t.bucket e) = true ↔ bucketEvt w = true ∨ crosses) ∧
      (∀ x : ErrUnit, x.unit < unitCount x.cls → x ≠ e → t.bucket x = s.bucket x) ∧
      (¬crosses → t = { s with buckets := t.buckets, links := if e.cls = 3 ∧ 4 ≤ (laneUnit e.unit).1 then t.links else s.links } ∧
        (e.cls = 3 → 4 ≤ (laneUnit e.unit).1 → let l := s.link (laneUnit e.unit).1
          (t.link (laneUnit e.unit).1).fecfix = if 999 ≤ l.fecRest ∧ l.fecfix ≠ BitVec.allOnes 32 then l.fecfix + 1 else l.fecfix)) ∧ (crosses → s.mbxEvents.length < 256 →
        t.mbxEvents = s.mbxEvents ++ [⟨2, s.dieNo, BitVec.ofNat 32 (e.cls.val + e.unit * 8)⟩])) ∧
  (∀ cls : Fin 4, s.leak cls ≠ 0 → Runs (.bucketLeak cls) s fun t => t = { s with buckets := t.buckets } ∧
    ∀ e : ErrUnit, e.unit < unitCount e.cls → bucketFill (t.bucket e) = bucketFill (s.bucket e) - (if e.cls = cls then 1 else 0) ∧
      bucketTotal (t.bucket e) = bucketTotal (s.bucket e))

/-- R18, R99, R105, R283, R363, R372, R374: an uncorrectable word, or a mismatch of the checked pair, met by the running task
rewinds it while its segment can be rewound: once what has been issued is performed the stream stands at the segment's start; it
aborts the task where there is none, and at a second mismatch of the segment, which also asks for the spare site. An uncorrectable
word that nothing consumes is marked: its words of home memory, its plate word, or its stored flit (the places of a mark are the model's, log 27); the rebuild of a table writes the
host's copy, clears its poison and is reported. -/
def Claims.ErrorsRewindOrAbort : Prop := ∀ s : State,
  (∀ (i : Instr) (mismatch : Bool), ((∃ e, i = .uncorr e) ∧ mismatch = false ∨
      i = .signatureMismatch ∧ mismatch = true ∧ (s.pt s.part).bind.checked = true) → s.stream.live = true →
    (∀ g, s.stream.seg = some g → g.overwritten = false → g.rewinds < 3 → (mismatch = true → g.mismatched = false) →
      Runs i s fun t => t.stream.wait = some (.rewind mismatch) ∧ t.stream.status = .running ∧ t.stream.hold = none ∧
        t.stream.seg = some g) ∧
    (∀ g, s.stream.seg = some g → mismatch = true → g.mismatched = true → s.holder ≠ none →
      Runs i s fun t => t.stream.status = .aborting ∧ t.stream.abort = some .uncorr ∧ t.siteSwap = true) ∧
    (s.stream.seg = none → s.holder ≠ none → Runs i s fun t => t.stream.status = .aborting ∧ t.stream.abort = some .uncorr ∧
      (t.pt s.part).disp = .ending)) ∧
  (∀ (g : SegRecord) (mismatch : Bool), s.stream.wait = some (.rewind mismatch) → s.stream.seg = some g →
    (s.quiet s.part = true → Rewound g mismatch s.issue) ∧
    (s.quiet s.part = false → s.issue = s.onStream fun x => { x with hold := some .stall })) ∧
  (∀ o : PoisonMsg, Runs (.linePoison o) s fun t => t.mem = s.mem ∧
    (∀ n, o.place = .line n → ∀ x, x ∈ t.poison ↔ x ∈ s.poison ∨ x / 16 = n) ∧
    (∀ w, o.place = .plate w → ∀ x, x ∈ t.platePoison ↔ x ∈ s.platePoison ∨ x = w) ∧
    (∀ d k x, o.place = .hop d k → (s.link d.val).hop[k]? = some x →
      (t.link d.val).hop[k]? = some (x.1, x.2.1, { x.2.2 with bad := true })) ∧
    (∀ d k f, o.place = .pair d k → (s.link d.val).replay[k]? = some f → (t.link d.val).replay[k]? = some { f with bad := true }) ∧
    (o.unit.unit < unitCount o.unit.cls → bucketFill (t.bucket o.unit) = 65535)) ∧
  (∀ (a n : Nat) (q : List (Nat × Nat)) (bytes : List Byte), s.poisonTables = (a, n) :: q → (∀ x ∈ q, x.1 ≠ a) → bytes.length = n →
    s.mbxEvents.length < 256 → Runs (.pageTableRebuild ⟨a, bytes⟩) s fun t => t.poisonTables = q ∧
      BytesBecome noKey (bytes.mapIdx fun k b => (a + k, b)) s t ∧ (∀ w ∈ t.poison, w ∈ s.poison ∧ ¬(a / 8 ≤ w ∧ w < a / 8 + n / 8)) ∧
      t.mbxEvents = s.mbxEvents ++ [⟨4, s.dieNo, BitVec.ofNat 32 (bits a 5 31)⟩])

/-- Lasers, error buckets, uncorrectable words (R274, R275, R375, R18, R99, R105, R283, R363, R372, R374): the claims above
together. -/
def Obligations.ErrorsAreCountedAndSettled : Prop :=
  Claims.LasersAndBucketsCount ∧ Claims.ErrorsRewindOrAbort

/-- R122, R123, R136: with room in the ring a posting that waited takes the next slot and is answered; else the oldest packet of the
stream whose posting is settled takes it, and LASTID of the channel becomes its identifier. -/
def Claims.PacketsClaimTheirSlots : Prop := ∀ (s : State) (p : PartNo) (ch : Fin 8) (v : QueueView), (s.pt p).bound = true →
  s.copyView p ch = some v → v.wr < v.done + v.size →
  (∀ (x : PostedIn) (l : List PostedIn), (s.queue p ch).posted = x :: l → Runs (.packetClaim ⟨p, ch⟩) s fun t =>
    (t.queue p ch).posted = l ∧ (t.queue p ch).issued = (s.queue p ch).issued ∧
    (x.dim < 14 → Sends x.dim (.postResult x.job ch true) s t) ∧ ∃ note, (t.queue p ch).notes = (s.queue p ch).notes ++ [note] ∧
      note.idx = v.wr ∧ note.origin = .posted ∧ note.valid = validPacket .posted x.pkt ∧ note.job = x.job ∧ note.dim = x.dim ∧
      note.src = x.src ∧ note.data = [] ∧ note.bad = []) ∧
  (∀ (x : IssuedPacket) (l : List IssuedPacket), (s.queue p ch).posted = [] → (s.queue p ch).issued = x :: l → x.posting ≠ .waiting →
    Runs (.packetClaim ⟨p, ch⟩) s fun t => (t.queue p ch).issued = l ∧ (t.queue p ch).posted = [] ∧ t.links = s.links ∧
      (s.holder = some p → ∀ j : Fin 64, j.val = 8 + ch.val → t.stream.e[j] = BitVec.ofNat 64 (v.wr + 1)) ∧
      ∃ note, (t.queue p ch).notes = (s.queue p ch).notes ++ [note] ∧ note.idx = v.wr ∧ note.origin = .stream ∧ note.valid = x.valid ∧
        note.cancel = x.cancel ∧ note.report = x.report ∧ note.proxy = decide (x.posting ≠ .unneeded) ∧ note.failed = decide (x.posting = .failed))

/-- R127, R130, R394: the host's answer completes the packet that waits for it, with STATUS OK or, for an error or a timeout, HOSTERR:
the bytes that have come are written, and no other; under an alarm the answer is lost (log 101). -/
def Claims.HostCompletionsSettleThePacket : Prop :=
  ∀ (s : State) (p : PartNo) (ch : Fin 8) (b r : List ActivePacket) (a : ActivePacket), (s.queue p ch).active = b ++ a :: r →
    (∀ y ∈ b, y.stage ≠ .host) → a.stage = .host → (∀ y ∈ b ++ r, y.idx ≠ a.idx ∧ (y.stage = .done → y.idx < a.idx)) →
    let done := fun (st : DWord) (n : Nat) => b ++ { a with stage := .done, status := st, dst := a.dst.take n } :: r
    (s.alarm = 0 → ∀ (ok : Bool) (l : List Byte), Runs (.pcieCompletion ⟨p, ch, ok, l⟩) s fun t =>
      (t.queue p ch).active = done (if ok then 1 else 10) l.length ∧ t.plates = s.plates ∧
      (platesOf a.dst = [] → (a.origin = .stream → BytesBecome (keyIn a.dst) ((homesOf a.dst).zip l) s t) ∧
        (a.origin ≠ .stream → (homesOf a.dst).Nodup → (∀ c ∈ homesOf a.dst, s.treatment c = .direct) →
          LandsInParts (.packet p ch a.idx) (keyIn a.dst) ((homesOf a.dst).zip l) s t))) ∧
    (s.alarm = 0 → Runs (.completionTimeout ⟨p, ch⟩) s fun t => (t.queue p ch).active = done 10 0 ∧ t.mem = s.mem) ∧
    (s.alarm ≠ 0 → exec (.completionTimeout ⟨p, ch⟩) s = .next s ∧ ∀ ok l, exec (.pcieCompletion ⟨p, ch, ok, l⟩) s = .next s)

/-- R129, R132: the packet at DONEID retires once all its bytes are placed: its flag, if it has one and ends with OK, then STATUS in its
slot, then DONEID are written; it leaves its queue, and of the stream's own its STATUS flags reach FLAGS and BAREN makes one arrival; one
whose accumulates still wait does not retire. -/
def Claims.PacketsRetireInOrder : Prop :=
  ∀ (s : State) (p : PartNo) (ch : Fin 8) (v : QueueView) (b r : List ActivePacket) (a : ActivePacket), s.copyView p ch = some v →
    (s.queue p ch).active = b ++ a :: r → a.idx = v.done → (∀ y ∈ b ++ r, y.idx ≠ v.done) →
    (s.settled p ch a = false → exec (.packetRetire ⟨p, ch⟩) s = .next s) ∧
    (s.settled p ch a = true → s.flagLands a = true → a.origin = .stream → s.holder = some p → Runs (.packetRetire ⟨p, ch⟩) s fun t =>
      (t.queue p ch).active = b ++ r ∧ (t.queue p ch).readIdx = max (s.queue p ch).readIdx (a.idx + 1) ∧
      t.stream.flags = s.stream.flags ||| a.status.extractLsb' 8 7 ∧ t.plates = s.plates ∧ t.links = s.links ∧
      ∀ j, t.stream.bars[j].count.toNat = if a.pkt.barEn = true ∧ j = a.pkt.bar then min (s.stream.bars[j].count.toNat + 1) 65535
        else s.stream.bars[j].count.toNat) ∧
    (s.settled p ch a = true → s.flagLands a = true → a.origin = .posted → Runs (.packetRetire ⟨p, ch⟩) s fun t =>
      (t.queue p ch).active = b ++ r ∧ (a.dim < 14 → Sends a.dim (.proxyRetire a.job ch a.status) s t)) ∧
    (s.settled p ch a = true → s.OneKey → ∀ st dn flag : Nat,
      PagesAt s p (v.slot a.idx + 56) 8 st → PagesAt s p (v.hdr + 8) 8 dn →
      (a.pkt.flagEn = false ∧ flag = 0 ∨ a.origin = .stream ∧ a.flagAt = some (.home flag none)) → (∀ y ∈ b ++ r, y.stage = .done → a.pkt.flagEn = false ∨ y.idx < a.idx) →
      let writes := a.pkt.flagEn = true ∧ a.status.toNat % 256 = 1
      let l := (if writes then storedBytes flag 8 a.pkt.flagVal.toNat else []) ++ storedBytes st 8 a.status.toNat ++ storedBytes dn 8 (a.idx + 1)
      (∀ w ∈ l, ∀ j va, j < 8 → va = v.slot a.idx + 56 + j ∨ va = v.hdr + 8 + j →
        ∀ e ∈ s.walkTrace (s.pt p).bind.root.toNat va, w.1 < e.1 ∨ e.1 + 8 ≤ w.1) →
      Runs (.packetRetire ⟨p, ch⟩) s fun t => ∀ c, t.byte c = ((l.reverse.find? fun w => w.1 == c).map (·.2)).getD (s.byte c))

/-- Copy queues: claims, host completions, retirement (R122, R123, R136, R127, R130, R394, R129, R132): the claims above
together. -/
def Obligations.PacketsAreClaimedAndRetired : Prop :=
  Claims.PacketsClaimTheirSlots ∧ Claims.HostCompletionsSettleThePacket ∧ Claims.PacketsRetireInOrder

/-- R126-R128, R130-R132, R135, R394: the channel reads its next packet. One that is cancelled, not valid, of a wrong length or
with a misaligned flag address stops with its STATUS and moves no byte; one of the stream that has to follow an earlier packet of its
queue, or whose host side an alarm has stopped, waits; else it ends with STATUS OK: a copy has moved its bytes, an accumulate has added
its element, a copy inward has asked the host, one outward has sent its bytes. A copy whose source holds an uncorrectable word ends
with UNCORR, and what that word would have reached is poisoned. (Which packets wait, and LEN 0, are the model's choice, logs 25, 59.) -/
def Claims.PacketsRunByTheirKind : Prop :=
  ∀ (s : State) (p : PartNo) (ch : Fin 8) (n : Nat) (k : Packet) (x : RingNote) (i : Instr),
    s.nextPacket p ch = some (n, k, some x) → (∀ y ∈ (s.queue p ch).active, (y.stage = .done ∨ y.stage = .host) ∧ y.idx < n) →
    OfKind k.kind ⟨p, ch⟩ i →
    let good := x.valid = true ∧ validPacket x.origin k = true
    let ends := fun (t : State) (st : DWord) (stage : PacketStage) => (t.queue p ch).readIdx = n + 1 ∧ ∃ a : ActivePacket,
      (t.queue p ch).active = (s.queue p ch).active ++ [a] ∧ a.idx = n ∧ a.pkt = k ∧ a.status = st ∧ a.stage = stage
    let kept := fun t : State => t.plates = s.plates ∧ t.outbox = s.outbox ∧ (s.OneKey → ∀ a, t.byte a = s.byte a)
    let stops := fun st : DWord => Runs i s fun t => ends t st .done ∧ kept t
    (x.cancel = true → stops 11) ∧ (x.cancel = false → ¬good → stops 9) ∧
    (x.cancel = false → good → badLength k = true → stops 7) ∧
    (x.cancel = false → good → badLength k = false → k.flagEn = true → k.flagAddr.toNat % 8 ≠ 0 → stops 8) ∧
    (x.cancel = false → good → badLength k = false → (k.flagEn = true → k.flagAddr.toNat % 8 = 0) → x.origin = .stream →
      let src := homesOf (s.ownOperands p k).src
      let dst := homesOf (s.ownOperands p k).dst
      let waits := s.mustFollow p ch { idx := n, pkt := k, origin := .stream, stage := .checked, status := 0, src := (s.ownOperands p k).src, dst := (s.ownOperands p k).dst, flagAt := (s.ownOperands p k).flag, job := x.job, dim := x.dim } = true ∨ k.kind = 5 ∧ s.alarm ≠ 0
      (waits → Runs i s fun t => ends t 0 .checked ∧ kept t) ∧
      (¬waits → k.kind = 1 → (∃ a ∈ src, a / 8 ∈ s.poison) → Runs i s fun t =>
        (∃ st : DWord, ends t st .done ∧ st.toNat % 256 = 12) ∧
        (k.dstSp = 0 → ∀ (j a b : Nat), src[j]? = some a → a / 8 ∈ s.poison → dst[j]? = some b → b / 8 ∈ t.poison)) ∧
      (¬waits → (∀ a ∈ src, a / 8 ∉ s.poison) →
      let data := src.map ((s.asQueue p ch).seen (some p) .cp)
      (k.kind = 0 ∨ k.kind = 6 → Runs i s fun t => ends t 1 .done ∧ kept t) ∧
      (k.kind = 1 → Runs i s fun t => ends t 1 .done ∧ t.outbox = s.outbox ∧ t.plates = s.plates ∧
        (k.dstSp = 0 → s.OneKey → ∀ a, t.byte a = (((dst.zip data).reverse.find? fun y => y.1 == a).map (·.2)).getD (s.byte a)) ∧
        (k.dstSp = 2 → s.OneKey → (∀ y ∈ platesOf (s.ownOperands p k).dst, y.1 < 16 ∧ y.2 < 2 ^ 22) →
          (∀ a, t.byte a = s.byte a) ∧ AsksRows p (.copyLocal ch) ((platesOf (s.ownOperands p k).dst).zip data) s t)) ∧
      (k.kind = 2 → Runs i s fun t => (t.queue p ch).readIdx = n + 1 ∧ (t.queue p ch).active.length = (s.queue p ch).active.length + 1 ∧
        (∀ d, dst = [d, d + 1, d + 2, d + 3] → s.loose = [] → s.OneKey → (∀ z ∈ s.detLines, z.2 ≠ d / 64) →
          let word := fun (l : List Byte) => (l.mapIdx fun j b => b.toNat * 256 ^ j).sum
          ∀ a, t.byte a = ((storedBytes d 4 (fmtF32.addOp .rne false (word ((List.range 4).map fun j => s.byte (d + j))) (word data)).1).find?
            fun y => y.1 == a).elim (s.byte a) (·.2))) ∧
      (k.kind = 5 → k.length ≠ 0 → k.dir = true → Runs i s fun t => ends t 0 .host ∧
        t.outbox = .pcieRead p ch k.src.toNat k.length :: s.outbox ∧ (s.OneKey → ∀ a, t.byte a = s.byte a)) ∧
      (k.kind = 5 → k.length ≠ 0 → k.dir = false → s.OneKey → Runs i s fun t => ends t 1 .done ∧
        t.outbox = .pcieWrite k.dst.toNat data :: s.outbox ∧ ∀ a, t.byte a = s.byte a)))

/-- R123, R127, R130: a host or posted packet that the channel reads is checked on this die before a byte moves: one whose operands lie
in a task's windows waits where none is dispatched; a check that fails ends it with its code and the failing address; a posted copy or
accumulate that passes asks the sender's die for its source (logs 26, 34, 73). -/
def Claims.PostedPacketsRunAtTheReceiver : Prop :=
  ∀ (s : State) (p : PartNo) (ch : Fin 8) (n : Nat) (k : Packet) (x : Option RingNote) (i : Instr), s.nextPacket p ch = some (n, k, x) →
    (∀ y ∈ (s.queue p ch).active, (y.stage = .done ∨ y.stage = .host) ∧ y.idx < n) → OfKind k.kind ⟨p, ch⟩ i →
    let o := x.elim .host (·.origin)
    o ≠ .stream → (∀ y, x = some y → y.cancel = false ∧ y.valid = true ∧ y.data = []) → validPacket o k = true → badLength k = false →
    (k.flagEn = true → k.flagAddr.toNat % 8 = 0) →
    let waits := needsTask o k = true ∧ s.taskOf p = none
    let s1 := ((s.visitRing p ch n).serve p ch).pushActive p ch (ActivePacket.fresh n k x)
    let ends := fun (t : State) (st : DWord) (stage : PacketStage) => (t.queue p ch).readIdx = n + 1 ∧
      ∃ a : ActivePacket, (t.queue p ch).active = (s.queue p ch).active ++ [a] ∧ a.idx = n ∧ a.pkt = k ∧ a.origin = o ∧ a.status = st ∧ a.stage = stage
    (waits → Runs i s fun t => ends t 0 .read ∧ (s.OneKey → ∀ a, t.byte a = s.byte a)) ∧
    (¬waits → ∀ u e, s1.checkOperands p o k = (u, .error e) → Runs i s fun t =>
      ends t (BitVec.ofNat 64 (e.1 + e.2 % 2 ^ 48 * 2 ^ 16)) .done ∧ t.plates = s.plates ∧ t.mem = u.mem ∧
      (s.OneKey → ∀ a, t.byte a = s.byte a)) ∧
    (¬waits → ∀ u y z, s1.checkOperands p o k = (u, .ok y) → x = some z → o = .posted → k.kind = 3 ∨ k.kind = 4 → k.length ≠ 0 →
      Runs i s fun t => ends t 0 .pulling ∧ (z.dim < 14 → Sends z.dim (.readRequest z.job ch z.src) s t) ∧ t.plates = s.plates ∧
        (∃ a ∈ (t.queue p ch).active, a.idx = n ∧ a.src = y.src ∧ a.dst = y.dst ∧ a.flagAt = y.flag) ∧
        (s.OneKey → ∀ a, t.byte a = s.byte a))

/-- R123, R126, R128, R130-R132, R394: a packet of any writer whose check has passed, whose source bytes have come where they come from a
partner, and that has to wait for nothing, ends with STATUS OK: a copy has handed its bytes on, to home memory (the stream's at once, any
other's as a landing, of which bytes may land later) or as rows to the plates; an accumulate has added its element; a copy inward has
asked the host, one outward has sent its bytes. It waits for an earlier packet that is to write what it reads (logs 25, 34). -/
def Claims.PacketsGoOn : Prop :=
  ∀ (s : State) (p : PartNo) (ch : Fin 8) (b r : List ActivePacket) (a : ActivePacket) (i : Instr), (s.queue p ch).active = b ++ a :: r →
    (∀ y ∈ b, y.stage = .done ∨ y.stage = .host) → (∀ y ∈ b ++ r, y.idx ≠ a.idx ∧ (y.stage = .done → y.idx < a.idx)) →
    OfKind a.pkt.kind ⟨p, ch⟩ i →
    let x := (s.queue p ch).notes.find? fun y => y.idx == a.idx
    let key := keyIn (a.src ++ a.dst)
    let data := if a.origin = .posted then x.elim [] (·.data) else a.src.map ((s.asQueue p ch).packetRead p a.origin)
    ((∃ y ∈ b ++ r, y.idx < a.idx ∧ y.stage ≠ .done ∧ y.stage ≠ .read ∧ ∃ c ∈ homesOf a.src, c ∈ homesOf y.dst) → s.mustFollow p ch a = true) ∧
    (a.stage = .checked ∨ (a.stage = .pulling ∧ ∃ y, x = some y ∧ a.pkt.length ≤ y.data.length) → (∀ y, x = some y → y.cancel = false) →
      s.mustFollow p ch a = false → (a.pkt.kind = 5 → s.alarm = 0) →
      (a.origin = .posted → ∀ y, x = some y → y.bad = []) → (a.origin = .stream → ∀ c ∈ homesOf a.src, c / 8 ∉ s.poison) →
      (a.origin = .host → ∀ c ∈ homesOf a.src, s.badView c = false) →
      (∀ c d k l, Place.home c (some k) ∈ a.src ++ a.dst → Place.home d (some l) ∈ a.src ++ a.dst → c / 128 = d / 128 → k = l) →
      let ends := fun (t : State) (st : DWord) (stage : PacketStage) => (t.queue p ch).active = b ++ { a with stage := stage, status := st } :: r
      let kind := fun l : List Nat => a.pkt.kind ∈ l
      (kind [0, 6] → Runs i s fun t => ends t 1 .done ∧ t.plates = s.plates ∧ BytesBecome key [] s t) ∧
      (kind [1, 3] → a.dst.all (fun y => (platesOf [y]).isEmpty) = true → Runs i s fun t => ends t 1 .done ∧ t.plates = s.plates ∧
        (a.origin = .stream → BytesBecome key ((homesOf a.dst).zip data) s t) ∧
        (a.origin ≠ .stream → (homesOf a.dst).Nodup → (∀ c ∈ homesOf a.dst, s.treatment c = .direct) →
          LandsInParts (.packet p ch a.idx) key ((homesOf a.dst).zip data) s t)) ∧
      (kind [1, 3] → homesOf a.dst = [] → (∀ y ∈ platesOf a.dst, y.1 < 16 ∧ y.2 < 2 ^ 22) → Runs i s fun t => ends t 1 .done ∧
        AsksRows p (rowFlow a.origin ch a.dim) ((platesOf a.dst).zip data) s t ∧ BytesBecome key [] s t) ∧
      (kind [2, 4] → Runs i s fun t =>
        ∀ d k, a.dst = (List.range 4).map (fun j => .home (d + j) k) → d % 4 = 0 → data.length = 4 → s.loose = [] → s.staged = [] →
          s.treatment d = .direct → (∀ z ∈ s.detLines, z.2 ≠ d / 64) → s.steady key (d / 128) →
          let word := fun (l : List Byte) => (l.mapIdx fun j b => b.toNat * 256 ^ j).sum
          let sum := fmtF32.addOp .rne false (word ((List.range 4).map fun j => s.byte (d + j))) (word data)
          ends t (BitVec.ofNat 64 (1 + sum.2.toNat * 256)) .done ∧ BytesBecome key (storedBytes d 4 sum.1) s t) ∧
      (kind [5] → a.pkt.length ≠ 0 → a.pkt.dir = true → Runs i s fun t => ends t a.status .host ∧
        t.outbox = .pcieRead p ch a.pkt.src.toNat a.pkt.length :: s.outbox) ∧
      (kind [5] → a.pkt.length ≠ 0 → a.pkt.dir = false → a.src ≠ [] → Runs i s fun t => ends t 1 .done ∧
        (a.origin ≠ .posted → t.outbox = .pcieWrite a.pkt.dst.toNat data :: s.outbox)))

/-- What a packet of each kind does, issued or posted (R126-R128, R130-R132, R135, R394, R123, R127, R130, R126, R128): the
claims above together. -/
def Obligations.PacketsRunByTheirKind : Prop :=
  Claims.PacketsRunByTheirKind ∧ Claims.PostedPacketsRunAtTheReceiver ∧ Claims.PacketsGoOn

/-- R332: a NOP entry, and one of a kind not listed, is passed and retired: dispatch goes on to the next entry, and where every
earlier entry has retired DONEID takes its identifier. No other partition changes. -/
def Claims.QueueEntriesPassAndRetire : Prop := ∀ (s : State) (p : PartNo) (n : Nat) (ws : List Nat) (v : QueueView),
  ∀ x ∈ [(Instr.queueNopEntry p, s.entryOf p (· == 0)), (.reservedKindEntry p, s.entryOf p fun k => decide (3 ≤ k))],
  x.2 = some (n, ws) → s.taskView p = some v → (s.pt p).tqPosted = [] → Runs x.1 s fun t =>
    (t.pt p).tqRead = n + 1 ∧ (∀ q, q ≠ p → t.pt q = s.pt q) ∧
    (v.done = n → (s.pt p).tqRetired = [] → (t.pt p).tqRetired = [] ∧ (s.OneKey → ∀ dn, PagesAt s p (v.hdr + 8) 8 dn →
      ∀ a, t.byte a = (((storedBytes dn 8 (n + 1)).find? fun w => w.1 == a).map (·.2)).getD (s.byte a))) ∧
    (v.done < n → v.done ∉ (s.pt p).tqRetired → n ∈ (t.pt p).tqRetired)

/-- R333: a FANOUT entry of level l goes, before it is dispatched, across each of the l lowest logical dimensions, as a copy of the
level of that dimension; it is forwarded once. -/
def Claims.FanoutEntriesAreForwarded : Prop := ∀ (s : State) (p : PartNo) (n : Nat) (ws : List Nat), s.nextFanout p = some (n, ws) →
  Runs (.fanoutForward p) s fun t => t.pt p = { s.pt p with fanned := n + 1 } ∧ (s.OneKey → ∀ a, t.byte a = s.byte a) ∧
    (∀ d, d < min (entryLevel ws) (popCount 14 (entryMask ws).toNat) → Sends (physDim (entryMask ws) d)
      (.fanout (fanoutCopy ws d) (s.pt p).bind.job) s t) ∧ (∀ q, q ≠ p → t.pt q = s.pt q) ∧ t.plates = s.plates

/-- R27, R334, R335, R336, R346, R347: a TASK entry whose descriptor, launch, windows and translation pass, of a task that is not PURE,
makes the partition ready with the stream's state at dispatch: registers zero, the PC at ENTRY, the partition's seed; an entry
that a check refuses is passed without a start; a ready task that may take the stream runs. -/
def Claims.TasksAreDispatchedAndStarted : Prop := ∀ (s : State) (p : PartNo), s.holder ≠ some p →
  (∀ (n : Nat) (ws : List Nat) (t0 : Task) (l : List Extent), (s.pt p).disp = .idle → s.entryOf p (· == 1) = some (n, ws) →
    let s0 := s.passEntry p n
    let e : Dispatching := { idx := n, descAddr := ws.getD 1 0, mask := entryMask ws, base := entryBase ws, checked := none }
    let s1 := if t0.flag 18 then (s0.visitTask p e).onPart p Partition.countExch else s0.visitTask p e
    s0.readTask p e = .ok t0 → s0.checkLaunch t0 = .ok () → t0.checkWindows = .ok () → t0.flag 16 = false →
    s1.translate p { t0 with tstart := s.gtime, seq := (s.pt p).exchCount } = .ok l →
    Runs (.taskEntry p) s fun t => (t.pt p).disp = .ready ∧ (t.pt p).tqRead = n + 1 ∧
      (t.pt p).exchCount = (s.pt p).exchCount + (if t0.flag 18 then 1 else 0) ∧ ∃ x, t.shadow[p] = some x ∧
      x.pc = BitVec.ofNat 48 t0.entry ∧ x.seedsnap = (s.pt p).seed ∧ x.subMask = t0.mask ∧ x.det = t0.flag 17 ∧ x.exch = t0.flag 18 ∧
      x.pure = false ∧ x.flags = 0 ∧ x.tickno = 0 ∧ x.ras = [] ∧ x.loops = [] ∧ (∀ r, x.sreg r = 0) ∧
      x.theTask = { t0 with tstart := s.gtime, seq := (s.pt p).exchCount, extents := l }) ∧
  (∀ (n : Nat) (ws : List Nat) (c tr d : Nat), (s.pt p).disp = .idle → (s.pt p).unbinding = false → s.entryOf p (· == 1) = some (n, ws) →
    (s.passEntry p n).readTask p
      { idx := n, descAddr := ws.getD 1 0, mask := entryMask ws, base := entryBase ws, checked := none } = .error (.refuse c tr d) →
    Runs (.taskEntry p) s fun t => (t.pt p).disp = .idle ∧ (t.pt p).tqRead = n + 1 ∧ (t.pt p).work = none ∧
      t.shadow[p].isSome = s.shadow[p].isSome ∧ t.plates = s.plates) ∧
  (∀ x, (s.pt p).disp = .ready → s.shadow[p] = some x → s.mayStart p = true → exec (.taskEntry p) s = .next
    { s with
      stream := { x with status := .running }, holder := some p, shadow := s.shadow.set p none, abuf := []
      trapRecord := Vector.replicate 6 0, divertClock := s.divertClock + 1
      parts := s.parts.set p { s.pt p with disp := .run, lastHeld := s.divertClock } })

/-- R316, R331, R332, R337: a completing task with nothing in its way makes its last tick, in which its staged lines merge; then, all its work
over, it ends: the stream is free, its final registers still standing, the partition idle, no write of the task is left that
anyone could still miss, the completion record says OK, TASKID, TSTART, TEND, FLAGS and POINTS, and DONEID takes the entry's identifier; a
CREC that is not a multiple of 64 raises RECORD. -/
def Claims.TasksComplete : Prop := ∀ (s : State) (p : PartNo), s.holder = some p → s.stream.status = .completing →
  s.stream.preempt = none →
  (s.stream.wait = none → s.accessesDone p = true → (s.pt p).exchanging = false → Runs .taskCompletion s fun t =>
    t.stream.wait = some .closed ∧ (∀ l ∈ t.staged, l.tag ≠ p) ∧ (∀ l ∈ t.loose, l.part ≠ p) ∧ t.stream.status = .completing ∧
    t.stream.tickno = s.stream.tickno ∧ t.holder = some p) ∧
  (s.stream.wait = some .closed → s.allOver p = true → (s.pt p).unbinding = false → s.stream.task ≠ none → Runs .taskCompletion s fun t =>
    t.holder = none ∧ t.stream = s.stream.ended ∧ (t.pt p).disp = .idle ∧ (t.pt p).work = none ∧ (∀ l ∈ t.loose, l.part ≠ p) ∧
    t.plates = s.plates ∧
    let k := s.stream.theTask
    ∀ v, s.taskView p = some v → (s.pt p).graphs = [] → (s.pt p).empties = [] → (s.pt p).tqPosted = [] → k.rep = .none →
    (k.crec % 64 ≠ 0 → s.mbxEvents.length < 256 → t.mbxEvents = s.mbxEvents ++
      [⟨0xE, s.dieNo, BitVec.ofNat 32 (p.val + (k.entryId + 1) % 2 ^ 29 * 8)⟩]) ∧
    ∀ hp pa, s.OneKey → (s.pt p).tqRetired = [] → v.done = k.entryId → k.crec % 64 = 0 → PagesAt s p k.crec 64 pa →
      PagesAt s p (v.hdr + 8) 8 (hp + 8) → (∀ j, j < 24 → s.vphys p (v.hdr + j) true false = some (hp + j)) → pa + 64 ≤ hp ∨ hp + 24 ≤ pa →
      (∀ j va, va = k.crec + j ∧ j < 64 ∨ va = v.hdr + j ∧ j < 24 → ∀ e ∈ s.walkTrace (s.pt p).bind.root.toNat va, e.1 + 8 ≤ pa ∨ pa + 64 ≤ e.1) →
      let record := storedBytes pa 8 (1 + min k.attempts 0xFFFF * 2 ^ 32) ++ storedBytes (pa + 8) 8 s.stream.taskid.toNat ++
        storedBytes (pa + 16) 8 k.tstart.toNat ++ storedBytes (pa + 24) 8 s.gtime.toNat ++ storedBytes (pa + 32) 8 s.stream.flags.toNat ++
        storedBytes (pa + 40) 8 k.points ++ storedBytes (pa + 48) 16 0
      ∀ a, t.byte a = (((record ++ storedBytes (hp + 8) 8 (k.entryId + 1)).find? fun w => w.1 == a).map (·.2)).getD (s.byte a))

/-- Task-queue entries: passed, forwarded, dispatched, started, completed (R332, R333, R27, R334, R335, R336, R346, R347,
R316, R331, R337): the claims above together. -/
def Obligations.TaskQueuesRun : Prop :=
  Claims.QueueEntriesPassAndRetire ∧ Claims.FanoutEntriesAreForwarded ∧ Claims.TasksAreDispatchedAndStarted ∧
    Claims.TasksComplete

/-- R338, R339, R340 (the order of visits, and that a word which cannot be read counts as malformed, are the model's choice, log 33): the
walker: a GRAPH entry starts a walk at its start node with every STATE zero; a TASK node queues its task; a COND
node leads to the successor its word chooses; a WHILE node to its body, counting in STATE, or past it, zeroing STATE, ending the graph at its limit; a
JOIN node counts its arrivals in STATE and goes on at the last, zeroing it; an END node ends the walk once nothing is queued or to be visited; TSTART is the GTIME of
the visit of the start node. -/
def Obligations.GraphsAreWalked : Prop := ∀ (s : State) (p : PartNo),
  (∀ (n : Nat) (ws : List Nat), s.entryOf p (· == 2) = some (n, ws) → let start := bits (ws.getD 1 0) 0 16
    Runs (.graphEntry p) s fun t => (t.pt p).tqRead = n + 1 ∧ ∃ g, (t.pt p).graphs = (s.pt p).graphs ++ [g] ∧ g.entryIdx = n ∧
      g.visits = [(start, start)] ∧ g.queued = [] ∧ g.begun = false ∧ g.atEnd = none ∧ g.ended = none ∧ g.grec = ws.getD 3 0 ∧
      ∀ pa : Nat → Nat, s.OneKey → let nodes := (s.pt p).bind.nodes.toNat
        let at' := fun k => (s.pt p).bind.graph.toNat + 32 * k + 24
        (∀ k, k < nodes → PagesAt s p (at' k) 8 (pa k)) → (∀ k l j, k < nodes → l < nodes → j < 8 →
          ∀ e ∈ s.walkTrace (s.pt p).bind.root.toNat (at' k + j), e.1 + 8 ≤ pa l ∨ pa l + 8 ≤ e.1) →
        ∀ a, t.byte a = 0 ∧ (∃ k, k < nodes ∧ pa k ≤ a ∧ a < pa k + 8) ∨ t.byte a = s.byte a ∧ ∀ k, k < nodes → a < pa k ∨ pa k + 8 ≤ a) ∧
  (∀ (g : GraphWalk) (n : Nat) (x : GraphNode), (∀ y ∈ (s.pt p).graphs, y.over = false) →
    let walks := fun (i : Instr) (g' : GraphWalk) => Runs i s fun t => (g'.over = false →
      (t.pt p).graphs = (s.pt p).graphs.map fun y => if y.entryIdx = g.entryIdx then g' else y) ∧ ∀ q, q ≠ p → t.pt q = s.pt q
    let counts := fun (i : Instr) (g' : GraphWalk) (state : Nat) => walks i g' ∧ (g'.over = false → (s.pt p).empties = [] → s.OneKey →
      ∀ pa, PagesAt s p ((s.pt p).bind.graph.toNat + 32 * n + 24) 8 pa → Runs i s fun t => ∀ a, t.byte a =
        (((storedBytes pa 8 state).find? fun w => w.1 == a).map (·.2)).getD (s.byte a))
    let next := fun l : List Nat => { g with visits := ((l.filter (· != 0xFFFF)).map fun k => (n, k)) ++ g.visits.drop 1 }
    let ends := fun code : Nat => { g with visits := [], ended := some (code, 0, n) }
    (∀ v, s.findVisit p (Visit.isType 0) = some (g, .node n x) → s.taskView p = some v → v.wr < v.done + v.size →
      walks (.graphTaskNode p) { next [] with queued := g.queued ++ [(v.wr, n)] }) ∧
    (s.findVisit p (Visit.isType 1) = some (g, .node n x) →
      (∀ w, s.vread64 p x.addr = some w → walks (.graphCondNode p) (next [if w ≠ 0 then x.s0 else x.s1])) ∧
      (s.vread64 p x.addr = none → walks (.graphCondNode p) (ends 0x1B))) ∧
    (s.findVisit p (Visit.isType 2) = some (g, .node n x) → ∀ w, s.vread64 p x.addr = some w →
      (w = 0 → counts (.graphWhileNode p) (next [x.s1]) 0) ∧
      (w ≠ 0 → x.limit = 0 ∨ x.state < x.limit → counts (.graphWhileNode p) (next [x.s0]) (x.state + 1)) ∧
      (w ≠ 0 → x.limit ≠ 0 → x.limit ≤ x.state → walks (.graphWhileNode p) (ends 0x1C))) ∧
    (s.findVisit p (Visit.isType 3) = some (g, .node n x) →
      (x.state + 1 = x.nin → counts (.graphJoinNode p) (next [x.s0]) 0) ∧
      (x.state + 1 ≠ x.nin → counts (.graphJoinNode p) (next []) (x.state + 1))) ∧
    (s.findVisit p Visit.isLast = some (g, .node n x) → walks (.graphEndNode p) { next [] with atEnd := some (g.atEnd.getD n) }) ∧
    (s.findVisit p Visit.isLast = some (g, .bad n) → walks (.graphEndNode p) (ends 0x1B))) ∧
  (∀ want g v, s.findVisit p want = some (g, v) →
    ∃ y ∈ (s.pt p).graphs, g = if y.begun then y else { y with begun := true, tstart := s.gtime })

/-- R111, R341, R344: an accepted first record binds its partition, and so does one that binds an idle partition otherwise than it
is bound (log 80): its plate share is zero, SEED comes from the record, its queues are set up, dispatch is idle; a record of an
unsupported version is refused and reported; unbinding an idle partition leaves it as it was before any binding, a running one is
killed with KILLED first. -/
def Claims.PartitionsAreBoundAndUnbound : Prop := ∀ s : State,
  (∀ o : BindMsg, o.record.valid = true → bits o.record.version.toNat 8 8 = 1 → bits o.record.hpver.toNat 8 8 = 1 →
    s.acceptsRecord o.index o.record = true →
    ((s.pt o.record.part).bound = false ∨ (s.pt o.record.part).disp = .idle ∧ (s.pt o.record.part).unbinding = false ∧
      s.boundAs o.record = false) →
    (∀ k, k ≠ o.index → s.slotTable[k].valid = false) → (∀ q, q ≠ o.record.part → (s.pt q).bound = false) →
    let p := o.record.part
    Runs (.bindPartition o) s fun t => t.slotTable[o.index] = o.record ∧
      (t.pt p).bound = true ∧ (t.pt p).bind = o.record ∧ (t.pt p).seed = o.record.seed ∧ (t.pt p).disp = .idle ∧ (t.pt p).tqRead = 0 ∧
      (∀ slab k, slab < 16 → k < 65536 * o.record.plates → t.plate p slab k = 0) ∧
      (∀ c, (∀ slab k, slab < 16 → k < 65536 * o.record.plates → c ≠ t.plateCell p slab k) → t.plates.get c = s.plates.get c)) ∧
  (∀ o : BindMsg, o.record.valid = true → bits o.record.version.toNat 8 8 ≠ 1 → s.mbxEvents.length < 256 →
    exec (.bindPartition o) s = .next { s with
      mbxEvents := s.mbxEvents ++ [⟨0xB, s.dieNo, BitVec.ofNat 32 (0xF + o.record.version.toNat * 2 ^ 16)⟩] }) ∧
  (∀ p : PartNo, (s.pt p).bound = true → (s.pt p).unbinding = false → (∀ q, q ≠ p → (s.pt q).bound = false) →
    (∀ k : Fin 16, s.slotTable[k].valid = true → s.slotTable[k].part = p) →
    let cleared := fun t : State => (∀ k : Fin 16, t.slotTable[k].valid = false) ∧ t.mem = s.mem ∧ t.plates = s.plates
    ((s.pt p).disp = .idle → Runs (.unbindPartition p) s fun t => t.pt p = State.reset.pt p ∧ cleared t) ∧
    ((s.pt p).disp = .run → s.holder = some p → Runs (.unbindPartition p) s fun t => (t.pt p).unbinding = true ∧
      (t.pt p).bound = true ∧ (t.pt p).disp = .ending ∧ t.stream.status = .aborting ∧ t.stream.abort = some (.kill 0x1A 0 0) ∧ cleared t))

/-- R352: writing a row of the tenant table drops the entries and the counters of the tenants of the old and of the new row and
of no other. -/
def Claims.TenantRowsDropEntries : Prop := ∀ (o : TenantWrite) (s : State),
  let gone := fun n : BitVec 12 => (s.tenants[o.index].valid = true ∧ n = s.tenants[o.index].tenant) ∨ (o.row.valid = true ∧ n = o.row.tenant)
  Runs (.tenantRowWrite o) s fun t => t.tenants = s.tenants.set o.index o.row ∧
    (∀ e, e ∈ t.repEntries ↔ e ∈ s.repEntries ∧ ¬gone e.tenant) ∧ (∀ c, c ∈ t.repCounters ↔ c ∈ s.repCounters ∧ ¬gone c.tenant) ∧
    t = { s with tenants := t.tenants, repEntries := t.repEntries, repCounters := t.repCounters, pools := t.pools }

/-- Binding, unbinding and the tenant table (R111, R341, R344, R352): the claims above together. -/
def Obligations.PartitionsAndTenantsAreSet : Prop :=
  Claims.PartitionsAreBoundAndUnbound ∧ Claims.TenantRowsDropEntries

/-- R342, R343, R344, R365, R367: with a free stream a window that opens or closes is noted and changes nothing else; the start of a
gang's lead, due DRAIN and 4 µs before the opening of a GANG window that will take precedence over the holder (log 47), keeps the
stream for its partition and begins the holder's pre-emption, and so does the close of the holder's gang window; a pre-emption gives the holder until DRAIN later, and at that deadline a task still running is aborted. -/
def Claims.WindowsOpenAndPreempt : Prop := ∀ (s : State) (k : Fin 16),
  (s.holder = none → s.opens k = true → exec (.windowOpen k) s = .next { s with windows := s.windows.set k true }) ∧
  (∀ (h : PartNo) (tt : Nat), s.holder = some h → s.gangReady = none → let r := s.slotTable[k]
    (s.gangDue k = some tt ↔ r.gang = true ∧ r.nextOpen s.gtime.toNat = some tt ∧ r.part ≠ h ∧ s.gangHolder ≠ some r.part ∧
      s.gangHolderAt tt = some r.part ∧ tt ≤ s.gtime.toNat + 4000 + if (s.pt h).bind.drain = 0 then 200000 else (s.pt h).bind.drain.toNat)) ∧
  (s.holder = none → s.closes k = true → exec (.windowClose k) s = .next { s with windows := s.windows.set k false }) ∧
  (∀ (i : Instr) (h : PartNo), s.holder = some h → s.stream.preempt = none → s.stream.status ≠ .parked → s.stream.status ≠ .aborting →
    (i = .gangPreemptStart k ∧ s.gangDue k ≠ none ∨
      i = .windowClose k ∧ s.closes k = true ∧ s.slotTable[k].gang = true ∧ s.slotTable[k].part = h) →
    let d := if (s.pt h).bind.drain = 0 then 200000 else (s.pt h).bind.drain.toNat
    Runs i s fun t => t.stream = { s.stream with preempt := some (s.gtime.toNat + d) } ∧ (t.pt h).disp = .drain ∧
      t.mem = s.mem ∧ (i = .gangPreemptStart k → t.gangReady = (s.gangDue k).map fun tt => (s.slotTable[k].part, tt))) ∧
  (∀ (h : PartNo) (d : Nat), s.holder = some h → s.stream.status = .running → s.stream.preempt = some d → d ≤ s.gtime.toNat →
    Runs .drainDeadline s fun t => t.stream.status = .aborting ∧ t.stream.abort = some .deadline ∧ (t.pt h).disp = .ending ∧ t.mem = s.mem)

/-- R62, R181, R365: a pending pre-emption meets the stream at a wait point outside a stub: it runs the drain stub that covers the
bundle, with its position, and what it waits for, in the stub record, or parks where none does. -/
def Claims.PreemptionDivertsOrParks : Prop := ∀ s : State, s.mayDivert = true →
  let a := s.stream.pc.toNat / 32 * 32
  (s.stream.status = .running → ∀ (b r : List StubEntry) (e : StubEntry), s.stream.theTask.stubs = b ++ e :: r →
    e.first ≤ a → a < e.stop → (∀ x ∈ b, a < x.first ∨ x.stop ≤ a) → Runs .preemptDivert s fun t =>
      t.stream.pc = BitVec.ofNat 48 e.entry ∧ t.stream.pend = none ∧ t.stream.loops = [] ∧ t.stream.s = s.stream.s ∧ t.mem = s.mem ∧
      t.stream.wait = none ∧ ∃ x, t.stream.stub = some x ∧ x.pc = s.stream.pc ∧ x.pend = s.stream.pend ∧
        x.loops = s.stream.loops ∧ x.wait = s.stream.wait) ∧
  (s.stream.status = .completing ∨ (∀ e ∈ s.stream.theTask.stubs, a < e.first ∨ e.stop ≤ a) → exec .preemptDivert s = .next
    (s.onStream fun x => { x with status := .parked, hold := none }))

/-- Windows of the slot table and pre-emption (R342, R343, R344, R365, R367, R62, R181): the claims above together. -/
def Obligations.WindowsPreemptTheStream : Prop :=
  Claims.WindowsOpenAndPreempt ∧ Claims.PreemptionDivertsOrParks

/-- R18, R135, R307, R343, R368: a parked stream whose E-class work is over, and whose accesses are performed but for those that
wait for another partition's tick, is saved, and the stream is free; a pending swap of the shadow and the spare site comes with it
and is logged (that the two change places is the model's choice, log 72); a saved context that is preferred comes back as it was saved, with the arrivals held for it, and runs on. -/
def Claims.ContextsAreSavedAndRestored : Prop := ∀ s : State,
  (∀ p : PartNo, s.holder = some p → s.stream.status = .parked → (∀ e ∈ s.matrix, e.part ≠ p) → s.onlyHeld p = true →
    Runs .contextSave s fun t =>
      t.holder = none ∧ t.stream = State.reset.stream ∧ (t.pt p).disp = .parked ∧ t.mem = s.mem ∧ t.plates = s.plates ∧
      (t.shadow[p] = some { s.stream with q := s.stream.q.map (·.map QReg.landAll), preempt := none, hold := none }) ∧
      t.siteSwap = false ∧ t.siteLog = (if s.siteSwap then s.siteLog + 1 else s.siteLog) ∧
      ∀ k : Fin 3, t.sites[k] = if s.siteSwap then s.sites[k].map SiteRole.swapped else s.sites[k]) ∧
  (∀ (p : PartNo) (x : Stream), s.mayRestore p = true → s.shadow[p] = some x → Runs (.contextRestore p) s fun t =>
    t.holder = some p ∧ t.shadow[p] = none ∧ (t.pt p).disp = .run ∧ (t.pt p).heldBars = [] ∧ t.mem = s.mem ∧
    t.stream = { x with status := t.stream.status, hold := none, bars := t.stream.bars } ∧
    (t.stream.status = .running ∨ t.stream.status = .completing) ∧
    ((s.pt p).heldBars = [] → t.stream.bars = x.bars))

/-- R95, R341, R362, R363, R369, R370, R398: the Regulator kills a task for a trap with TRAPPED, but for an uncorrectable word; a
debugger's writes reach the registers, and its resumption lets the group issue again; the page that a stalled group asks for joins
the extents, or the task is aborted where its walk (once its reads have passed through the stash) fails; an abort whose packets wait for the merge of its tick has that merge (log 93), and one whose packets are over ends with the partition ready to go on, or unbound where it was to be. -/
def Claims.TrapsPagesAndAbortsAreSettled : Prop := ∀ (s : State) (p : PartNo), s.holder = some p →
  (s.stream.status = .trapped → s.trapNumber ≠ 0x14 → ∀ c : TrapChoice, (c.debugger = true → s.trapNumber ≠ 0x16) →
    Runs (.trapResolve c) s fun t => t.stream.status = .aborting ∧ (t.pt p).disp = .ending ∧ t.mem = s.mem ∧
      t.stream.abort = some (.kill 0x19 s.trapNumber s.stream.pc.toNat)) ∧
  (s.stream.status = .trapped → s.trapNumber = 0x16 → exec (.trapResolve ⟨true⟩) s = .next s ∧
    (∀ o : DebugWrites, Runs (.debugResume o) s fun t => t.stream.status = .running ∧ t.stream.pc = s.stream.pc ∧ t.mem = s.mem ∧
      t.stream.flags = o.flags.getD s.stream.flags ∧
      (∀ r, r ≠ 0 → t.sreg r = ((o.scalars.reverse.find? fun x => x.1 == r).map (·.2)).getD (s.sreg r)) ∧
      (∀ r : Fin 8, t.stream.m[r] = ((o.ms.reverse.find? fun x => x.1 == r).map (·.2)).getD s.stream.m[r]) ∧
      (∀ k : Fin 524288, t.stream.acc.get k.val = ((o.cells.reverse.find? fun x => x.1 == k).map (·.2)).getD (s.stream.acc.get k.val)) ∧
      (∀ r : Fin 8, t.stream.q[r] = ((o.qs.reverse.find? fun x => x.1 == r).map fun x => x.2.map QReg.written).getD s.stream.q[r]) ∧
      (∀ r : Fin 2, t.stream.latchC[r] = ((o.holdsC.reverse.find? fun x => x.1 == r).map (·.2)).getD s.stream.latchC[r]) ∧
      (t.pt p).seed = o.seed.getD (s.pt p).seed ∧
      (∀ r : Fin 64, o.es.all (fun x => x.1 != r) = true → t.stream.e[r] = s.stream.e[r])) ∧
    ∀ (r : RegNo) (k : Fin 1024) (w : Word), Runs (.debugResume { lanes := [(r, k, w)] }) s fun t =>
      ∀ q j, j < 1024 → t.lane q j = if q = r ∧ j = k then w else s.lane q j) ∧
  (∀ w va, s.stream.hold = some (.lazyPage w va) → let win := s.stream.theTask.win w
    let r := (s.afterWalk p va).walkPart p va win.attr.needs.1 win.attr.needs.2
    (∀ pa key large l, r = .ok pa key large →
      addPage s.stream.theTask.extents w va pa key large = some l → s.stream.task ≠ none → Runs .lazyTranslate s fun t =>
        t.stream.hold = none ∧ t.stream.theTask.unnoted = { s.stream.theTask with extents := l }.unnoted ∧
        (s.OneKey → ∀ a, t.byte a = s.byte a)) ∧
    (∀ x ∈ [(WalkResult.notMapped, AbortCause.lazyFault va w), (.poisoned, .lazyFault va w), (.denied, .kill 0x14 0 va),
        (.key, .kill 0x15 0 va)], r = x.1 → Runs .lazyTranslate s fun t =>
      t.stream.status = .aborting ∧ t.stream.abort = some x.2 ∧ (t.pt p).disp = .ending)) ∧
  (s.abortReady p = true → (s.pt p).ownPackets = true → Runs (.abortFinish p) s fun t =>
    t.holder = some p ∧ (t.pt p).disp = .ending ∧ (∀ h ∈ t.heldAccs, h.tag ≠ p) ∧ (∀ x ∈ t.staged, x.tag ≠ p) ∧
      (∀ x ∈ t.detLines, x.1 ≠ p) ∧ ∀ l ∈ t.loose, l.part ≠ p) ∧
  (s.abortReady p = true → (s.pt p).ownPackets = false → s.stream.task ≠ none →
    let gone := fun t : State => t.holder = none ∧ t.stream = s.stream.ended ∧ ∀ l ∈ t.loose, l.part ≠ p
    ((s.pt p).unbinding = true → s.stream.abort ≠ none → Runs (.abortFinish p) s fun t => gone t ∧ t.pt p = State.reset.pt p) ∧
    ((s.pt p).unbinding = false →
      (∀ code trap detail, s.stream.abort = some (.kill code trap detail) → Runs (.abortFinish p) s fun t =>
        gone t ∧ (t.pt p).disp = .idle ∧ (t.pt p).work = none) ∧
      (s.stream.abort = some .deadline → s.stream.requeues = true → Runs (.abortFinish p) s fun t =>
        gone t ∧ (t.pt p).disp = .translate ∧ (t.pt p).work = some s.stream.rework) ∧
      (∀ va w, s.stream.abort = some (.lazyFault va w) → s.stream.requeues = true → Runs (.abortFinish p) s fun t =>
        gone t ∧ (t.pt p).disp = .held ∧ (t.pt p).faultAddr = BitVec.ofNat 64 va ∧ (t.pt p).work = some s.stream.rework)))

/-- Saving and restoring contexts; traps, pages and aborts settled (R18, R135, R307, R343, R368, R95, R341, R362, R363, R369,
R370, R398): the claims above together. -/
def Obligations.ContextsTrapsAndAbortsAreSettled : Prop :=
  Claims.ContextsAreSavedAndRestored ∧ Claims.TrapsPagesAndAbortsAreSettled

/-- R27, R274, R275, R341, R375, R388: after power-good the package is in start-up stage 1 with no alarm, no key, no task and nothing
under way; the stream's registers are as at dispatch; the buckets' configurations, the lasers' TREND and EOL, EOLTHR and the slot table hold
their stated values. Home memory reads zero. That the stream's registers hold their dispatch values already at power-good is the
model's choice (log 2), and so are the zeros of home memory before stage 2 has scrubbed it (log 3). -/
def Claims.ResetLeavesTheStatedValues : Prop :=
  let s := State.reset
  s.stage = 1 ∧ s.fail = 0 ∧ s.alarm = 0 ∧ s.keys = [] ∧ s.session = false ∧ s.mbxEvents = [] ∧ s.mbxBusy = false ∧
    s.holder = none ∧ s.matrix = [] ∧ s.staged = [] ∧ s.repEntries = [] ∧ s.trained = 0 ∧ s.eolthr = 0xFF9C ∧
    (∀ r, s.sreg r = 0) ∧ (∀ r k, s.lane r k = 0) ∧ (∀ n : Fin 8, s.preg n = if n = 0 then BitVec.allOnes 1024 else 0) ∧
    (∀ a, s.byte a = 0) ∧ (∀ c : Fin 4, s.bucketCfg[c] = 0x0000_0F42_4010_0400#64) ∧ (∀ e, s.bucket e = 0) ∧
    (∀ k : Fin 72, s.lasers[k].trend = 0 ∧ s.lasers[k].eol = 0xFFFF_FFFF) ∧
    ∀ k : Fin 16, s.slotTable[k].valid = false

/-- R27: in every state s0 reads zero, p0 reads all true, and writes of either change nothing. -/
def Claims.HardWiredRegistersKeepTheirValues : Prop := ∀ s : State,
  s.sreg 0 = 0 ∧ s.preg 0 = BitVec.allOnes 1024 ∧ (∀ v, s.setS 0 v = s) ∧ (∀ v, s.setP 0 v = s) ∧
    ∀ r v q, (s.setS r v).sreg q = if q = 0 then 0 else if q = r then v else s.sreg q

/-- What reset leaves; the hard-wired registers (R27, R274, R275, R341, R375, R388): the claims above together. -/
def Obligations.ResetAndHardWiredRegisters : Prop :=
  Claims.ResetLeavesTheStatedValues ∧ Claims.HardWiredRegistersKeepTheirValues

/-- R83, log 3: the memory of the reset state lists nothing, and is in the model's canonical form, as are the slots that HBM4E holds lines under. -/
def Obligations.ResetMemoryIsCanonical : Prop := State.reset.mem = [] ∧ State.reset.Canonical

/-- Every step keeps home memory in its canonical form, and the list of the slots that HBM4E holds its lines under, here and in every
checkpoint image: equal memories are equal data (R83; the form is the model's). -/
def Obligations.StepsKeepMemoryCanonical : Prop :=
  ∀ s t : State, s.Canonical → step s = .next t → t.Canonical

/-- R35, R42, R43, R49-R55: the word of every well-formed instruction of the eight slots decodes, in its slot, to that instruction,
whatever its operands. -/
def Obligations.DecodingInvertsEncoding : Prop :=
  ∀ (i : Instr) (slot : Nat), i.wf = true → slotOf i = some slot → encode i < 2 ^ 31 ∧ decodeSlot slot (encode i) = .ok i

/-- R35, R42, R49-R55: a word that a slot accepts stands for a well-formed instruction of that slot (NOP for any), whose encoding is
the word with its stop bit clear: no word has a bit that nothing reads. -/
def Obligations.AcceptedWordsAreEncodings : Prop :=
  ∀ (slot w : Nat) (i : Instr), slot < 8 → w < 2 ^ 32 → decodeSlot slot w = .ok i →
    i.wf = true ∧ encode i = w % 2 ^ 31 ∧ (slotOf i = some slot ∨ i = .nop)

/-- R41, R195, R200, R225, R252, R258, R300, R359 and the listings: words that the spec writes out stand for the instructions it
names, in their slots; the MMA word of a routine, with calibre 0, is CALIBRE outside one. -/
def Obligations.WordsOfTheListingsDecode : Prop :=
  decodeSlot 0 0x12001004 = .ok (.loopi ⟨0, 4, 4⟩) ∧ decodeSlot 0 0x04C80001 = .ok (.brc ⟨.gez, 4, 1⟩) ∧
  decodeSlot 0 0x24800000 = .ok (.tick .die) ∧ decodeSlot 0 0x20900004 = .ok (.mfc ⟨9, 4⟩) ∧
  decodeSlot 0 0x1A000000 = .ok .park ∧
  decodeSlot 1 0x02418401 = .ok (.sub ⟨4, 3, 1⟩) ∧ decodeSlot 1 0x1C100000 = .ok (.ldarg ⟨1, 0, 0⟩) ∧
  decodeSlot 2 0x86408800 = .ok (.vmul ⟨false, 4, 1, 2, 0, .f32, .off, false⟩) ∧
  decodeSlot 3 0x08520D00 = .ok (.vfma ⟨true, 5, 4, 3, 2, .f32, .off, false⟩) ∧
  decodeSlot 2 0x08518408 = .ok (.vfma ⟨false, 5, 3, 1, 0, .f32, .latch false, false⟩) ∧
  decodeSlot 2 0x0860080A = .ok (.vfma ⟨false, 6, 0, 2, 0, .f32, .held false, false⟩) ∧
  decodeSlot 2 0x3C62B001 = .ok (.vcvt ⟨false, 6, 5, false, .e4m3, .sr, 0, .off, true⟩) ∧
  decodeSlot 2 0x46420880 = .ok (.vredadd ⟨4, 4, .c2, 1, .f32, .off, false⟩) ∧
  decodeSlot 5 0x0261C031 = .ok (.ldh ⟨6, 3, .i32, 3, 1⟩) ∧ decodeSlot 5 0x2C921D82 = .ok (.vaadd ⟨9, 4, 7, 3, .f32, 2⟩) ∧
  decodeSlot 6 0x02429840 = .ok (.mma ⟨4, 5, 3, .f32, .c2, .off, false, false⟩) ∧
  decodeSlot 6 0x02219001 = .error .calibre ∧ decodeSlot 6 0x100E0000 = .ok (.msave ⟨0, 28, .off, false⟩) ∧
  decodeSlot 7 0x02532800 = .ok (.copy ⟨5, 6, 2, true, false, .off⟩) ∧ decodeSlot 7 0x22100040 = .ok (.xcb ⟨1, 0, 0, .c2, .off⟩) ∧
  decodeSlot 7 0x2C000200 = .ok (.xwait 1) ∧ decodeSlot 7 0x40530000 = .ok (.repq ⟨5, 6, .off⟩) ∧
  decodeSlot 7 0x44000200 = .ok (.repx ⟨0, true, .off⟩)

/-- R29, R36, R37, R41, R173: where the stream's next group is what comes next, a step runs it, on the state in which its line has
been fetched: a group with one word beside NOPs runs that word's instruction on the state before the group; one that traps or holds
leaves the stream where it stands, else a segment at its END closes, the instruction acts and the position moves past the group.
Groups of several words that go on alone and depend on nothing of each other act together. No word names a register that still waits
for the word an atomic returns (its wait is the interlock's). -/
def Obligations.StepRunsTheDecodedGroup : Prop := ∀ (s : State) (ws : List Nat), s.Issues →
  let u := s.atIssue.fetched
  let k := pcSlot s.stream.pc
  let last := groupEnd ws 8 k
  u.bundle (pcBundle s.stream.pc) = some ws → s.atIssue.poisonedCode = false →
  u.interlocked (decodedOf (decodeGroup (groupWords ws k))) = false →
  (∀ (j w : Nat) (i : Instr), (j, w) ∈ groupWords ws k → (∀ x ∈ groupWords ws k, x.1 ≠ j → isNop x.2 = true) →
    decodeSlot j w = .ok i → ∃ t, exec i u = .next t ∧
      (¬Going t → step s = .next t.passTime.clockParent) ∧
      (Going t → ∃ r, exec i (u.onStream Stream.closeAtEnd) = .next r ∧
        (u.stream.stub ≠ none → r.stream.stub = none → step s = .next r.passTime.clockParent) ∧
        (u.stream.stub = none ∨ r.stream.stub ≠ none →
          let moved := r.onStream (Stream.advance last)
          let marked := if isSeg i then moved.onStream Stream.recordSeg else moved
          step s = .next (marked.onStream (Stream.boundary u.stream.theTask.points)).passTime.clockParent))) ∧
  (∀ l : List (Nat × Instr), (groupWords ws k).map (fun x => decodeSlot x.1 x.2) = l.map (fun x => .ok x.2) →
    l.map (·.1) = (groupWords ws k).map (·.1) → conflictSlot l = none →
    (∀ x ∈ l, ∃ t, exec x.2 u = .next t ∧ Going t) → step s = .next (finishGroup last l u).passTime.clockParent)

/-- R38, R40, R41: a bundle outside the code extent is a WINDOW trap of cause 3; a group with an illegal word reports ILLEGAL of the
lowest such slot, be it the decoder or an instruction that finds it so, else CALIBRE of the lowest slot with a bad calibre (ILLEGAL where it
holds an operand of an empty latch), else GROUPDEP where its words depend on each other; else it waits where a word names a register
that an atomic has still to return, else the trap of the lowest slot that takes one, before any wait of a full unit (log 36). What MUPD and
XCINS find in an image is an operand value (log 56). No word of it has acted. -/
def Obligations.GroupsReportOneTrap : Prop := ∀ s : State, s.Issues →
  (s.atIssue.fetched.bundle (pcBundle s.stream.pc) = none →
    step s = .next (s.atIssue.takeTrap { num := 5, slot := 0, cause := 3, info := pcBundle s.stream.pc }).passTime.clockParent) ∧
  (∀ ws, s.atIssue.fetched.bundle (pcBundle s.stream.pc) = some ws → s.atIssue.poisonedCode = false →
    let u := s.atIssue.fetched
    let g := decodeGroup (groupWords ws (pcSlot s.stream.pc))
    (∀ x ∈ g, (x.2 = .error .illegal → slotTrap u 0 x = some (u.takeTrap { num := 1, slot := x.1 })) ∧
      (x.2 = .error .calibre → slotTrap u 1 x = some (u.takeTrap { num := 3, slot := x.1 }) ∧ slotTrap u 0 x = none) ∧
      (x.2 = .error .calibreHeld → if u.latchEmpty x.1 = true then slotTrap u 0 x = some (u.takeTrap { num := 1, slot := x.1 })
        else slotTrap u 1 x = some (u.takeTrap { num := 3, slot := x.1 }) ∧ slotTrap u 0 x = none) ∧
      ∀ i, x.2 = .ok i → ∀ r t, slotTrap u r x = some t ↔
        exec i u = .next t ∧ t.stream.status = .trapped ∧ trapRank u i t.trapNumber = r) ∧
    (∀ i n, (∀ o, i ≠ .mupd o ∧ i ≠ .xcins o) → trapRank u i n = if n = 1 then 0 else if n = 3 then 1 else 3) ∧
    (∀ r ∈ [0, 1, 3], ∀ x ∈ g, ∀ t, slotTrap u r x = some t → (∀ y ∈ g, ∀ q, q < r → slotTrap u q y = none) →
      (∀ y ∈ g, y.1 < x.1 → slotTrap u r y = none) → 
      (r = 3 → conflictSlot (decodedOf g) = none ∧ u.interlocked (decodedOf g) = false) → step s = .next t.passTime.clockParent) ∧
    (∀ k, conflictSlot (decodedOf g) = some k → (∀ y ∈ g, slotTrap u 0 y = none ∧ slotTrap u 1 y = none) →
      step s = .next (u.takeTrap { num := 2, slot := k }).passTime.clockParent) ∧
    (conflictSlot (decodedOf g) = none → (∀ y ∈ g, slotTrap u 0 y = none ∧ slotTrap u 1 y = none) →
      ((∃ x ∈ decodedOf g, ∃ r ∈ (usesOf x.2).reads ++ (usesOf x.2).writes ++ sysArgs x.2, u.owes r = true) ↔
        u.interlocked (decodedOf g) = true) ∧
      (u.interlocked (decodedOf g) = true → step s = .next (u.holdFor .stall).passTime.clockParent) ∧
      (u.interlocked (decodedOf g) = false → (∀ y ∈ g, slotTrap u 3 y = none) → ∀ (b c : List (Nat × Instr)) (x : Nat × Instr),
        decodedOf g = b ++ x :: c → (∀ y ∈ b, fateOf u y.2 ≠ .holds) → ∀ t, exec x.2 u = .next t → t.stream.status ≠ .trapped →
        t.stream.hold ≠ none → step s = .next t.passTime.clockParent)))

/-- R394 and the order of what happens (log 1, 14, 81): an act of the outside world comes first and is exec of it; then a step that is
due; then one of the steps that can come, or the stream's group. A package without power takes nothing but power. Under an alarm of
level 2 streams and engines stand still: nothing comes of the package itself, no instruction of a slot has an effect; time goes on. -/
def Claims.StepTakesTheNextAct : Prop := ∀ s : State,
  (∀ (i : Instr) (rest : List Instr), s.agenda = i :: rest → s.powered = true → s.alarm.val < 2 ∨ metInHalt i = true → ∃ t,
    exec i { s with agenda := rest } = .next t ∧ step s = .next t.passTime.clockParent) ∧
  (∀ (i : Instr) (rest : List Instr), s.agenda = i :: rest →
    s.powered = false ∧ i ≠ .powerGood ∨ 2 ≤ s.alarm.val ∧ metInHalt i = false →
    step s = .next ({ s with agenda := rest } : State).passTime.clockParent) ∧
  (∀ (slot w : Nat) (i : Instr), decodeSlot slot w = .ok i → metInHalt i = false) ∧
  (s.agenda = [] → 2 ≤ s.alarm.val → step s = .next s.passTime.clockParent) ∧
  (s.agenda = [] → s.alarm.val < 2 → ∀ (h : Happening) (l : List Happening), s.dueNow = h :: l →
    ∃ t, h.run s = .next t ∧ step s = .next t.passTime.clockParent) ∧
  (s.agenda = [] → s.alarm.val < 2 → s.dueNow = [] → s.enabled ≠ [] → ∃ t, step s = .next t.passTime.clockParent ∧
    ((∃ h ∈ s.enabled, h.run s.spend = .next t) ∨ s.canIssue = true ∧ t = s.spend.issue)) ∧
  (s.agenda = [] → s.alarm.val < 2 → s.dueNow = [] → s.enabled = [] → s.canIssue = false → step s = .next s.passTime.clockParent)

/-- No instruction, no event and no step ends in a stop: exec and step answer a next state in every state (R394 stops the streams
and the engines, which is a state of the machine). -/
def Claims.NothingStopsTheMachine : Prop :=
  (∀ (i : Instr) (s : State), ∃ t, exec i s = .next t) ∧ ∀ s : State, ∃ t, step s = .next t

/-- What a step takes next; that nothing stops it (R394): the claims above together. -/
def Obligations.StepTakesTheNextAct : Prop :=
  Claims.StepTakesTheNextAct ∧ Claims.NothingStopsTheMachine

/-- R363, R364: taking a trap writes the six words of the record, with the position and the pending target as they stand, tells the
mailbox (event 8: trap and partition) and stops the stream; registers, memory and everything else stay. -/
def Obligations.TakingATrapRecordsAndStops : Prop := ∀ (tr : Trap) (s : State), tr.num < 256 → tr.slot < 8 → tr.win < 16 →
  tr.cause < 16 → tr.elem < 4096 → tr.word < 16 → tr.info < 2 ^ 64 → s.mbxEvents.length < 256 →
  let t := s.takeTrap tr
  let w := fun k : Fin 6 => t.trapRecord[k].toNat
  bits (w 0) 0 8 = tr.num ∧ bits (w 0) 8 3 = tr.slot ∧ bits (w 0) 16 4 = tr.win ∧ bits (w 0) 20 4 = tr.cause ∧
    bits (w 0) 24 12 = tr.elem ∧ bits (w 0) 36 4 = tr.word ∧ bits (w 0) 11 5 = 0 ∧ bits (w 0) 40 24 = 0 ∧
    bits (w 1) 0 48 = s.stream.pc.toNat ∧ bits (w 1) 48 1 = (if s.stream.pend = none then 0 else 1) ∧
    (s.stream.loops.length ≤ 6 → bits (w 1) 49 3 = s.stream.loops.length) ∧ bits (w 1) 52 12 = 0 ∧
    (∀ a, s.stream.pend = some (.branch a) ∨ s.stream.pend = some (.call a) → w 2 = a.toNat) ∧
    (∀ a, s.stream.pend = some (.skip a) → w 2 = (a + 32).toNat) ∧ (s.stream.pend = none → w 2 = 0) ∧
    (s.stream.pend = some .done → w 2 = s.stream.theTask.entry % 2 ^ 48) ∧
    w 3 = tr.info ∧ t.trapRecord[(4 : Fin 6)] = s.gtime ∧ t.trapRecord[(5 : Fin 6)] = s.stream.taskid ∧
    t.stream = { s.stream with status := .trapped } ∧
    t.mbxEvents = s.mbxEvents ++ [⟨8, s.dieNo, BitVec.ofNat 32 (tr.num + s.part.val * 2 ^ 8)⟩] ∧
    t = { s with trapRecord := t.trapRecord, stream := t.stream, mbxEvents := t.mbxEvents }

/-- R41, R363: an instruction of the eight slots that traps, in a stream that had not, has done nothing else: the state it leaves is
that of taking one trap in the state before it, with every register, plate and byte, and the position, as they were. -/
def Obligations.TrapsArePrecise : Prop := ∀ (slot w : Nat) (i : Instr) (s t : State), decodeSlot slot w = .ok i →
  s.stream.status ≠ .trapped → exec i s = .next t → t.stream.status = .trapped →
  ∃ tr : Trap, t = s.takeTrap tr ∧ t.trapRecord = s.trapWords tr ∧ t.stream = { s.stream with status := .trapped } ∧
    t.mem = s.mem ∧ t.plates = s.plates ∧ t.matrix = s.matrix ∧ t.parts = s.parts

/-- R5, R285: GTIME only counts: no instruction and no event changes it but SETTIME in stage 3 and a loss of power; a step adds the
nanoseconds that pass, corrected by at most one in 20,000 of them, and never takes away; the clock of the path to the parent, which runs
beside it, changes nothing of it. The credit that this keeps stays below
20,000 (the model's own count, log 5). -/
def Obligations.GtimeOnlyCounts : Prop :=
  (∀ (i : Instr) (s t : State), exec i s = .next t → t.gtime ≠ s.gtime → i = .powerLoss ∨ s.stage = 3 ∧ ∃ tag, i = .settime tag) ∧
  (∀ s t : State, step s = .next t → t.slewCredit < 20000) ∧
  (∀ s : State, s.clockParent = { s with timeLost := s.clockParent.timeLost, timeTold := s.clockParent.timeTold }) ∧
  (∀ s : State, s.slewCredit < 20000 → ∃ (n : Nat) (k : Int), s.passTime.gtime = s.gtime + BitVec.ofInt 64 (n + k) ∧ 0 ≤ n + k ∧
    k.natAbs * 20000 ≤ s.slewCredit + n ∧ s.passTime.slew = s.slew - k ∧ k.natAbs ≤ s.slew.natAbs ∧ (k = 0 ∨ (0 < k ↔ 0 < s.slew)) ∧
    s.passTime = { s with gtime := s.passTime.gtime, slew := s.passTime.slew, slewCredit := s.passTime.slewCredit,
                          cycle := s.passTime.cycle, free := s.passTime.free })

/-- R6, R97, R106, R111, R341, R346, R386, R388: no instruction of the eight slots, whatever its operands, changes the package (start-up,
mailbox command, keys, alarms, time, slot and tenant tables, firmware, trained links), staged lines, held updates, landings, the
saved registers or anything else of another partition, its own binding, or a plate cell outside its share. -/
def Obligations.WordsStayInTheirPartition : Prop := ∀ (slot w : Nat) (i : Instr) (s t : State) (p : PartNo),
  decodeSlot slot w = .ok i → s.holder = some p → exec i s = .next t →
  t = { s with
    stream := t.stream, shadow := t.shadow, mem := t.mem, plates := t.plates, abuf := t.abuf, stash := t.stash,
    lineKeys := t.lineKeys, poison := t.poison, platePoison := t.platePoison, poisonTables := t.poisonTables, loose := t.loose,
    accNo := t.accNo, matrix := t.matrix, matrixCount := t.matrixCount, atoms := t.atoms, atomInstr := t.atomInstr,
    detSent := t.detSent, parts := t.parts, repEntries := t.repEntries, repCounters := t.repCounters, pools := t.pools,
    trapRecord := t.trapRecord, links := t.links, mbxEvents := t.mbxEvents, mbxLost := t.mbxLost, outbox := t.outbox,
    free := t.free } ∧
  (∀ q : PartNo, q ≠ p → t.shadow[q].map Stream.unnoted = s.shadow[q].map Stream.unnoted) ∧
  (∀ c, (∀ slab off, slab < 16 → off < s.share p → s.plateCell p slab off ≠ c) → t.plates.get c = s.plates.get c) ∧
  (t.pt p).bind = (s.pt p).bind ∧ ∀ q : PartNo, q ≠ p → t.pt q = s.pt q

/-- R72-R76, R78-R80, R155: each operation on finite values is the rounding of its exact result (sums, differences, products, fused
forms, quotients, roots, conversions between floats and from and to integers): the neighbours of R73, the mode's choice, SR by R74,
overflow by R75, an exact zero with the sign of R78, NX and UF; a float to an integer rounds to a whole number and clamps. -/
def Claims.OperationsRoundTheirExactResult : Prop := ∀ (f : Fmt) (rm : RoundMode) (sat : Bool) (a b c : Nat), f ∈ floatFormats →
  let x := f.decode a
  let y := f.decode b
  let z := f.decode c
  (x.IsFin → y.IsFin →
    RoundsTo f rm 0 sat (x.rat + y.rat) (if x.isNeg = y.isNeg then x.isNeg else rm == .rd) (f.addOp rm sat a b) ∧
    RoundsTo f rm 0 sat (x.rat - y.rat) (if x.isNeg = y.isNeg then rm == .rd else x.isNeg) (f.subOp rm sat a b) ∧
    RoundsTo f rm 0 sat (x.rat * y.rat) (x.isNeg != y.isNeg) (f.mulOp rm sat a b) ∧
    (y.rat ≠ 0 → RoundsTo f rm 0 sat (x.rat / y.rat) (x.isNeg != y.isNeg) (f.divOp rm sat a b)) ∧
    (∀ negP negC : Bool, z.IsFin → let sp := (x.isNeg != negP) != y.isNeg
      let sc := z.isNeg != negC
      RoundsTo f rm 0 sat ((if negP then -(x.rat * y.rat) else x.rat * y.rat) + (if negC then -z.rat else z.rat))
        (if sp = sc then sp else rm == .rd) (f.fmaOp rm sat negP negC a b c))) ∧
  (x.IsFin → (x.rat = 0 → f.sqrtOp rm sat a = (f.signed x.isNeg 0, 0)) ∧ (x.rat < 0 → f.sqrtOp rm sat a = nanWith f flNV) ∧
    (0 < x.rat → Rounds f rm 0 sat false (fun q => q < 0 ∨ q * q ≤ x.rat) (fun q => q < 0 ∨ q * q < x.rat) (f.sqrtOp rm sat a))) ∧
  (∀ (g : Fmt) (r16 : Nat), g ∈ floatFormats → r16 < 65536 → (x.IsFin → RoundsTo g rm r16 sat x.rat x.isNeg (convert g rm r16 sat x)) ∧
    (∀ n : Int, RoundsTo g rm r16 sat n false (ofInt g rm r16 sat n)) ∧
    (∀ (signed : Bool) (n : Nat), x.IsFin → n = 8 ∨ n = 16 ∨ n = 32 ∨ n = 64 →
      let lo : Int := if signed then -(2 ^ (n - 1)) else 0
      let hi : Int := if signed then 2 ^ (n - 1) - 1 else 2 ^ n - 1
      let v := if x.rat < 0 then -x.rat else x.rat
      ∃ k w : Nat, (k : Rat) ≤ v ∧ v < k + 1 ∧ (v = k → w = k) ∧
        (v ≠ k → w = match rm with
          | .rne => if v < k + 1 / 2 then k else if (k : Rat) + 1 / 2 < v then k + 1 else if k % 2 = 0 then k else k + 1
          | .rz => k
          | .ru => if x.isNeg then k else k + 1
          | .rd => if x.isNeg then k + 1 else k
          | .sr => if 65536 ≤ ((v - k) * 65536).floor.toNat + r16 then k + 1 else k) ∧
        let i : Int := if x.isNeg then -(w : Int) else w
        toInt signed n rm r16 x = if i < lo then ((lo % 2 ^ n).toNat, flNV ||| flSAT)
          else if hi < i then ((hi % 2 ^ n).toNat, flNV ||| flSAT) else ((i % 2 ^ n).toNat, if v = k then 0 else flNX)))

/-- R75-R77, R80: NaN and infinite operands: a NaN gives the canonical NaN, NV if one is signalling or the operation is one of R76's;
an infinite result is written as R75 says, a finite number over zero with DZ; minimum and maximum take the number where one is
NaN, -0 below +0. -/
def Claims.SpecialValuesFollowTheirRules : Prop := ∀ (f : Fmt) (rm : RoundMode) (sat : Bool) (a b c : Nat), f ∈ floatFormats →
  let x := f.decode a
  let y := f.decode b
  let z := f.decode c
  let nan := fun v : FVal => v = .nan true ∨ v = .nan false
  let loud := fun l : List FVal => if .nan true ∈ l then flNV else (0 : Flags)
  (nan x ∨ nan y → f.addOp rm sat a b = nanWith f (loud [x, y]) ∧ f.subOp rm sat a b = nanWith f (loud [x, y]) ∧
    f.mulOp rm sat a b = nanWith f (loud [x, y]) ∧ f.divOp rm sat a b = nanWith f (loud [x, y])) ∧
  (∀ p, x = .inf p → (y.IsFin → f.addOp rm sat a b = infWith f sat p 0 ∧ f.addOp rm sat b a = infWith f sat p 0 ∧
      f.subOp rm sat a b = infWith f sat p 0 ∧ f.subOp rm sat b a = infWith f sat (!p) 0 ∧
      (f.mulOp rm sat a b = if y.rat = 0 then nanWith f flNV else infWith f sat (p != y.isNeg) 0) ∧
      f.mulOp rm sat b a = f.mulOp rm sat a b ∧ f.divOp rm sat a b = infWith f sat (p != y.isNeg) 0 ∧
      f.divOp rm sat b a = (f.signed (p != y.isNeg) 0, 0)) ∧
    (∀ q, y = .inf q → f.addOp rm sat a b = (if p = q then infWith f sat p 0 else nanWith f flNV) ∧
      f.subOp rm sat a b = (if p = q then nanWith f flNV else infWith f sat p 0) ∧
      f.mulOp rm sat a b = infWith f sat (p != q) 0 ∧ f.divOp rm sat a b = nanWith f flNV) ∧
    f.sqrtOp rm sat a = if p then nanWith f flNV else infWith f sat false 0) ∧
  (x.IsFin → y.IsFin → y.rat = 0 → f.divOp rm sat a b =
    if x.rat = 0 then nanWith f flNV else infWith f sat (x.isNeg != y.isNeg) flDZ) ∧
  (nan x → f.sqrtOp rm sat a = nanWith f (loud [x])) ∧
  (∀ negP negC, (nan x ∨ nan y) → f.fmaOp rm sat negP negC a b c = nanWith f (loud [x, y, z])) ∧
  (∀ negP negC, x.IsFin → y.IsFin → (nan z → f.fmaOp rm sat negP negC a b c = nanWith f (loud [z])) ∧
    (∀ p, z = .inf p → f.fmaOp rm sat negP negC a b c = infWith f sat (p != negC) 0)) ∧
  (∀ (g : Fmt) (r16 : Nat), g ∈ floatFormats → (nan x → convert g rm r16 sat x = nanWith g (loud [x])) ∧
    (∀ p, x = .inf p → convert g rm r16 sat x = infWith g sat p 0)) ∧
  (∀ (signed : Bool) (n r16 : Nat), nan x → toInt signed n rm r16 x = (0, flNV)) ∧
  (a < 2 ^ f.width → b < 2 ^ f.width → ∀ most : Bool, let r := f.minMax most a b
    let below := fun u v : FVal => u.rat < v.rat ∨ (u.rat = 0 ∧ v.rat = 0 ∧ u.isNeg = true ∧ v.isNeg = false)
    r.2 = loud [x, y] ∧ (nan x → nan y → r.1 = f.canon) ∧ (nan x → ¬nan y → r.1 = b) ∧ (¬nan x → nan y → r.1 = a) ∧
    (x.IsFin → y.IsFin → r.1 = if most then (if below x y then b else a) else if below y x then b else a) ∧
    (∀ p, x = .inf p → ¬nan y → r.1 = if most = p then b else a) ∧
    (∀ q, x.IsFin → y = .inf q → r.1 = if most = q then a else b))

/-- R196, R210: the sixteen bits of lane k of a stochastic conversion are the low bits of the generator at a hash of the word's address,
TICKNO, ITER and the six indices. -/
def Claims.StochasticBitsFollowThePosition : Prop := ∀ (s : State) (slot k : Nat),
  let mix := fun (z : DWord) =>
    let a := (z ^^^ (z >>> 30)) * 0xBF58476D1CE4E5B9#64
    let b := (a ^^^ (a >>> 27)) * 0x94D049BB133111EB#64
    b ^^^ (b >>> 31)
  let x := s.stream
  let pair := fun (j l : Fin 6) => BitVec.ofNat 64 (x.i[j].toNat + 2 ^ 32 * x.i[l].toNat)
  let a := BitVec.ofNat 64 (x.pc.toNat / 32 * 32 + 4 * slot)
  let h := mix (mix (mix (mix (mix (a ^^^ (x.tickno <<< 48)) ^^^ x.iter) ^^^ pair 0 1) ^^^ pair 2 3) ^^^ pair 4 5)
  s.draw16 slot k = (mix (x.seedsnap ^^^ mix (h ^^^ BitVec.ofNat 64 k))).toNat % 65536

/-- Floating-point operations and conversions: the rounding of the exact result (R72-R76, R78-R80, R155, R75-R77, R80, R196,
R210): the claims above together. -/
def Obligations.NumbersAreRoundedOnce : Prop :=
  Claims.OperationsRoundTheirExactResult ∧ Claims.SpecialValuesFollowTheirRules ∧ Claims.StochasticBitsFollowThePosition

/-- R65-R68, R70, R221, R222, R224, R229: what a product's operands are: an element's value with its scale, flushed first under calibres
1 and 5; A from the plates or an A buffer, its scales beside it; of compressed B the positions its metadata marks, the lowest N,
each with the next value. -/
def Claims.ProductsReadTheirElements : Prop :=
  (∀ (fm : Nat) (ftz : Bool) (sc : Option Nat) (code : Nat), fm ≤ 6 → ∀ f, mFmt fm = some f → let c := code % 2 ^ f.width
    let v := f.decode (if ftz = true ∧ c / 2 ^ f.mbits % 2 ^ f.ebits = 0 then f.signed (bit c (f.ebits + f.mbits)) 0 else c)
    let r := mElem fm ftz sc c
    let flushed := ftz = true ∧ c / 2 ^ f.mbits % 2 ^ f.ebits = 0 ∧ c % 2 ^ f.mbits ≠ 0
    r.2 = 0 ∧ (sc = none → r.1 = v) ∧ (sc = some 255 → r.1 = if flushed then v else .nan false) ∧
    (∀ e, sc = some e → e < 255 → (v.IsFin → r.1.IsFin ∧ r.1.rat = v.rat * (2 : Rat) ^ ((e : Int) - 127) ∧ r.1.isNeg = v.isNeg) ∧
      (¬v.IsFin → r.1 = v))) ∧
  (∀ (ftz : Bool) (code : Nat), (mElem 7 ftz none (code % 256)).1.rat = ((Int.bmod code 256 : Int) : Rat) ∧
    (mElem 8 ftz none (code % 4)).1.rat = (if code % 4 = 1 then 1 else if code % 4 = 3 then -1 else 0) ∧
    (mElem 8 ftz none (code % 4)).2 = if code % 4 = 2 then flT2R else 0) ∧
  (∀ (s : State) (g : Geo) (ftz : Bool) (at0 slab i k : Nat), k < mStep g.afmt * g.steps →
    let p := k / mStep g.afmt
    let n := mSlot g.afmt
    let c := mStep g.afmt / 32
    let ab := fun o => ((g.asrc - 2) * 16 + slab) * 26624 + o
    let num := if g.asrc = 0 then s.plateNum s.part slab (at0 + 64 * n * p + n * i) n
      else ((List.range n).map fun b => (s.abuf.get (ab (384 * i + n * p + b))).toNat * 256 ^ b).sum
    let q := k % mStep g.afmt
    (s.rowA g ftz at0 slab i)[k]? = some (mElem g.afmt ftz
      (if g.amx = false then none
       else if g.asrc = 0 then some (s.plateNum s.part slab (g.asb + 64 * c * p + c * i + q / 32) 1)
       else some (s.abuf.get (ab (24576 + 32 * i + c * p + q / 32))).toNat)
      (num / 2 ^ (mBits g.afmt * q) % 2 ^ mBits g.afmt))) ∧
  (∀ (s : State) (g : Geo) (ftz : Bool) (at0 slab j k : Nat), mStep g.bfmt = mStep g.afmt → k < mStep g.bfmt * g.steps →
    let p := k / mStep g.bfmt
    let n := mSlot g.bfmt
    let c := mStep g.bfmt / 32
    let q := k % mStep g.bfmt
    (s.colB g ftz at0 slab j)[k]? = some (k, mElem g.bfmt ftz
      (if g.bmx then some (s.plateNum s.part slab (g.bsb + 64 * c * p + c * j + q / 32) 1) else none)
      (s.plateNum s.part slab (at0 + 64 * n * p + n * j) n / 2 ^ (mBits g.bfmt * q) % 2 ^ mBits g.bfmt))) ∧
  (∀ (s : State) (g : Geo) (ftz : Bool) (at0 slab j : Nat),
    let bytes := mBits g.bfmt / 8
    let most := if g.spr.testBit 32 then 12 else 24
    let slot := (most * bytes + 15) / 16 * 16
    let marked := fun k : Nat => (s.plateNum s.part slab (g.mbase + 512 * (k / 48) + 8 * j) 6).testBit (k % 48)
    let nth := fun k : Nat => ((List.range (k % 48)).filter fun b => marked (48 * (k / 48) + b)).length
    s.colSparse g ftz at0 slab j = ((List.range (48 * (g.k / 48))).filter fun k => marked k && decide (nth k < most)).map fun k =>
      (k, mElem g.bfmt ftz none (s.plateNum s.part slab (at0 + 64 * slot * (k / 48) + slot * j + nth k * bytes) bytes)))

/-- R79, R207, R222-R224: a cell's new code: the terms of a group are the code so far and the products present; under calibre 1 each is
cut toward zero 26 bits below the largest; the exact sum is rounded RNE, a subnormal one flushed under calibres 1 and 5; groups of
16, 16, K, 1, K and 64 follow one another; with K = 0 the code stays. NaN and infinite terms follow R76. -/
def Claims.CellsAreRoundedByTheirCalibre : Prop :=
  (∀ (cal : Calibre) (af : AccFmt) (k c : Nat) (row : Array (FVal × Flags)) (col : List (Nat × FVal × Flags)),
    (col.map (·.1)).Pairwise (· < ·) → (∀ x ∈ col, x.1 < k) →
    let f := accFmt af
    let flush := cal == .c1 || cal == .c5
    let size := match cal with | .c1 | .c2 => 16 | .c3 | .c5 => max k 1 | .c4 => 1 | .c6 => 64
    let sub := fun x : Nat => x / 2 ^ f.mbits % 2 ^ f.ebits = 0 ∧ x % 2 ^ f.mbits ≠ 0
    let zero := fun x : Nat => f.signed (bit x (f.ebits + f.mbits)) 0
    let at' := fun n : Nat => row.getD n (.fin false 0 0, 0)
    let terms := fun (g x : Nat) =>
      let l := f.decode x :: (col.filter fun y => y.1 / size == g).map fun y => (FVal.mul (at' y.1).1 y.2.1).1
      if cal = .c1 then truncTerms 26 l else l
    ∃ cs : List (Nat × Flags), cs.length = (k + size - 1) / size + 1 ∧
      cs.head?.map (·.1) = some (if flush = true ∧ sub c then zero c else c) ∧
      (∀ x, cs.head? = some x → ∀ b, b < 7 → (x.2.getLsbD b = true ↔
        ∃ y ∈ col, ((FVal.mul (at' y.1).1 y.2.1).2 ||| (at' y.1).2 ||| y.2.2).getLsbD b = true)) ∧
      (∀ g x y, cs[g]? = some x → cs[g + 1]? = some y →
        let r := f.sumOf (terms g x.1)
        y = if flush = true ∧ sub r.1 then (zero r.1, x.2 ||| r.2 ||| flUF ||| flNX) else (r.1, x.2 ||| r.2)) ∧
      cs.getLast? = some (cellDot cal f k c row col)) ∧
  (∀ (w : Nat) (l : List FVal), (truncTerms w l).length = l.length ∧ ∀ (j : Nat) (u v : FVal), l[j]? = some u → (truncTerms w l)[j]? = some v →
    (¬u.IsFin → v = u) ∧ (u.IsFin → v.IsFin ∧ v.isNeg = u.isNeg) ∧
    ∀ e : Int, let mag := fun x : FVal => if x.rat < 0 then -x.rat else x.rat
      (∃ x ∈ l, x.IsFin ∧ (2 : Rat) ^ e ≤ mag x) → (∀ x ∈ l, mag x < (2 : Rat) ^ (e + 1)) → u.IsFin →
      ∃ n : Nat, mag v = n * (2 : Rat) ^ (e - w) ∧ mag v ≤ mag u ∧ mag u < (n + 1) * (2 : Rat) ^ (e - w)) ∧
  (∀ (f : Fmt) (l : List FVal), f ∈ [fmtF32, fmtBf16, fmtF16] →
    ((∀ x ∈ l, x.IsFin) → RoundsTo f .rne 0 false (l.foldl (fun a x => a + x.rat) 0) (l.all fun x => x.isZero && x.isNeg) (f.sumOf l)) ∧
    ((∃ x ∈ l, x.isNan = true) → f.sumOf l = (f.canon, if .nan true ∈ l then flNV else 0)) ∧
    ((∀ x ∈ l, x.isNan = false) → (.inf false ∈ l ∧ .inf true ∈ l → f.sumOf l = (f.canon, flNV)) ∧
      (∀ p, .inf p ∈ l → .inf (!p) ∉ l → f.sumOf l = (f.signed p (f.top + 1), 0)))) ∧
  (∀ x y : FVal, x.IsFin → y.IsFin → (FVal.mul x y).1.IsFin ∧ (FVal.mul x y).1.rat = x.rat * y.rat ∧ (FVal.mul x y).2 = 0 ∧
    (FVal.mul x y).1.isNeg = (x.isNeg != y.isNeg)) ∧
  (∀ x y : FVal, ¬(x.IsFin ∧ y.IsFin) → FVal.mul x y =
    if x.isNan = true ∨ y.isNan = true then (.nan false, if x = .nan true ∨ y = .nan true then flNV else 0)
    else if x.isZero = true ∨ y.isZero = true then (.nan false, flNV) else (.inf (x.isNeg != y.isNeg), 0))

/-- R67, R71, R82, R233: a block: an all-zero one takes scale 0, any other its largest magnitude's exponent less emax(F), within range;
each element is the rounding of its value over the scale, saturating; a NaN or infinity gives scale 0xFF, zero elements and NV. In
MDRAIN a block with a NaN cell follows R82 or R233's last sentences (elements 0x7F in E4M3, no NV of a quiet NaN), a free choice
(log 71). -/
def Claims.BlocksShareTheirScale : Prop :=
  ∀ (f : Fmt) (top : Int) (rm : RoundMode) (r16 : Nat → Nat) (vals : List FVal),
    (f, top) ∈ [(fmtE4m3, (8 : Int)), (fmtE5m2, 15), (fmtE3m2, 4), (fmtE2m3, 2), (fmtE2m1, 2)] → (∀ i, r16 i < 65536) →
    let r := mxBlock f rm r16 vals
    let mag := fun x : FVal => if x.rat < 0 then -x.rat else x.rat
    ((∃ x ∈ vals, ¬x.IsFin) → r = (255, vals.map fun _ => 0, flNV)) ∧
    ((∀ x ∈ vals, x.IsFin) → ∃ (e : Int) (gs : List Flags), -127 ≤ e ∧ e ≤ 127 ∧ r.1 = (e + 127).toNat ∧ gs.length = vals.length ∧
      r.2.1.length = vals.length ∧ ((∀ x ∈ vals, x.rat = 0) → e = -127) ∧
      (∀ l : Int, (∃ x ∈ vals, (2 : Rat) ^ l ≤ mag x) → (∀ x ∈ vals, mag x < (2 : Rat) ^ (l + 1)) → e = max (-127) (min 127 (l - top))) ∧
      (∀ i x c g, vals[i]? = some x → r.2.1[i]? = some c → gs[i]? = some g →
        RoundsTo f rm (r16 i) true (x.rat * (2 : Rat) ^ (-e)) x.isNeg (c, g)) ∧
      ∀ b, b < 7 → (r.2.2.getLsbD b = true ↔ ∃ g ∈ gs, g.getLsbD b = true)) ∧
    ((∀ x ∈ vals, x.isNan = false) ∨ Config.nanDrainByR82 = true → drainBlock f rm r16 vals = r) ∧
    ((∃ x ∈ vals, x.isNan = true) → Config.nanDrainByR82 = false → drainBlock f rm r16 vals =
      (255, vals.map fun x => if x.isNan = true ∧ f = fmtE4m3 then 0x7F else 0,
        if ∃ x ∈ vals, x = .nan true ∨ x = .inf true ∨ x = .inf false then flNV else 0))

/-- The operands of a product, its cells by calibre, the blocks of a drain (R65-R68, R70, R221, R222, R224, R229, R79, R207,
R222-R224, R67, R71, R82, R233): the claims above together. -/
def Obligations.MatrixOperandsAndCells : Prop :=
  Claims.ProductsReadTheirElements ∧ Claims.CellsAreRoundedByTheirCalibre ∧ Claims.BlocksShareTheirScale
end

