-- ==== Sys2Proof/Laws/Cells.lean ====
section
/-!
SUPPORT. What the operations of Machine/Cells do: reads after writes, and the canonical form.
-/
namespace Sys2Proof.Machine

variable {w : Nat}

@[simp] theorem Cells.get_nil (a : Nat) : Cells.get ([] : Cells w) a = 0#w := rfl

theorem Cells.get_cons (b : Nat) (v : BitVec w) (t : Cells w) (a : Nat) :
    Cells.get ((b, v) :: t) a = if b = a then v else Cells.get t a := rfl

/-- A cell with no entry reads 0. -/
theorem Cells.get_of_absent (c : Cells w) (a : Nat) (h : ∀ p ∈ c, p.1 ≠ a) : c.get a = 0#w := by
  induction c with
  | nil => rfl
  | cons p t ih =>
    obtain ⟨b, v⟩ := p
    have hb : b ≠ a := h (b, v) (by simp)
    simp only [Cells.get_cons, hb, if_false]
    exact ih fun q hq => h q (by simp [hq])

/-- Filtering on the key keeps what the kept keys hold. -/
theorem Cells.get_filter (c : Cells w) (f : Nat → Bool) (a : Nat) :
    Cells.get (c.filter fun p => f p.1) a = if f a then c.get a else 0#w := by
  induction c with
  | nil => simp
  | cons p t ih =>
    obtain ⟨b, v⟩ := p
    by_cases hb : b = a
    · subst hb
      cases hf : f b <;> simp [hf, Cells.get_cons, ih]
    · cases hf : f b <;> simp [hf, Cells.get_cons, ih, hb]

theorem Cells.get_append (c d : Cells w) (a : Nat) (h : c.get a = 0#w) (hd : ∀ p ∈ c, p.1 ≠ a) :
    Cells.get (c ++ d) a = d.get a := by
  induction c with
  | nil => rfl
  | cons p t ih =>
    obtain ⟨b, v⟩ := p
    have hb : b ≠ a := hd (b, v) (by simp)
    simp only [List.cons_append, Cells.get_cons, hb, if_false]
    simp only [Cells.get_cons, hb, if_false] at h
    exact ih h fun q hq => hd q (by simp [hq])

/-- What an appended list reads as: the first part where it has the key, else the second. -/
theorem Cells.get_append_absent_right (c d : Cells w) (a : Nat) (hd : ∀ p ∈ d, p.1 ≠ a) :
    Cells.get (c ++ d) a = c.get a := by
  induction c with
  | nil => exact Cells.get_of_absent d a hd
  | cons p t ih =>
    obtain ⟨b, v⟩ := p
    simp only [List.cons_append, Cells.get_cons, ih]

theorem Cells.get_place (c : Cells w) (a : Nat) (v : BitVec w) (x : Nat) (h : ∀ p ∈ c, p.1 ≠ a) :
    Cells.get (Cells.place a v c) x = if x = a then v else c.get x := by
  induction c with
  | nil => simp [Cells.place, Cells.get_cons, eq_comm]
  | cons p t ih =>
    obtain ⟨b, u⟩ := p
    have hb : b ≠ a := h (b, u) (by simp)
    have ih' := ih fun q hq => h q (by simp [hq])
    simp only [Cells.place]
    split
    · simp [Cells.get_cons, eq_comm]
    · by_cases hx : x = a
      · subst hx; simp [Cells.get_cons, hb, ih']
      · simp [Cells.get_cons, hx, ih']

theorem Cells.drop_absent (c : Cells w) (a : Nat) : ∀ p ∈ c.drop a, p.1 ≠ a := by
  intro p hp
  simp only [Cells.drop, List.mem_filter, bne_iff_ne, ne_eq] at hp
  exact hp.2

@[simp] theorem Cells.get_drop (c : Cells w) (a x : Nat) :
    (c.drop a).get x = if x = a then 0#w else c.get x := by
  rw [Cells.drop, Cells.get_filter c (fun k => k != a)]
  by_cases h : x = a <;> simp [h]

/-- A read after a write of one cell. -/
@[simp] theorem Cells.get_set (c : Cells w) (a : Nat) (v : BitVec w) (x : Nat) :
    (c.set a v).get x = if x = a then v else c.get x := by
  unfold Cells.set
  split
  · rename_i h; simp [h]
  · rw [Cells.get_place _ _ _ _ (Cells.drop_absent c a)]
    by_cases h : x = a <;> simp [h]

theorem Cells.block_keys (lo n : Nat) (f : Nat → BitVec w) :
    ∀ p ∈ Cells.block lo n f, lo ≤ p.1 ∧ p.1 < lo + n := by
  intro p hp
  simp only [Cells.block, List.mem_filterMap, List.mem_range] at hp
  obtain ⟨i, hi, h⟩ := hp
  split at h
  · cases h
  · cases h; exact ⟨Nat.le_add_right .., by simpa using hi⟩

theorem Cells.get_filterMap_range (lo : Nat) (f : Nat → BitVec w) (l : List Nat) (i : Nat)
    (hi : i ∈ l) :
    Cells.get (l.filterMap fun i => if f i = 0#w then none else some (lo + i, f i)) (lo + i) = f i := by
  induction l with
  | nil => cases hi
  | cons j t ih =>
    by_cases hj : j = i
    · subst hj
      by_cases h0 : f j = 0#w
      · simp only [List.filterMap_cons, h0, if_true]
        by_cases ht : j ∈ t
        · exact h0 ▸ ih ht
        · apply Cells.get_of_absent
          intro p hp
          simp only [List.mem_filterMap] at hp
          obtain ⟨k, hk, hk2⟩ := hp
          split at hk2
          · cases hk2
          · cases hk2
            intro he
            have : k = j := Nat.add_left_cancel he
            exact ht (this ▸ hk)
      · rw [List.filterMap_cons]; simp only [if_neg h0, Cells.get_cons, if_true]
    · have hit : i ∈ t := by
        rcases List.mem_cons.mp hi with h | h
        · exact absurd h.symm hj
        · exact h
      by_cases h0 : f j = 0#w
      · simp only [List.filterMap_cons, h0, if_true]; exact ih hit
      · have : ¬ (lo + j = lo + i) := fun h => hj (Nat.add_left_cancel h)
        simp only [List.filterMap_cons, h0, if_false, Cells.get_cons, this]
        exact ih hit

theorem Cells.get_block (lo n : Nat) (f : Nat → BitVec w) (x : Nat) :
    (Cells.block lo n f).get x = if lo ≤ x ∧ x < lo + n then f (x - lo) else 0#w := by
  by_cases h : lo ≤ x ∧ x < lo + n
  · obtain ⟨i, rfl⟩ := Nat.exists_eq_add_of_le h.1
    have hi : i < n := by omega
    rw [if_pos h, Nat.add_sub_cancel_left]
    exact Cells.get_filterMap_range lo f _ i (List.mem_range.mpr hi)
  · rw [if_neg h]
    apply Cells.get_of_absent
    intro p hp he
    exact h (he ▸ Cells.block_keys lo n f p hp)

/-- A read after a write of a block. -/
@[simp] theorem Cells.get_blit (c : Cells w) (lo n : Nat) (f : Nat → BitVec w) (x : Nat) :
    (c.blit lo n f).get x = if lo ≤ x ∧ x < lo + n then f (x - lo) else c.get x := by
  have hlow : ∀ p ∈ c.filter (fun p => decide (p.1 < lo)), p.1 < lo := by
    intro p hp; simpa using (List.mem_filter.mp hp).2
  have hhigh : ∀ p ∈ c.filter (fun p => decide (lo + n ≤ p.1)), lo + n ≤ p.1 := by
    intro p hp; simpa using (List.mem_filter.mp hp).2
  unfold Cells.blit
  by_cases h1 : x < lo
  · rw [Cells.get_append_absent_right, Cells.get_filter c (fun k => decide (k < lo))]
    · have : ¬ (lo ≤ x ∧ x < lo + n) := by omega
      simp [h1, this]
    · intro p hp
      rcases List.mem_append.mp hp with h | h
      · have := Cells.block_keys lo n f p h; omega
      · have := hhigh p h; omega
  · have habs : ∀ p ∈ c.filter (fun p => decide (p.1 < lo)), p.1 ≠ x := by
      intro p hp; have := hlow p hp; omega
    rw [Cells.get_append _ _ _ (Cells.get_of_absent _ _ habs) habs]
    by_cases h2 : x < lo + n
    · rw [Cells.get_append_absent_right, Cells.get_block]
      · simp [Nat.le_of_not_lt h1, h2]
      · intro p hp; have := hhigh p hp; omega
    · have habs2 : ∀ p ∈ Cells.block lo n f, p.1 ≠ x := by
        intro p hp; have := Cells.block_keys lo n f p hp; omega
      rw [Cells.get_append _ _ _ (Cells.get_of_absent _ _ habs2) habs2,
        Cells.get_filter c (fun k => decide (lo + n ≤ k))]
      have : ¬ (lo ≤ x ∧ x < lo + n) := by omega
      simp [this, Nat.le_of_not_lt h2]

/-- A read after a block was cleared. -/
@[simp] theorem Cells.get_clear (c : Cells w) (lo n x : Nat) :
    (c.clear lo n).get x = if lo ≤ x ∧ x < lo + n then 0#w else c.get x := by
  unfold Cells.clear
  rw [Cells.get_filter c (fun k => decide (k < lo) || decide (lo + n ≤ k))]
  by_cases h : lo ≤ x ∧ x < lo + n
  · have h1 : ¬ x < lo := by omega
    have h2 : ¬ lo + n ≤ x := by omega
    simp [h, h1, h2]
  · have : x < lo ∨ lo + n ≤ x := by omega
    simp [h, this]

/-- A list of writes leaves every cell it does not name alone. -/
theorem Cells.get_setMany_other (l : List (Nat × BitVec w)) (c : Cells w) (x : Nat)
    (h : ∀ p ∈ l, p.1 ≠ x) : (c.setMany l).get x = c.get x := by
  induction l generalizing c with
  | nil => rfl
  | cons p t ih =>
    have hp : p.1 ≠ x := h p (by simp)
    simp only [Cells.setMany, List.foldl_cons] at ih ⊢
    rw [ih (c.set p.1 p.2) fun q hq => h q (by simp [hq]), Cells.get_set]
    simp [Ne.symm hp]

/-! ### The canonical form -/

theorem Cells.wf_cons (a : Nat) (v : BitVec w) (t : Cells w) :
    Cells.wf ((a, v) :: t) = true ↔ v ≠ 0#w ∧ (∀ p ∈ t, a < p.1) ∧ Cells.wf t = true := by
  simp [Cells.wf, and_assoc]

theorem Cells.wf_filter (c : Cells w) (f : Nat × BitVec w → Bool) (h : c.wf = true) :
    Cells.wf (c.filter f) = true := by
  induction c with
  | nil => rfl
  | cons p t ih =>
    obtain ⟨a, v⟩ := p
    rw [Cells.wf_cons] at h
    simp only [List.filter_cons]
    split
    · rw [Cells.wf_cons]
      exact ⟨h.1, fun q hq => h.2.1 q (List.mem_filter.mp hq).1, ih h.2.2⟩
    · exact ih h.2.2

theorem Cells.wf_append (c d : Cells w) (hc : c.wf = true) (hd : d.wf = true)
    (h : ∀ p ∈ c, ∀ q ∈ d, p.1 < q.1) : Cells.wf (c ++ d) = true := by
  induction c with
  | nil => exact hd
  | cons p t ih =>
    obtain ⟨a, v⟩ := p
    rw [Cells.wf_cons] at hc
    rw [List.cons_append, Cells.wf_cons]
    refine ⟨hc.1, ?_, ih hc.2.2 fun p hp => h p (by simp [hp])⟩
    intro q hq
    rcases List.mem_append.mp hq with hq | hq
    · exact hc.2.1 q hq
    · exact h (a, v) (by simp) q hq

theorem Cells.mem_place (c : Cells w) (a : Nat) (v : BitVec w) (p : Nat × BitVec w)
    (hp : p ∈ Cells.place a v c) : p = (a, v) ∨ p ∈ c := by
  induction c with
  | nil => simpa [Cells.place] using hp
  | cons q t ih =>
    obtain ⟨b, u⟩ := q
    simp only [Cells.place] at hp
    split at hp
    · simpa using hp
    · rcases List.mem_cons.mp hp with h | h
      · right; simp [h]
      · rcases ih h with h | h
        · left; exact h
        · right; simp [h]

theorem Cells.wf_place (c : Cells w) (a : Nat) (v : BitVec w) (hv : v ≠ 0#w) (h : c.wf = true)
    (ha : ∀ p ∈ c, p.1 ≠ a) : Cells.wf (Cells.place a v c) = true := by
  induction c with
  | nil => simp [Cells.place, Cells.wf, hv]
  | cons q t ih =>
    obtain ⟨b, u⟩ := q
    have h' := (Cells.wf_cons b u t).mp h
    have hb : b ≠ a := ha (b, u) (by simp)
    simp only [Cells.place]
    split
    · rename_i hlt
      rw [Cells.wf_cons]
      refine ⟨hv, ?_, h⟩
      intro p hp
      rcases List.mem_cons.mp hp with h | h
      · rw [h]; exact hlt
      · exact Nat.lt_trans hlt (h'.2.1 p h)
    · rename_i hlt
      rw [Cells.wf_cons]
      refine ⟨h'.1, ?_, ih h'.2.2 fun p hp => ha p (by simp [hp])⟩
      intro p hp
      rcases Cells.mem_place t a v p hp with h | h
      · rw [h]; exact Nat.lt_of_le_of_ne (Nat.le_of_not_lt hlt) hb
      · exact h'.2.1 p h

/-- Writing a cell keeps the canonical form. -/
theorem Cells.wf_set (c : Cells w) (a : Nat) (v : BitVec w) (h : c.wf = true) :
    (c.set a v).wf = true := by
  unfold Cells.set
  split
  · exact Cells.wf_filter c _ h
  · rename_i hv
    exact Cells.wf_place _ a v hv (Cells.wf_filter c _ h) (Cells.drop_absent c a)

/-- A list of writes keeps the canonical form. -/
theorem Cells.wf_setMany (l : List (Nat × BitVec w)) (c : Cells w) (h : c.wf = true) :
    (c.setMany l).wf = true := by
  induction l generalizing c with
  | nil => exact h
  | cons p t ih => exact ih _ (Cells.wf_set c p.1 p.2 h)

theorem Cells.wf_filterMap (lo : Nat) (f : Nat → BitVec w) (l : List Nat)
    (hl : l.Pairwise (· < ·)) :
    Cells.wf (l.filterMap fun i => if f i = 0#w then none else some (lo + i, f i)) = true := by
  induction l with
  | nil => rfl
  | cons j t ih =>
    rw [List.pairwise_cons] at hl
    by_cases h0 : f j = 0#w
    · simp only [List.filterMap_cons, h0, if_true]; exact ih hl.2
    · simp only [List.filterMap_cons, h0, if_false]
      rw [Cells.wf_cons]
      refine ⟨h0, ?_, ih hl.2⟩
      intro p hp
      simp only [List.mem_filterMap] at hp
      obtain ⟨k, hk, hk2⟩ := hp
      split at hk2
      · cases hk2
      · cases hk2; exact Nat.add_lt_add_left (hl.1 k hk) lo

theorem Cells.wf_block (lo n : Nat) (f : Nat → BitVec w) : (Cells.block lo n f).wf = true :=
  Cells.wf_filterMap lo f _ List.pairwise_lt_range

/-- Writing a block keeps the canonical form. -/
theorem Cells.wf_blit (c : Cells w) (lo n : Nat) (f : Nat → BitVec w) (h : c.wf = true) :
    (c.blit lo n f).wf = true := by
  apply Cells.wf_append _ _ (Cells.wf_filter c _ h)
  · apply Cells.wf_append _ _ (Cells.wf_block lo n f) (Cells.wf_filter c _ h)
    intro p hp q hq
    have := Cells.block_keys lo n f p hp
    have hq' : lo + n ≤ q.1 := by simpa using (List.mem_filter.mp hq).2
    omega
  · intro p hp q hq
    have hp' : p.1 < lo := by simpa using (List.mem_filter.mp hp).2
    rcases List.mem_append.mp hq with h | h
    · have := Cells.block_keys lo n f q h; omega
    · have hq' : lo + n ≤ q.1 := by simpa using (List.mem_filter.mp h).2
      omega

/-- Clearing a block keeps the canonical form. -/
theorem Cells.wf_clear (c : Cells w) (lo n : Nat) (h : c.wf = true) : (c.clear lo n).wf = true :=
  Cells.wf_filter c _ h

/-- Two canonical lists that read alike are equal. -/
theorem Cells.ext_get (c d : Cells w) (hc : c.wf = true) (hd : d.wf = true)
    (h : ∀ a, c.get a = d.get a) : c = d := by
  induction c generalizing d with
  | nil =>
    cases d with
    | nil => rfl
    | cons q t =>
      obtain ⟨b, u⟩ := q
      have hq := (Cells.wf_cons b u t).mp hd
      have := h b
      simp [Cells.get_cons] at this
      exact absurd this.symm hq.1
  | cons p s ih =>
    obtain ⟨a, v⟩ := p
    have hp := (Cells.wf_cons a v s).mp hc
    cases d with
    | nil =>
      have := h a
      simp [Cells.get_cons] at this
      exact absurd this hp.1
    | cons q t =>
      obtain ⟨b, u⟩ := q
      have hq := (Cells.wf_cons b u t).mp hd
      have habs : ∀ (l : Cells w) (k m : Nat), (∀ p ∈ l, k < p.1) → m ≤ k → l.get m = 0#w :=
        fun l k m hl hm => Cells.get_of_absent l m fun p hp he => by
          have := hl p hp; omega
      have hab : a = b := by
        rcases Nat.lt_trichotomy a b with hlt | he | hlt
        · have := h a
          rw [Cells.get_cons, if_pos rfl, Cells.get_cons, if_neg (by omega),
            habs t b a hq.2.1 (by omega)] at this
          exact absurd this hp.1
        · exact he
        · have := h b
          rw [Cells.get_cons, if_neg (by omega), Cells.get_cons, if_pos rfl,
            habs s a b hp.2.1 (by omega)] at this
          exact absurd this.symm hq.1
      subst hab
      have hv : v = u := by simpa [Cells.get_cons] using h a
      subst hv
      congr 1
      apply ih t hp.2.2 hq.2.2
      intro x
      by_cases hx : a = x
      · subst hx
        rw [habs s a a hp.2.1 (Nat.le_refl a), habs t a a hq.2.1 (Nat.le_refl a)]
      · have := h x
        simpa [Cells.get_cons, hx] using this

end Sys2Proof.Machine
end

