-- ==== Sys2Proof/Laws/Image.lean ====
section
/-!
SUPPORT. Numbers as bytes and back; the header of a checkpoint image that a save writes is one that a restore accepts (R396).
-/
namespace Sys2Proof.Machine

@[simp] theorem toBytes_length (n x : Nat) : (toBytes n x).length = n := by simp [toBytes]

theorem toBytes_succ (n x : Nat) : toBytes (n + 1) x = BitVec.ofNat 8 x :: toBytes n (x / 256) := by
  simp only [toBytes, List.range_succ_eq_map, List.map_cons, List.map_map, Nat.mul_zero, Nat.pow_zero, Nat.div_one]
  congr 1
  apply List.map_congr_left
  intro k _
  simp only [Function.comp_apply, Nat.div_div_eq_div_mul, Nat.succ_eq_add_one, Nat.mul_add, Nat.mul_one, Nat.pow_add]
  rw [show (2 : Nat) ^ 8 = 256 from rfl, Nat.mul_comm 256]

theorem ofBytes_toBytes (n x : Nat) : ofBytes (toBytes n x) = x % 256 ^ n := by
  induction n generalizing x with
  | zero => simp [toBytes, ofBytes, Nat.mod_one]
  | succ n ih =>
    rw [toBytes_succ, ofBytes, ih, Nat.pow_succ, Nat.mul_comm (256 ^ n), Nat.mod_mul, BitVec.toNat_ofNat]

theorem mod_bytes (n x : Nat) (h : x < 2 ^ (8 * n)) : x % 256 ^ n = x := by
  rw [show 256 = 2 ^ 8 from rfl, ← Nat.pow_mul]; exact Nat.mod_eq_of_lt h

theorem toNat_mod_bytes (n : Nat) (x : BitVec (8 * n)) : x.toNat % 256 ^ n = x.toNat := mod_bytes n _ x.isLt

/-! ### How long what the ciphers give is -/

theorem xorBytes_length (a b : List Nat) : (xorBytes a b).length = min a.length b.length := by simp [xorBytes]

theorem nextKeyWord_length (n rcon : Nat) (ws : List (List Nat)) (h : 8 ≤ ws.length) (hw : ∀ w ∈ ws, w.length = 4) :
    (nextKeyWord n rcon ws).length = 4 := by
  have h0 : (ws.head?.getD []).length = 4 := by
    cases ws with
    | nil => simp at h
    | cons w t => exact hw w (by simp)
  have h7 : (ws.getD 7 []).length = 4 := by
    rw [List.getD_eq_getElem?_getD, List.getElem?_eq_getElem (by omega)]; exact hw _ (List.getElem_mem _)
  unfold nextKeyWord
  simp only [xorBytes_length, h7]
  split
  · simp [xorBytes_length, h0]
  · split <;> simp [h0]

theorem keyWords_length (k n rcon : Nat) (ws : List (List Nat)) (h : 8 ≤ ws.length) (hw : ∀ w ∈ ws, w.length = 4) :
    (keyWords k n rcon ws).length = k + ws.length ∧ ∀ w ∈ keyWords k n rcon ws, w.length = 4 := by
  induction k generalizing n rcon ws with
  | zero => exact ⟨by simp [keyWords], hw⟩
  | succ k ih =>
    have := ih (n + 1) (if n % 8 = 0 then aesTwice rcon else rcon) (nextKeyWord n rcon ws :: ws) (by simp <;> omega) (by
      intro w hm
      rcases List.mem_cons.1 hm with rfl | hm
      · exact nextKeyWord_length n rcon ws h hw
      · exact hw w hm)
    exact ⟨by rw [keyWords, this.1, List.length_cons]; omega, this.2⟩

theorem lastRoundKey_length (key : List Nat) (h : key.length = 32) : ((roundKeys key).getD 14 []).length = 16 := by
  have hk := keyWords_length 52 8 1 ((List.range 8).map fun k => (key.drop (4 * (7 - k))).take 4) (by simp) (by
    intro w hm
    obtain ⟨k, hk, rfl⟩ := List.mem_map.1 hm
    have := List.mem_range.1 hk
    simp [h]; omega)
  simp only [roundKeys]
  rw [List.getD_eq_getElem?_getD, List.getElem?_eq_getElem (by simp), Option.getD_some, List.getElem_map, List.length_flatten]
  have : ∀ l : List (List Nat), (∀ w ∈ l, w.length = 4) → (l.map List.length).sum = 4 * l.length := by
    intro l hl
    induction l with
    | nil => rfl
    | cons a t ih =>
      rw [List.map_cons, List.sum_cons, ih (fun w hw => hl w (by simp [hw])), hl a (by simp), List.length_cons]; omega
  rw [this]
  · simp [hk.1]
  · intro w hw
    exact hk.2 w (List.mem_reverse.1 (List.mem_of_mem_drop (List.mem_of_mem_take hw)))

theorem aesBlock_length (ks : List (List Nat)) (b : List Nat) (h : (ks.getD 14 []).length = 16) : (aesBlock ks b).length = 16 := by
  rw [aesBlock, xorBytes_length, h]; simp [shiftRows]

theorem wrapSteps_length (ks : List (List Nat)) (hk : (ks.getD 14 []).length = 16) (k n : Nat) (a : List Nat) (rs : List (List Nat))
    (ha : a.length = 8) (hr : rs.length = 8) (hs : ∀ r ∈ rs, r.length = 8) :
    (wrapSteps ks k n a rs).1.length = 8 ∧ (wrapSteps ks k n a rs).2.length = 8 ∧ ∀ r ∈ (wrapSteps ks k n a rs).2, r.length = 8 := by
  induction k generalizing n a rs with
  | zero => exact ⟨ha, hr, hs⟩
  | succ k ih =>
    rw [wrapSteps]
    refine ih _ _ _ ?_ ?_ ?_
    · simp [wrapStep, xorBytes_length, aesBlock_length ks _ hk, octets]
    · simp [hr]
    · intro r hm
      rcases List.mem_append.1 hm with hm | hm
      · exact hs r (List.mem_of_mem_drop hm)
      · rw [List.mem_singleton.1 hm]; simp [wrapStep, aesBlock_length ks _ hk]

theorem keyWrap_length (kek : BitVec 256) (key : BitVec 512) : (keyWrap kek key).length = 72 := by
  have h := wrapSteps_length (roundKeys (octets 32 kek.toNat)) (lastRoundKey_length _ (by simp [octets])) 48 0 (List.replicate 8 0xA6)
    ((List.range 8).map fun k => ((octets 64 key.toNat).drop (8 * k)).take 8) rfl (by simp) (by
      intro r hm
      obtain ⟨k, hk, rfl⟩ := List.mem_map.1 hm
      have := List.mem_range.1 hk
      simp [octets]; omega)
  have sum8 : ∀ l : List (List Nat), (∀ w ∈ l, w.length = 8) → (l.map List.length).sum = 8 * l.length := by
    intro l hl
    induction l with
    | nil => rfl
    | cons a t ih =>
      rw [List.map_cons, List.sum_cons, ih (fun w hw => hl w (by simp [hw])), hl a (by simp), List.length_cons]; omega
  simp only [keyWrap, List.length_map, List.length_append, List.length_flatten]
  rw [h.1, sum8 _ h.2.2, h.2.1]

/-- The header that a save writes is accepted. -/
theorem imageHeader_ok (len : DWord) (i : CheckpointImage) (h : i.header = imageHeader len i.key0) : i.headerOk = true := by
  have hp : packageId.toNat % 256 ^ 64 = packageId.toNat := toNat_mod_bytes 64 packageId
  have h80 : i.header.drop 80 = keyWrap Config.fusedKey i.key0 ++ List.replicate 104 0 := by
    rw [h, imageHeader, List.append_assoc, List.drop_append_of_le_length (by simp), List.drop_of_length_le (by simp), List.nil_append]
  have h16 : i.header.drop 16 = toBytes 64 packageId.toNat ++ (keyWrap Config.fusedKey i.key0 ++ List.replicate 104 0) := by
    rw [h, imageHeader, List.append_assoc, List.append_assoc, List.drop_append_of_le_length (by simp),
      List.drop_of_length_le (by simp), List.nil_append]
  have h1 : (i.header.drop 1).take 1 = [1] := by
    rw [h, imageHeader, List.append_assoc, List.append_assoc, List.append_assoc]; rfl
  rw [CheckpointImage.headerOk, h1, h16, h80, List.take_append_of_le_length (by simp), List.take_of_length_le (by simp),
    List.take_append_of_le_length (by simp [keyWrap_length]), List.take_of_length_le (by simp [keyWrap_length]), ofBytes_toBytes, hp]
  simp [ofBytes]

end Sys2Proof.Machine
end

