-- ==== Sys2Proof/Laws/State.lean ====
section
/-!
SUPPORT. What the updates of the state leave as it was: one lemma per field per update, so that no later proof unfolds a
record update.
-/
namespace Sys2Proof.Machine

/-! ### Changing the live stream -/

@[simp] theorem onStream_stream (f : Stream → Stream) (s : State) : (s.onStream f).stream = f s.stream := rfl
@[simp] theorem onStream_holder (f : Stream → Stream) (s : State) : (s.onStream f).holder = s.holder := rfl
@[simp] theorem onStream_shadow (f : Stream → Stream) (s : State) : (s.onStream f).shadow = s.shadow := rfl
@[simp] theorem onStream_mem (f : Stream → Stream) (s : State) : (s.onStream f).mem = s.mem := rfl
@[simp] theorem onStream_plates (f : Stream → Stream) (s : State) : (s.onStream f).plates = s.plates := rfl
@[simp] theorem onStream_abuf (f : Stream → Stream) (s : State) : (s.onStream f).abuf = s.abuf := rfl
@[simp] theorem onStream_stash (f : Stream → Stream) (s : State) : (s.onStream f).stash = s.stash := rfl
@[simp] theorem onStream_poison (f : Stream → Stream) (s : State) : (s.onStream f).poison = s.poison := rfl
@[simp] theorem onStream_platePoison (f : Stream → Stream) (s : State) : (s.onStream f).platePoison = s.platePoison := rfl
@[simp] theorem onStream_staged (f : Stream → Stream) (s : State) : (s.onStream f).staged = s.staged := rfl
@[simp] theorem onStream_heldAccs (f : Stream → Stream) (s : State) : (s.onStream f).heldAccs = s.heldAccs := rfl
@[simp] theorem onStream_marks (f : Stream → Stream) (s : State) : (s.onStream f).marks = s.marks := rfl
@[simp] theorem onStream_loose (f : Stream → Stream) (s : State) : (s.onStream f).loose = s.loose := rfl
@[simp] theorem onStream_accNo (f : Stream → Stream) (s : State) : (s.onStream f).accNo = s.accNo := rfl
@[simp] theorem onStream_lineKeys (f : Stream → Stream) (s : State) : (s.onStream f).lineKeys = s.lineKeys := rfl
@[simp] theorem onStream_landings (f : Stream → Stream) (s : State) : (s.onStream f).landings = s.landings := rfl
@[simp] theorem onStream_landingNo (f : Stream → Stream) (s : State) : (s.onStream f).landingNo = s.landingNo := rfl
@[simp] theorem onStream_rowsWaiting (f : Stream → Stream) (s : State) : (s.onStream f).rowsWaiting = s.rowsWaiting := rfl
@[simp] theorem onStream_rowsFull (f : Stream → Stream) (s : State) : (s.onStream f).rowsFull = s.rowsFull := rfl
@[simp] theorem onStream_matrix (f : Stream → Stream) (s : State) : (s.onStream f).matrix = s.matrix := rfl
@[simp] theorem onStream_matrixCount (f : Stream → Stream) (s : State) : (s.onStream f).matrixCount = s.matrixCount := rfl
@[simp] theorem onStream_atoms (f : Stream → Stream) (s : State) : (s.onStream f).atoms = s.atoms := rfl
@[simp] theorem onStream_atomInstr (f : Stream → Stream) (s : State) : (s.onStream f).atomInstr = s.atomInstr := rfl
@[simp] theorem onStream_detSent (f : Stream → Stream) (s : State) : (s.onStream f).detSent = s.detSent := rfl
@[simp] theorem onStream_detOutbox (f : Stream → Stream) (s : State) : (s.onStream f).detOutbox = s.detOutbox := rfl
@[simp] theorem onStream_detBuf (f : Stream → Stream) (s : State) : (s.onStream f).detBuf = s.detBuf := rfl
@[simp] theorem onStream_detLines (f : Stream → Stream) (s : State) : (s.onStream f).detLines = s.detLines := rfl
@[simp] theorem onStream_served (f : Stream → Stream) (s : State) : (s.onStream f).served = s.served := rfl
@[simp] theorem onStream_parts (f : Stream → Stream) (s : State) : (s.onStream f).parts = s.parts := rfl
@[simp] theorem onStream_slotTable (f : Stream → Stream) (s : State) : (s.onStream f).slotTable = s.slotTable := rfl
@[simp] theorem onStream_windows (f : Stream → Stream) (s : State) : (s.onStream f).windows = s.windows := rfl
@[simp] theorem onStream_gangReady (f : Stream → Stream) (s : State) : (s.onStream f).gangReady = s.gangReady := rfl
@[simp] theorem onStream_divertClock (f : Stream → Stream) (s : State) : (s.onStream f).divertClock = s.divertClock := rfl
@[simp] theorem onStream_tenants (f : Stream → Stream) (s : State) : (s.onStream f).tenants = s.tenants := rfl
@[simp] theorem onStream_repEntries (f : Stream → Stream) (s : State) : (s.onStream f).repEntries = s.repEntries := rfl
@[simp] theorem onStream_repCounters (f : Stream → Stream) (s : State) : (s.onStream f).repCounters = s.repCounters := rfl
@[simp] theorem onStream_pools (f : Stream → Stream) (s : State) : (s.onStream f).pools = s.pools := rfl
@[simp] theorem onStream_trapRecord (f : Stream → Stream) (s : State) : (s.onStream f).trapRecord = s.trapRecord := rfl
@[simp] theorem onStream_bucketCfg (f : Stream → Stream) (s : State) : (s.onStream f).bucketCfg = s.bucketCfg := rfl
@[simp] theorem onStream_buckets (f : Stream → Stream) (s : State) : (s.onStream f).buckets = s.buckets := rfl
@[simp] theorem onStream_poisonTables (f : Stream → Stream) (s : State) : (s.onStream f).poisonTables = s.poisonTables := rfl
@[simp] theorem onStream_links (f : Stream → Stream) (s : State) : (s.onStream f).links = s.links := rfl
@[simp] theorem onStream_lasers (f : Stream → Stream) (s : State) : (s.onStream f).lasers = s.lasers := rfl
@[simp] theorem onStream_eolthr (f : Stream → Stream) (s : State) : (s.onStream f).eolthr = s.eolthr := rfl
@[simp] theorem onStream_trained (f : Stream → Stream) (s : State) : (s.onStream f).trained = s.trained := rfl
@[simp] theorem onStream_node (f : Stream → Stream) (s : State) : (s.onStream f).node = s.node := rfl
@[simp] theorem onStream_master (f : Stream → Stream) (s : State) : (s.onStream f).master = s.master := rfl
@[simp] theorem onStream_slabMap (f : Stream → Stream) (s : State) : (s.onStream f).slabMap = s.slabMap := rfl
@[simp] theorem onStream_badHalves (f : Stream → Stream) (s : State) : (s.onStream f).badHalves = s.badHalves := rfl
@[simp] theorem onStream_rebinds (f : Stream → Stream) (s : State) : (s.onStream f).rebinds = s.rebinds := rfl
@[simp] theorem onStream_sites (f : Stream → Stream) (s : State) : (s.onStream f).sites = s.sites := rfl
@[simp] theorem onStream_siteSwap (f : Stream → Stream) (s : State) : (s.onStream f).siteSwap = s.siteSwap := rfl
@[simp] theorem onStream_siteLog (f : Stream → Stream) (s : State) : (s.onStream f).siteLog = s.siteLog := rfl
@[simp] theorem onStream_regSram (f : Stream → Stream) (s : State) : (s.onStream f).regSram = s.regSram := rfl
@[simp] theorem onStream_gtime (f : Stream → Stream) (s : State) : (s.onStream f).gtime = s.gtime := rfl
@[simp] theorem onStream_slew (f : Stream → Stream) (s : State) : (s.onStream f).slew = s.slew := rfl
@[simp] theorem onStream_slewCredit (f : Stream → Stream) (s : State) : (s.onStream f).slewCredit = s.slewCredit := rfl
@[simp] theorem onStream_timeLost (f : Stream → Stream) (s : State) : (s.onStream f).timeLost = s.timeLost := rfl
@[simp] theorem onStream_timeTold (f : Stream → Stream) (s : State) : (s.onStream f).timeTold = s.timeTold := rfl
@[simp] theorem onStream_cycle (f : Stream → Stream) (s : State) : (s.onStream f).cycle = s.cycle := rfl
@[simp] theorem onStream_stage (f : Stream → Stream) (s : State) : (s.onStream f).stage = s.stage := rfl
@[simp] theorem onStream_fail (f : Stream → Stream) (s : State) : (s.onStream f).fail = s.fail := rfl
@[simp] theorem onStream_mbxArgs (f : Stream → Stream) (s : State) : (s.onStream f).mbxArgs = s.mbxArgs := rfl
@[simp] theorem onStream_mbxBusy (f : Stream → Stream) (s : State) : (s.onStream f).mbxBusy = s.mbxBusy := rfl
@[simp] theorem onStream_mbxOverrun (f : Stream → Stream) (s : State) : (s.onStream f).mbxOverrun = s.mbxOverrun := rfl
@[simp] theorem onStream_mbxResult (f : Stream → Stream) (s : State) : (s.onStream f).mbxResult = s.mbxResult := rfl
@[simp] theorem onStream_mbxTag (f : Stream → Stream) (s : State) : (s.onStream f).mbxTag = s.mbxTag := rfl
@[simp] theorem onStream_mbxRun (f : Stream → Stream) (s : State) : (s.onStream f).mbxRun = s.mbxRun := rfl
@[simp] theorem onStream_mbxCmd (f : Stream → Stream) (s : State) : (s.onStream f).mbxCmd = s.mbxCmd := rfl
@[simp] theorem onStream_mbxEvents (f : Stream → Stream) (s : State) : (s.onStream f).mbxEvents = s.mbxEvents := rfl
@[simp] theorem onStream_mbxLost (f : Stream → Stream) (s : State) : (s.onStream f).mbxLost = s.mbxLost := rfl
@[simp] theorem onStream_chkptHold (f : Stream → Stream) (s : State) : (s.onStream f).chkptHold = s.chkptHold := rfl
@[simp] theorem onStream_images (f : Stream → Stream) (s : State) : (s.onStream f).images = s.images := rfl
@[simp] theorem onStream_keys (f : Stream → Stream) (s : State) : (s.onStream f).keys = s.keys := rfl
@[simp] theorem onStream_loading (f : Stream → Stream) (s : State) : (s.onStream f).loading = s.loading := rfl
@[simp] theorem onStream_session (f : Stream → Stream) (s : State) : (s.onStream f).session = s.session := rfl
@[simp] theorem onStream_alarm (f : Stream → Stream) (s : State) : (s.onStream f).alarm = s.alarm := rfl
@[simp] theorem onStream_cap (f : Stream → Stream) (s : State) : (s.onStream f).cap = s.cap := rfl
@[simp] theorem onStream_powered (f : Stream → Stream) (s : State) : (s.onStream f).powered = s.powered := rfl
@[simp] theorem onStream_digests (f : Stream → Stream) (s : State) : (s.onStream f).digests = s.digests := rfl
@[simp] theorem onStream_fw (f : Stream → Stream) (s : State) : (s.onStream f).fw = s.fw := rfl
@[simp] theorem onStream_agenda (f : Stream → Stream) (s : State) : (s.onStream f).agenda = s.agenda := rfl
@[simp] theorem onStream_outbox (f : Stream → Stream) (s : State) : (s.onStream f).outbox = s.outbox := rfl
@[simp] theorem onStream_free (f : Stream → Stream) (s : State) : (s.onStream f).free = s.free := rfl

/-! ### Changing a partition -/

@[simp] theorem onPart_parts (p : PartNo) (f : Partition → Partition) (s : State) : (s.onPart p f).parts = s.parts.set p (f s.parts[p]) := rfl
@[simp] theorem onPart_stream (p : PartNo) (f : Partition → Partition) (s : State) : (s.onPart p f).stream = s.stream := rfl
@[simp] theorem onPart_holder (p : PartNo) (f : Partition → Partition) (s : State) : (s.onPart p f).holder = s.holder := rfl
@[simp] theorem onPart_shadow (p : PartNo) (f : Partition → Partition) (s : State) : (s.onPart p f).shadow = s.shadow := rfl
@[simp] theorem onPart_mem (p : PartNo) (f : Partition → Partition) (s : State) : (s.onPart p f).mem = s.mem := rfl
@[simp] theorem onPart_plates (p : PartNo) (f : Partition → Partition) (s : State) : (s.onPart p f).plates = s.plates := rfl
@[simp] theorem onPart_abuf (p : PartNo) (f : Partition → Partition) (s : State) : (s.onPart p f).abuf = s.abuf := rfl
@[simp] theorem onPart_stash (p : PartNo) (f : Partition → Partition) (s : State) : (s.onPart p f).stash = s.stash := rfl
@[simp] theorem onPart_poison (p : PartNo) (f : Partition → Partition) (s : State) : (s.onPart p f).poison = s.poison := rfl
@[simp] theorem onPart_platePoison (p : PartNo) (f : Partition → Partition) (s : State) : (s.onPart p f).platePoison = s.platePoison := rfl
@[simp] theorem onPart_staged (p : PartNo) (f : Partition → Partition) (s : State) : (s.onPart p f).staged = s.staged := rfl
@[simp] theorem onPart_heldAccs (p : PartNo) (f : Partition → Partition) (s : State) : (s.onPart p f).heldAccs = s.heldAccs := rfl
@[simp] theorem onPart_marks (p : PartNo) (f : Partition → Partition) (s : State) : (s.onPart p f).marks = s.marks := rfl
@[simp] theorem onPart_loose (p : PartNo) (f : Partition → Partition) (s : State) : (s.onPart p f).loose = s.loose := rfl
@[simp] theorem onPart_accNo (p : PartNo) (f : Partition → Partition) (s : State) : (s.onPart p f).accNo = s.accNo := rfl
@[simp] theorem onPart_lineKeys (p : PartNo) (f : Partition → Partition) (s : State) : (s.onPart p f).lineKeys = s.lineKeys := rfl
@[simp] theorem onPart_landings (p : PartNo) (f : Partition → Partition) (s : State) : (s.onPart p f).landings = s.landings := rfl
@[simp] theorem onPart_landingNo (p : PartNo) (f : Partition → Partition) (s : State) : (s.onPart p f).landingNo = s.landingNo := rfl
@[simp] theorem onPart_rowsWaiting (p : PartNo) (f : Partition → Partition) (s : State) : (s.onPart p f).rowsWaiting = s.rowsWaiting := rfl
@[simp] theorem onPart_rowsFull (p : PartNo) (f : Partition → Partition) (s : State) : (s.onPart p f).rowsFull = s.rowsFull := rfl
@[simp] theorem onPart_matrix (p : PartNo) (f : Partition → Partition) (s : State) : (s.onPart p f).matrix = s.matrix := rfl
@[simp] theorem onPart_matrixCount (p : PartNo) (f : Partition → Partition) (s : State) : (s.onPart p f).matrixCount = s.matrixCount := rfl
@[simp] theorem onPart_atoms (p : PartNo) (f : Partition → Partition) (s : State) : (s.onPart p f).atoms = s.atoms := rfl
@[simp] theorem onPart_atomInstr (p : PartNo) (f : Partition → Partition) (s : State) : (s.onPart p f).atomInstr = s.atomInstr := rfl
@[simp] theorem onPart_detSent (p : PartNo) (f : Partition → Partition) (s : State) : (s.onPart p f).detSent = s.detSent := rfl
@[simp] theorem onPart_detOutbox (p : PartNo) (f : Partition → Partition) (s : State) : (s.onPart p f).detOutbox = s.detOutbox := rfl
@[simp] theorem onPart_detBuf (p : PartNo) (f : Partition → Partition) (s : State) : (s.onPart p f).detBuf = s.detBuf := rfl
@[simp] theorem onPart_detLines (p : PartNo) (f : Partition → Partition) (s : State) : (s.onPart p f).detLines = s.detLines := rfl
@[simp] theorem onPart_served (p : PartNo) (f : Partition → Partition) (s : State) : (s.onPart p f).served = s.served := rfl
@[simp] theorem onPart_slotTable (p : PartNo) (f : Partition → Partition) (s : State) : (s.onPart p f).slotTable = s.slotTable := rfl
@[simp] theorem onPart_windows (p : PartNo) (f : Partition → Partition) (s : State) : (s.onPart p f).windows = s.windows := rfl
@[simp] theorem onPart_gangReady (p : PartNo) (f : Partition → Partition) (s : State) : (s.onPart p f).gangReady = s.gangReady := rfl
@[simp] theorem onPart_divertClock (p : PartNo) (f : Partition → Partition) (s : State) : (s.onPart p f).divertClock = s.divertClock := rfl
@[simp] theorem onPart_tenants (p : PartNo) (f : Partition → Partition) (s : State) : (s.onPart p f).tenants = s.tenants := rfl
@[simp] theorem onPart_repEntries (p : PartNo) (f : Partition → Partition) (s : State) : (s.onPart p f).repEntries = s.repEntries := rfl
@[simp] theorem onPart_repCounters (p : PartNo) (f : Partition → Partition) (s : State) : (s.onPart p f).repCounters = s.repCounters := rfl
@[simp] theorem onPart_pools (p : PartNo) (f : Partition → Partition) (s : State) : (s.onPart p f).pools = s.pools := rfl
@[simp] theorem onPart_trapRecord (p : PartNo) (f : Partition → Partition) (s : State) : (s.onPart p f).trapRecord = s.trapRecord := rfl
@[simp] theorem onPart_bucketCfg (p : PartNo) (f : Partition → Partition) (s : State) : (s.onPart p f).bucketCfg = s.bucketCfg := rfl
@[simp] theorem onPart_buckets (p : PartNo) (f : Partition → Partition) (s : State) : (s.onPart p f).buckets = s.buckets := rfl
@[simp] theorem onPart_poisonTables (p : PartNo) (f : Partition → Partition) (s : State) : (s.onPart p f).poisonTables = s.poisonTables := rfl
@[simp] theorem onPart_links (p : PartNo) (f : Partition → Partition) (s : State) : (s.onPart p f).links = s.links := rfl
@[simp] theorem onPart_lasers (p : PartNo) (f : Partition → Partition) (s : State) : (s.onPart p f).lasers = s.lasers := rfl
@[simp] theorem onPart_eolthr (p : PartNo) (f : Partition → Partition) (s : State) : (s.onPart p f).eolthr = s.eolthr := rfl
@[simp] theorem onPart_trained (p : PartNo) (f : Partition → Partition) (s : State) : (s.onPart p f).trained = s.trained := rfl
@[simp] theorem onPart_node (p : PartNo) (f : Partition → Partition) (s : State) : (s.onPart p f).node = s.node := rfl
@[simp] theorem onPart_master (p : PartNo) (f : Partition → Partition) (s : State) : (s.onPart p f).master = s.master := rfl
@[simp] theorem onPart_slabMap (p : PartNo) (f : Partition → Partition) (s : State) : (s.onPart p f).slabMap = s.slabMap := rfl
@[simp] theorem onPart_badHalves (p : PartNo) (f : Partition → Partition) (s : State) : (s.onPart p f).badHalves = s.badHalves := rfl
@[simp] theorem onPart_rebinds (p : PartNo) (f : Partition → Partition) (s : State) : (s.onPart p f).rebinds = s.rebinds := rfl
@[simp] theorem onPart_sites (p : PartNo) (f : Partition → Partition) (s : State) : (s.onPart p f).sites = s.sites := rfl
@[simp] theorem onPart_siteSwap (p : PartNo) (f : Partition → Partition) (s : State) : (s.onPart p f).siteSwap = s.siteSwap := rfl
@[simp] theorem onPart_siteLog (p : PartNo) (f : Partition → Partition) (s : State) : (s.onPart p f).siteLog = s.siteLog := rfl
@[simp] theorem onPart_regSram (p : PartNo) (f : Partition → Partition) (s : State) : (s.onPart p f).regSram = s.regSram := rfl
@[simp] theorem onPart_gtime (p : PartNo) (f : Partition → Partition) (s : State) : (s.onPart p f).gtime = s.gtime := rfl
@[simp] theorem onPart_slew (p : PartNo) (f : Partition → Partition) (s : State) : (s.onPart p f).slew = s.slew := rfl
@[simp] theorem onPart_slewCredit (p : PartNo) (f : Partition → Partition) (s : State) : (s.onPart p f).slewCredit = s.slewCredit := rfl
@[simp] theorem onPart_timeLost (p : PartNo) (f : Partition → Partition) (s : State) : (s.onPart p f).timeLost = s.timeLost := rfl
@[simp] theorem onPart_timeTold (p : PartNo) (f : Partition → Partition) (s : State) : (s.onPart p f).timeTold = s.timeTold := rfl
@[simp] theorem onPart_cycle (p : PartNo) (f : Partition → Partition) (s : State) : (s.onPart p f).cycle = s.cycle := rfl
@[simp] theorem onPart_stage (p : PartNo) (f : Partition → Partition) (s : State) : (s.onPart p f).stage = s.stage := rfl
@[simp] theorem onPart_fail (p : PartNo) (f : Partition → Partition) (s : State) : (s.onPart p f).fail = s.fail := rfl
@[simp] theorem onPart_mbxArgs (p : PartNo) (f : Partition → Partition) (s : State) : (s.onPart p f).mbxArgs = s.mbxArgs := rfl
@[simp] theorem onPart_mbxBusy (p : PartNo) (f : Partition → Partition) (s : State) : (s.onPart p f).mbxBusy = s.mbxBusy := rfl
@[simp] theorem onPart_mbxOverrun (p : PartNo) (f : Partition → Partition) (s : State) : (s.onPart p f).mbxOverrun = s.mbxOverrun := rfl
@[simp] theorem onPart_mbxResult (p : PartNo) (f : Partition → Partition) (s : State) : (s.onPart p f).mbxResult = s.mbxResult := rfl
@[simp] theorem onPart_mbxTag (p : PartNo) (f : Partition → Partition) (s : State) : (s.onPart p f).mbxTag = s.mbxTag := rfl
@[simp] theorem onPart_mbxRun (p : PartNo) (f : Partition → Partition) (s : State) : (s.onPart p f).mbxRun = s.mbxRun := rfl
@[simp] theorem onPart_mbxCmd (p : PartNo) (f : Partition → Partition) (s : State) : (s.onPart p f).mbxCmd = s.mbxCmd := rfl
@[simp] theorem onPart_mbxEvents (p : PartNo) (f : Partition → Partition) (s : State) : (s.onPart p f).mbxEvents = s.mbxEvents := rfl
@[simp] theorem onPart_mbxLost (p : PartNo) (f : Partition → Partition) (s : State) : (s.onPart p f).mbxLost = s.mbxLost := rfl
@[simp] theorem onPart_chkptHold (p : PartNo) (f : Partition → Partition) (s : State) : (s.onPart p f).chkptHold = s.chkptHold := rfl
@[simp] theorem onPart_images (p : PartNo) (f : Partition → Partition) (s : State) : (s.onPart p f).images = s.images := rfl
@[simp] theorem onPart_keys (p : PartNo) (f : Partition → Partition) (s : State) : (s.onPart p f).keys = s.keys := rfl
@[simp] theorem onPart_loading (p : PartNo) (f : Partition → Partition) (s : State) : (s.onPart p f).loading = s.loading := rfl
@[simp] theorem onPart_session (p : PartNo) (f : Partition → Partition) (s : State) : (s.onPart p f).session = s.session := rfl
@[simp] theorem onPart_alarm (p : PartNo) (f : Partition → Partition) (s : State) : (s.onPart p f).alarm = s.alarm := rfl
@[simp] theorem onPart_cap (p : PartNo) (f : Partition → Partition) (s : State) : (s.onPart p f).cap = s.cap := rfl
@[simp] theorem onPart_powered (p : PartNo) (f : Partition → Partition) (s : State) : (s.onPart p f).powered = s.powered := rfl
@[simp] theorem onPart_digests (p : PartNo) (f : Partition → Partition) (s : State) : (s.onPart p f).digests = s.digests := rfl
@[simp] theorem onPart_fw (p : PartNo) (f : Partition → Partition) (s : State) : (s.onPart p f).fw = s.fw := rfl
@[simp] theorem onPart_agenda (p : PartNo) (f : Partition → Partition) (s : State) : (s.onPart p f).agenda = s.agenda := rfl
@[simp] theorem onPart_outbox (p : PartNo) (f : Partition → Partition) (s : State) : (s.onPart p f).outbox = s.outbox := rfl
@[simp] theorem onPart_free (p : PartNo) (f : Partition → Partition) (s : State) : (s.onPart p f).free = s.free := rfl

/-! ### Sending -/

@[simp] theorem send_outbox (m : OutMsg) (s : State) : (s.send m).outbox = m :: s.outbox := rfl
@[simp] theorem send_stream (m : OutMsg) (s : State) : (s.send m).stream = s.stream := rfl
@[simp] theorem send_holder (m : OutMsg) (s : State) : (s.send m).holder = s.holder := rfl
@[simp] theorem send_shadow (m : OutMsg) (s : State) : (s.send m).shadow = s.shadow := rfl
@[simp] theorem send_mem (m : OutMsg) (s : State) : (s.send m).mem = s.mem := rfl
@[simp] theorem send_plates (m : OutMsg) (s : State) : (s.send m).plates = s.plates := rfl
@[simp] theorem send_abuf (m : OutMsg) (s : State) : (s.send m).abuf = s.abuf := rfl
@[simp] theorem send_stash (m : OutMsg) (s : State) : (s.send m).stash = s.stash := rfl
@[simp] theorem send_poison (m : OutMsg) (s : State) : (s.send m).poison = s.poison := rfl
@[simp] theorem send_platePoison (m : OutMsg) (s : State) : (s.send m).platePoison = s.platePoison := rfl
@[simp] theorem send_staged (m : OutMsg) (s : State) : (s.send m).staged = s.staged := rfl
@[simp] theorem send_heldAccs (m : OutMsg) (s : State) : (s.send m).heldAccs = s.heldAccs := rfl
@[simp] theorem send_marks (m : OutMsg) (s : State) : (s.send m).marks = s.marks := rfl
@[simp] theorem send_loose (m : OutMsg) (s : State) : (s.send m).loose = s.loose := rfl
@[simp] theorem send_accNo (m : OutMsg) (s : State) : (s.send m).accNo = s.accNo := rfl
@[simp] theorem send_lineKeys (m : OutMsg) (s : State) : (s.send m).lineKeys = s.lineKeys := rfl
@[simp] theorem send_landings (m : OutMsg) (s : State) : (s.send m).landings = s.landings := rfl
@[simp] theorem send_landingNo (m : OutMsg) (s : State) : (s.send m).landingNo = s.landingNo := rfl
@[simp] theorem send_rowsWaiting (m : OutMsg) (s : State) : (s.send m).rowsWaiting = s.rowsWaiting := rfl
@[simp] theorem send_rowsFull (m : OutMsg) (s : State) : (s.send m).rowsFull = s.rowsFull := rfl
@[simp] theorem send_matrix (m : OutMsg) (s : State) : (s.send m).matrix = s.matrix := rfl
@[simp] theorem send_matrixCount (m : OutMsg) (s : State) : (s.send m).matrixCount = s.matrixCount := rfl
@[simp] theorem send_atoms (m : OutMsg) (s : State) : (s.send m).atoms = s.atoms := rfl
@[simp] theorem send_atomInstr (m : OutMsg) (s : State) : (s.send m).atomInstr = s.atomInstr := rfl
@[simp] theorem send_detSent (m : OutMsg) (s : State) : (s.send m).detSent = s.detSent := rfl
@[simp] theorem send_detOutbox (m : OutMsg) (s : State) : (s.send m).detOutbox = s.detOutbox := rfl
@[simp] theorem send_detBuf (m : OutMsg) (s : State) : (s.send m).detBuf = s.detBuf := rfl
@[simp] theorem send_detLines (m : OutMsg) (s : State) : (s.send m).detLines = s.detLines := rfl
@[simp] theorem send_served (m : OutMsg) (s : State) : (s.send m).served = s.served := rfl
@[simp] theorem send_parts (m : OutMsg) (s : State) : (s.send m).parts = s.parts := rfl
@[simp] theorem send_slotTable (m : OutMsg) (s : State) : (s.send m).slotTable = s.slotTable := rfl
@[simp] theorem send_windows (m : OutMsg) (s : State) : (s.send m).windows = s.windows := rfl
@[simp] theorem send_gangReady (m : OutMsg) (s : State) : (s.send m).gangReady = s.gangReady := rfl
@[simp] theorem send_divertClock (m : OutMsg) (s : State) : (s.send m).divertClock = s.divertClock := rfl
@[simp] theorem send_tenants (m : OutMsg) (s : State) : (s.send m).tenants = s.tenants := rfl
@[simp] theorem send_repEntries (m : OutMsg) (s : State) : (s.send m).repEntries = s.repEntries := rfl
@[simp] theorem send_repCounters (m : OutMsg) (s : State) : (s.send m).repCounters = s.repCounters := rfl
@[simp] theorem send_pools (m : OutMsg) (s : State) : (s.send m).pools = s.pools := rfl
@[simp] theorem send_trapRecord (m : OutMsg) (s : State) : (s.send m).trapRecord = s.trapRecord := rfl
@[simp] theorem send_bucketCfg (m : OutMsg) (s : State) : (s.send m).bucketCfg = s.bucketCfg := rfl
@[simp] theorem send_buckets (m : OutMsg) (s : State) : (s.send m).buckets = s.buckets := rfl
@[simp] theorem send_poisonTables (m : OutMsg) (s : State) : (s.send m).poisonTables = s.poisonTables := rfl
@[simp] theorem send_links (m : OutMsg) (s : State) : (s.send m).links = s.links := rfl
@[simp] theorem send_lasers (m : OutMsg) (s : State) : (s.send m).lasers = s.lasers := rfl
@[simp] theorem send_eolthr (m : OutMsg) (s : State) : (s.send m).eolthr = s.eolthr := rfl
@[simp] theorem send_trained (m : OutMsg) (s : State) : (s.send m).trained = s.trained := rfl
@[simp] theorem send_node (m : OutMsg) (s : State) : (s.send m).node = s.node := rfl
@[simp] theorem send_master (m : OutMsg) (s : State) : (s.send m).master = s.master := rfl
@[simp] theorem send_slabMap (m : OutMsg) (s : State) : (s.send m).slabMap = s.slabMap := rfl
@[simp] theorem send_badHalves (m : OutMsg) (s : State) : (s.send m).badHalves = s.badHalves := rfl
@[simp] theorem send_rebinds (m : OutMsg) (s : State) : (s.send m).rebinds = s.rebinds := rfl
@[simp] theorem send_sites (m : OutMsg) (s : State) : (s.send m).sites = s.sites := rfl
@[simp] theorem send_siteSwap (m : OutMsg) (s : State) : (s.send m).siteSwap = s.siteSwap := rfl
@[simp] theorem send_siteLog (m : OutMsg) (s : State) : (s.send m).siteLog = s.siteLog := rfl
@[simp] theorem send_regSram (m : OutMsg) (s : State) : (s.send m).regSram = s.regSram := rfl
@[simp] theorem send_gtime (m : OutMsg) (s : State) : (s.send m).gtime = s.gtime := rfl
@[simp] theorem send_slew (m : OutMsg) (s : State) : (s.send m).slew = s.slew := rfl
@[simp] theorem send_slewCredit (m : OutMsg) (s : State) : (s.send m).slewCredit = s.slewCredit := rfl
@[simp] theorem send_timeLost (m : OutMsg) (s : State) : (s.send m).timeLost = s.timeLost := rfl
@[simp] theorem send_timeTold (m : OutMsg) (s : State) : (s.send m).timeTold = s.timeTold := rfl
@[simp] theorem send_cycle (m : OutMsg) (s : State) : (s.send m).cycle = s.cycle := rfl
@[simp] theorem send_stage (m : OutMsg) (s : State) : (s.send m).stage = s.stage := rfl
@[simp] theorem send_fail (m : OutMsg) (s : State) : (s.send m).fail = s.fail := rfl
@[simp] theorem send_mbxArgs (m : OutMsg) (s : State) : (s.send m).mbxArgs = s.mbxArgs := rfl
@[simp] theorem send_mbxBusy (m : OutMsg) (s : State) : (s.send m).mbxBusy = s.mbxBusy := rfl
@[simp] theorem send_mbxOverrun (m : OutMsg) (s : State) : (s.send m).mbxOverrun = s.mbxOverrun := rfl
@[simp] theorem send_mbxResult (m : OutMsg) (s : State) : (s.send m).mbxResult = s.mbxResult := rfl
@[simp] theorem send_mbxTag (m : OutMsg) (s : State) : (s.send m).mbxTag = s.mbxTag := rfl
@[simp] theorem send_mbxRun (m : OutMsg) (s : State) : (s.send m).mbxRun = s.mbxRun := rfl
@[simp] theorem send_mbxCmd (m : OutMsg) (s : State) : (s.send m).mbxCmd = s.mbxCmd := rfl
@[simp] theorem send_mbxEvents (m : OutMsg) (s : State) : (s.send m).mbxEvents = s.mbxEvents := rfl
@[simp] theorem send_mbxLost (m : OutMsg) (s : State) : (s.send m).mbxLost = s.mbxLost := rfl
@[simp] theorem send_chkptHold (m : OutMsg) (s : State) : (s.send m).chkptHold = s.chkptHold := rfl
@[simp] theorem send_images (m : OutMsg) (s : State) : (s.send m).images = s.images := rfl
@[simp] theorem send_keys (m : OutMsg) (s : State) : (s.send m).keys = s.keys := rfl
@[simp] theorem send_loading (m : OutMsg) (s : State) : (s.send m).loading = s.loading := rfl
@[simp] theorem send_session (m : OutMsg) (s : State) : (s.send m).session = s.session := rfl
@[simp] theorem send_alarm (m : OutMsg) (s : State) : (s.send m).alarm = s.alarm := rfl
@[simp] theorem send_cap (m : OutMsg) (s : State) : (s.send m).cap = s.cap := rfl
@[simp] theorem send_powered (m : OutMsg) (s : State) : (s.send m).powered = s.powered := rfl
@[simp] theorem send_digests (m : OutMsg) (s : State) : (s.send m).digests = s.digests := rfl
@[simp] theorem send_fw (m : OutMsg) (s : State) : (s.send m).fw = s.fw := rfl
@[simp] theorem send_agenda (m : OutMsg) (s : State) : (s.send m).agenda = s.agenda := rfl
@[simp] theorem send_free (m : OutMsg) (s : State) : (s.send m).free = s.free := rfl

/-! ### The stream: watching, flags, registers -/

@[simp] theorem watch_s (h : SegRecord → Bool) (x : Stream) : (Stream.watch h x).s = x.s := rfl
@[simp] theorem watch_v (h : SegRecord → Bool) (x : Stream) : (Stream.watch h x).v = x.v := rfl
@[simp] theorem watch_p (h : SegRecord → Bool) (x : Stream) : (Stream.watch h x).p = x.p := rfl
@[simp] theorem watch_acc (h : SegRecord → Bool) (x : Stream) : (Stream.watch h x).acc = x.acc := rfl
@[simp] theorem watch_q (h : SegRecord → Bool) (x : Stream) : (Stream.watch h x).q = x.q := rfl
@[simp] theorem watch_m (h : SegRecord → Bool) (x : Stream) : (Stream.watch h x).m = x.m := rfl
@[simp] theorem watch_e (h : SegRecord → Bool) (x : Stream) : (Stream.watch h x).e = x.e := rfl
@[simp] theorem watch_i (h : SegRecord → Bool) (x : Stream) : (Stream.watch h x).i = x.i := rfl
@[simp] theorem watch_bars (h : SegRecord → Bool) (x : Stream) : (Stream.watch h x).bars = x.bars := rfl
@[simp] theorem watch_ras (h : SegRecord → Bool) (x : Stream) : (Stream.watch h x).ras = x.ras := rfl
@[simp] theorem watch_spilled (h : SegRecord → Bool) (x : Stream) : (Stream.watch h x).spilled = x.spilled := rfl
@[simp] theorem watch_latchV (h : SegRecord → Bool) (x : Stream) : (Stream.watch h x).latchV = x.latchV := rfl
@[simp] theorem watch_latchC (h : SegRecord → Bool) (x : Stream) : (Stream.watch h x).latchC = x.latchC := rfl
@[simp] theorem watch_pc (h : SegRecord → Bool) (x : Stream) : (Stream.watch h x).pc = x.pc := rfl
@[simp] theorem watch_pend (h : SegRecord → Bool) (x : Stream) : (Stream.watch h x).pend = x.pend := rfl
@[simp] theorem watch_loops (h : SegRecord → Bool) (x : Stream) : (Stream.watch h x).loops = x.loops := rfl
@[simp] theorem watch_subMask (h : SegRecord → Bool) (x : Stream) : (Stream.watch h x).subMask = x.subMask := rfl
@[simp] theorem watch_subBase (h : SegRecord → Bool) (x : Stream) : (Stream.watch h x).subBase = x.subBase := rfl
@[simp] theorem watch_tickno (h : SegRecord → Bool) (x : Stream) : (Stream.watch h x).tickno = x.tickno := rfl
@[simp] theorem watch_seedsnap (h : SegRecord → Bool) (x : Stream) : (Stream.watch h x).seedsnap = x.seedsnap := rfl
@[simp] theorem watch_flags (h : SegRecord → Bool) (x : Stream) : (Stream.watch h x).flags = x.flags := rfl
@[simp] theorem watch_det (h : SegRecord → Bool) (x : Stream) : (Stream.watch h x).det = x.det := rfl
@[simp] theorem watch_pure (h : SegRecord → Bool) (x : Stream) : (Stream.watch h x).pure = x.pure := rfl
@[simp] theorem watch_exch (h : SegRecord → Bool) (x : Stream) : (Stream.watch h x).exch = x.exch := rfl
@[simp] theorem watch_rqsafe (h : SegRecord → Bool) (x : Stream) : (Stream.watch h x).rqsafe = x.rqsafe := rfl
@[simp] theorem watch_iter (h : SegRecord → Bool) (x : Stream) : (Stream.watch h x).iter = x.iter := rfl
@[simp] theorem watch_domain (h : SegRecord → Bool) (x : Stream) : (Stream.watch h x).domain = x.domain := rfl
@[simp] theorem watch_taskid (h : SegRecord → Bool) (x : Stream) : (Stream.watch h x).taskid = x.taskid := rfl
@[simp] theorem watch_px (h : SegRecord → Bool) (x : Stream) : (Stream.watch h x).px = x.px := rfl
@[simp] theorem watch_ps (h : SegRecord → Bool) (x : Stream) : (Stream.watch h x).ps = x.ps := rfl
@[simp] theorem watch_rdzSent (h : SegRecord → Bool) (x : Stream) : (Stream.watch h x).rdzSent = x.rdzSent := rfl
@[simp] theorem watch_packTicks (h : SegRecord → Bool) (x : Stream) : (Stream.watch h x).packTicks = x.packTicks := rfl
@[simp] theorem watch_packSyncs (h : SegRecord → Bool) (x : Stream) : (Stream.watch h x).packSyncs = x.packSyncs := rfl
@[simp] theorem watch_subTicks (h : SegRecord → Bool) (x : Stream) : (Stream.watch h x).subTicks = x.subTicks := rfl
@[simp] theorem watch_cubeTicks (h : SegRecord → Bool) (x : Stream) : (Stream.watch h x).cubeTicks = x.cubeTicks := rfl
@[simp] theorem watch_subSyncs (h : SegRecord → Bool) (x : Stream) : (Stream.watch h x).subSyncs = x.subSyncs := rfl
@[simp] theorem watch_cubeSyncs (h : SegRecord → Bool) (x : Stream) : (Stream.watch h x).cubeSyncs = x.cubeSyncs := rfl
@[simp] theorem watch_wait (h : SegRecord → Bool) (x : Stream) : (Stream.watch h x).wait = x.wait := rfl
@[simp] theorem watch_mwait (h : SegRecord → Bool) (x : Stream) : (Stream.watch h x).mwait = x.mwait := rfl
@[simp] theorem watch_stub (h : SegRecord → Bool) (x : Stream) : (Stream.watch h x).stub = x.stub := rfl
@[simp] theorem watch_preempt (h : SegRecord → Bool) (x : Stream) : (Stream.watch h x).preempt = x.preempt := rfl
@[simp] theorem watch_status (h : SegRecord → Bool) (x : Stream) : (Stream.watch h x).status = x.status := rfl
@[simp] theorem watch_hold (h : SegRecord → Bool) (x : Stream) : (Stream.watch h x).hold = x.hold := rfl
@[simp] theorem watch_abort (h : SegRecord → Bool) (x : Stream) : (Stream.watch h x).abort = x.abort := rfl
@[simp] theorem watch_task (h : SegRecord → Bool) (x : Stream) : (Stream.watch h x).task = x.task := rfl

@[simp] theorem raise_s (g : Flags) (x : Stream) : (Stream.raise g x).s = x.s := rfl
@[simp] theorem raise_v (g : Flags) (x : Stream) : (Stream.raise g x).v = x.v := rfl
@[simp] theorem raise_p (g : Flags) (x : Stream) : (Stream.raise g x).p = x.p := rfl
@[simp] theorem raise_acc (g : Flags) (x : Stream) : (Stream.raise g x).acc = x.acc := rfl
@[simp] theorem raise_q (g : Flags) (x : Stream) : (Stream.raise g x).q = x.q := rfl
@[simp] theorem raise_m (g : Flags) (x : Stream) : (Stream.raise g x).m = x.m := rfl
@[simp] theorem raise_e (g : Flags) (x : Stream) : (Stream.raise g x).e = x.e := rfl
@[simp] theorem raise_i (g : Flags) (x : Stream) : (Stream.raise g x).i = x.i := rfl
@[simp] theorem raise_bars (g : Flags) (x : Stream) : (Stream.raise g x).bars = x.bars := rfl
@[simp] theorem raise_ras (g : Flags) (x : Stream) : (Stream.raise g x).ras = x.ras := rfl
@[simp] theorem raise_spilled (g : Flags) (x : Stream) : (Stream.raise g x).spilled = x.spilled := rfl
@[simp] theorem raise_latchV (g : Flags) (x : Stream) : (Stream.raise g x).latchV = x.latchV := rfl
@[simp] theorem raise_latchC (g : Flags) (x : Stream) : (Stream.raise g x).latchC = x.latchC := rfl
@[simp] theorem raise_pc (g : Flags) (x : Stream) : (Stream.raise g x).pc = x.pc := rfl
@[simp] theorem raise_pend (g : Flags) (x : Stream) : (Stream.raise g x).pend = x.pend := rfl
@[simp] theorem raise_loops (g : Flags) (x : Stream) : (Stream.raise g x).loops = x.loops := rfl
@[simp] theorem raise_subMask (g : Flags) (x : Stream) : (Stream.raise g x).subMask = x.subMask := rfl
@[simp] theorem raise_subBase (g : Flags) (x : Stream) : (Stream.raise g x).subBase = x.subBase := rfl
@[simp] theorem raise_tickno (g : Flags) (x : Stream) : (Stream.raise g x).tickno = x.tickno := rfl
@[simp] theorem raise_seedsnap (g : Flags) (x : Stream) : (Stream.raise g x).seedsnap = x.seedsnap := rfl
@[simp] theorem raise_det (g : Flags) (x : Stream) : (Stream.raise g x).det = x.det := rfl
@[simp] theorem raise_pure (g : Flags) (x : Stream) : (Stream.raise g x).pure = x.pure := rfl
@[simp] theorem raise_exch (g : Flags) (x : Stream) : (Stream.raise g x).exch = x.exch := rfl
@[simp] theorem raise_rqsafe (g : Flags) (x : Stream) : (Stream.raise g x).rqsafe = x.rqsafe := rfl
@[simp] theorem raise_iter (g : Flags) (x : Stream) : (Stream.raise g x).iter = x.iter := rfl
@[simp] theorem raise_domain (g : Flags) (x : Stream) : (Stream.raise g x).domain = x.domain := rfl
@[simp] theorem raise_taskid (g : Flags) (x : Stream) : (Stream.raise g x).taskid = x.taskid := rfl
@[simp] theorem raise_px (g : Flags) (x : Stream) : (Stream.raise g x).px = x.px := rfl
@[simp] theorem raise_ps (g : Flags) (x : Stream) : (Stream.raise g x).ps = x.ps := rfl
@[simp] theorem raise_rdzSent (g : Flags) (x : Stream) : (Stream.raise g x).rdzSent = x.rdzSent := rfl
@[simp] theorem raise_packTicks (g : Flags) (x : Stream) : (Stream.raise g x).packTicks = x.packTicks := rfl
@[simp] theorem raise_packSyncs (g : Flags) (x : Stream) : (Stream.raise g x).packSyncs = x.packSyncs := rfl
@[simp] theorem raise_subTicks (g : Flags) (x : Stream) : (Stream.raise g x).subTicks = x.subTicks := rfl
@[simp] theorem raise_cubeTicks (g : Flags) (x : Stream) : (Stream.raise g x).cubeTicks = x.cubeTicks := rfl
@[simp] theorem raise_subSyncs (g : Flags) (x : Stream) : (Stream.raise g x).subSyncs = x.subSyncs := rfl
@[simp] theorem raise_cubeSyncs (g : Flags) (x : Stream) : (Stream.raise g x).cubeSyncs = x.cubeSyncs := rfl
@[simp] theorem raise_wait (g : Flags) (x : Stream) : (Stream.raise g x).wait = x.wait := rfl
@[simp] theorem raise_mwait (g : Flags) (x : Stream) : (Stream.raise g x).mwait = x.mwait := rfl
@[simp] theorem raise_seg (g : Flags) (x : Stream) : (Stream.raise g x).seg = x.seg := rfl
@[simp] theorem raise_stub (g : Flags) (x : Stream) : (Stream.raise g x).stub = x.stub := rfl
@[simp] theorem raise_preempt (g : Flags) (x : Stream) : (Stream.raise g x).preempt = x.preempt := rfl
@[simp] theorem raise_status (g : Flags) (x : Stream) : (Stream.raise g x).status = x.status := rfl
@[simp] theorem raise_hold (g : Flags) (x : Stream) : (Stream.raise g x).hold = x.hold := rfl
@[simp] theorem raise_abort (g : Flags) (x : Stream) : (Stream.raise g x).abort = x.abort := rfl
@[simp] theorem raise_task (g : Flags) (x : Stream) : (Stream.raise g x).task = x.task := rfl

@[simp] theorem raise_flags (g : Flags) (x : Stream) : (Stream.raise g x).flags = x.flags ||| g := rfl
@[simp] theorem setE_e (n : Fin 64) (v : DWord) (x : Stream) : (Stream.setE n v x).e = x.e.set n v := rfl
@[simp] theorem setE_seg (n : Fin 64) (v : DWord) (x : Stream) : (Stream.setE n v x).seg = x.seg := rfl
@[simp] theorem setE_s (n : Fin 64) (v : DWord) (x : Stream) : (Stream.setE n v x).s = x.s := rfl
@[simp] theorem setE_v (n : Fin 64) (v : DWord) (x : Stream) : (Stream.setE n v x).v = x.v := rfl
@[simp] theorem setE_p (n : Fin 64) (v : DWord) (x : Stream) : (Stream.setE n v x).p = x.p := rfl
@[simp] theorem setE_acc (n : Fin 64) (v : DWord) (x : Stream) : (Stream.setE n v x).acc = x.acc := rfl
@[simp] theorem setE_q (n : Fin 64) (v : DWord) (x : Stream) : (Stream.setE n v x).q = x.q := rfl
@[simp] theorem setE_m (n : Fin 64) (v : DWord) (x : Stream) : (Stream.setE n v x).m = x.m := rfl
@[simp] theorem setE_i (n : Fin 64) (v : DWord) (x : Stream) : (Stream.setE n v x).i = x.i := rfl
@[simp] theorem setE_bars (n : Fin 64) (v : DWord) (x : Stream) : (Stream.setE n v x).bars = x.bars := rfl
@[simp] theorem setE_ras (n : Fin 64) (v : DWord) (x : Stream) : (Stream.setE n v x).ras = x.ras := rfl
@[simp] theorem setE_spilled (n : Fin 64) (v : DWord) (x : Stream) : (Stream.setE n v x).spilled = x.spilled := rfl
@[simp] theorem setE_latchV (n : Fin 64) (v : DWord) (x : Stream) : (Stream.setE n v x).latchV = x.latchV := rfl
@[simp] theorem setE_latchC (n : Fin 64) (v : DWord) (x : Stream) : (Stream.setE n v x).latchC = x.latchC := rfl
@[simp] theorem setE_pc (n : Fin 64) (v : DWord) (x : Stream) : (Stream.setE n v x).pc = x.pc := rfl
@[simp] theorem setE_pend (n : Fin 64) (v : DWord) (x : Stream) : (Stream.setE n v x).pend = x.pend := rfl
@[simp] theorem setE_loops (n : Fin 64) (v : DWord) (x : Stream) : (Stream.setE n v x).loops = x.loops := rfl
@[simp] theorem setE_subMask (n : Fin 64) (v : DWord) (x : Stream) : (Stream.setE n v x).subMask = x.subMask := rfl
@[simp] theorem setE_subBase (n : Fin 64) (v : DWord) (x : Stream) : (Stream.setE n v x).subBase = x.subBase := rfl
@[simp] theorem setE_tickno (n : Fin 64) (v : DWord) (x : Stream) : (Stream.setE n v x).tickno = x.tickno := rfl
@[simp] theorem setE_seedsnap (n : Fin 64) (v : DWord) (x : Stream) : (Stream.setE n v x).seedsnap = x.seedsnap := rfl
@[simp] theorem setE_flags (n : Fin 64) (v : DWord) (x : Stream) : (Stream.setE n v x).flags = x.flags := rfl
@[simp] theorem setE_det (n : Fin 64) (v : DWord) (x : Stream) : (Stream.setE n v x).det = x.det := rfl
@[simp] theorem setE_pure (n : Fin 64) (v : DWord) (x : Stream) : (Stream.setE n v x).pure = x.pure := rfl
@[simp] theorem setE_exch (n : Fin 64) (v : DWord) (x : Stream) : (Stream.setE n v x).exch = x.exch := rfl
@[simp] theorem setE_rqsafe (n : Fin 64) (v : DWord) (x : Stream) : (Stream.setE n v x).rqsafe = x.rqsafe := rfl
@[simp] theorem setE_iter (n : Fin 64) (v : DWord) (x : Stream) : (Stream.setE n v x).iter = x.iter := rfl
@[simp] theorem setE_domain (n : Fin 64) (v : DWord) (x : Stream) : (Stream.setE n v x).domain = x.domain := rfl
@[simp] theorem setE_taskid (n : Fin 64) (v : DWord) (x : Stream) : (Stream.setE n v x).taskid = x.taskid := rfl
@[simp] theorem setE_px (n : Fin 64) (v : DWord) (x : Stream) : (Stream.setE n v x).px = x.px := rfl
@[simp] theorem setE_ps (n : Fin 64) (v : DWord) (x : Stream) : (Stream.setE n v x).ps = x.ps := rfl
@[simp] theorem setE_rdzSent (n : Fin 64) (v : DWord) (x : Stream) : (Stream.setE n v x).rdzSent = x.rdzSent := rfl
@[simp] theorem setE_packTicks (n : Fin 64) (v : DWord) (x : Stream) : (Stream.setE n v x).packTicks = x.packTicks := rfl
@[simp] theorem setE_packSyncs (n : Fin 64) (v : DWord) (x : Stream) : (Stream.setE n v x).packSyncs = x.packSyncs := rfl
@[simp] theorem setE_subTicks (n : Fin 64) (v : DWord) (x : Stream) : (Stream.setE n v x).subTicks = x.subTicks := rfl
@[simp] theorem setE_cubeTicks (n : Fin 64) (v : DWord) (x : Stream) : (Stream.setE n v x).cubeTicks = x.cubeTicks := rfl
@[simp] theorem setE_subSyncs (n : Fin 64) (v : DWord) (x : Stream) : (Stream.setE n v x).subSyncs = x.subSyncs := rfl
@[simp] theorem setE_cubeSyncs (n : Fin 64) (v : DWord) (x : Stream) : (Stream.setE n v x).cubeSyncs = x.cubeSyncs := rfl
@[simp] theorem setE_wait (n : Fin 64) (v : DWord) (x : Stream) : (Stream.setE n v x).wait = x.wait := rfl
@[simp] theorem setE_mwait (n : Fin 64) (v : DWord) (x : Stream) : (Stream.setE n v x).mwait = x.mwait := rfl
@[simp] theorem setE_stub (n : Fin 64) (v : DWord) (x : Stream) : (Stream.setE n v x).stub = x.stub := rfl
@[simp] theorem setE_preempt (n : Fin 64) (v : DWord) (x : Stream) : (Stream.setE n v x).preempt = x.preempt := rfl
@[simp] theorem setE_status (n : Fin 64) (v : DWord) (x : Stream) : (Stream.setE n v x).status = x.status := rfl
@[simp] theorem setE_hold (n : Fin 64) (v : DWord) (x : Stream) : (Stream.setE n v x).hold = x.hold := rfl
@[simp] theorem setE_abort (n : Fin 64) (v : DWord) (x : Stream) : (Stream.setE n v x).abort = x.abort := rfl
@[simp] theorem setE_task (n : Fin 64) (v : DWord) (x : Stream) : (Stream.setE n v x).task = x.task := rfl

@[simp] theorem setV_v (r : RegNo) (g : Nat → Word) (x : Stream) : (Stream.setV r g x).v = x.v.blit (1024 * r.val) 1024 g := rfl
@[simp] theorem setV_s (r : RegNo) (g : Nat → Word) (x : Stream) : (Stream.setV r g x).s = x.s := rfl
@[simp] theorem setV_p (r : RegNo) (g : Nat → Word) (x : Stream) : (Stream.setV r g x).p = x.p := rfl
@[simp] theorem setV_acc (r : RegNo) (g : Nat → Word) (x : Stream) : (Stream.setV r g x).acc = x.acc := rfl
@[simp] theorem setV_q (r : RegNo) (g : Nat → Word) (x : Stream) : (Stream.setV r g x).q = x.q := rfl
@[simp] theorem setV_m (r : RegNo) (g : Nat → Word) (x : Stream) : (Stream.setV r g x).m = x.m := rfl
@[simp] theorem setV_e (r : RegNo) (g : Nat → Word) (x : Stream) : (Stream.setV r g x).e = x.e := rfl
@[simp] theorem setV_i (r : RegNo) (g : Nat → Word) (x : Stream) : (Stream.setV r g x).i = x.i := rfl
@[simp] theorem setV_bars (r : RegNo) (g : Nat → Word) (x : Stream) : (Stream.setV r g x).bars = x.bars := rfl
@[simp] theorem setV_ras (r : RegNo) (g : Nat → Word) (x : Stream) : (Stream.setV r g x).ras = x.ras := rfl
@[simp] theorem setV_spilled (r : RegNo) (g : Nat → Word) (x : Stream) : (Stream.setV r g x).spilled = x.spilled := rfl
@[simp] theorem setV_latchV (r : RegNo) (g : Nat → Word) (x : Stream) : (Stream.setV r g x).latchV = x.latchV := rfl
@[simp] theorem setV_latchC (r : RegNo) (g : Nat → Word) (x : Stream) : (Stream.setV r g x).latchC = x.latchC := rfl
@[simp] theorem setV_pc (r : RegNo) (g : Nat → Word) (x : Stream) : (Stream.setV r g x).pc = x.pc := rfl
@[simp] theorem setV_pend (r : RegNo) (g : Nat → Word) (x : Stream) : (Stream.setV r g x).pend = x.pend := rfl
@[simp] theorem setV_loops (r : RegNo) (g : Nat → Word) (x : Stream) : (Stream.setV r g x).loops = x.loops := rfl
@[simp] theorem setV_subMask (r : RegNo) (g : Nat → Word) (x : Stream) : (Stream.setV r g x).subMask = x.subMask := rfl
@[simp] theorem setV_subBase (r : RegNo) (g : Nat → Word) (x : Stream) : (Stream.setV r g x).subBase = x.subBase := rfl
@[simp] theorem setV_tickno (r : RegNo) (g : Nat → Word) (x : Stream) : (Stream.setV r g x).tickno = x.tickno := rfl
@[simp] theorem setV_seedsnap (r : RegNo) (g : Nat → Word) (x : Stream) : (Stream.setV r g x).seedsnap = x.seedsnap := rfl
@[simp] theorem setV_flags (r : RegNo) (g : Nat → Word) (x : Stream) : (Stream.setV r g x).flags = x.flags := rfl
@[simp] theorem setV_det (r : RegNo) (g : Nat → Word) (x : Stream) : (Stream.setV r g x).det = x.det := rfl
@[simp] theorem setV_pure (r : RegNo) (g : Nat → Word) (x : Stream) : (Stream.setV r g x).pure = x.pure := rfl
@[simp] theorem setV_exch (r : RegNo) (g : Nat → Word) (x : Stream) : (Stream.setV r g x).exch = x.exch := rfl
@[simp] theorem setV_rqsafe (r : RegNo) (g : Nat → Word) (x : Stream) : (Stream.setV r g x).rqsafe = x.rqsafe := rfl
@[simp] theorem setV_iter (r : RegNo) (g : Nat → Word) (x : Stream) : (Stream.setV r g x).iter = x.iter := rfl
@[simp] theorem setV_domain (r : RegNo) (g : Nat → Word) (x : Stream) : (Stream.setV r g x).domain = x.domain := rfl
@[simp] theorem setV_taskid (r : RegNo) (g : Nat → Word) (x : Stream) : (Stream.setV r g x).taskid = x.taskid := rfl
@[simp] theorem setV_px (r : RegNo) (g : Nat → Word) (x : Stream) : (Stream.setV r g x).px = x.px := rfl
@[simp] theorem setV_ps (r : RegNo) (g : Nat → Word) (x : Stream) : (Stream.setV r g x).ps = x.ps := rfl
@[simp] theorem setV_rdzSent (r : RegNo) (g : Nat → Word) (x : Stream) : (Stream.setV r g x).rdzSent = x.rdzSent := rfl
@[simp] theorem setV_packTicks (r : RegNo) (g : Nat → Word) (x : Stream) : (Stream.setV r g x).packTicks = x.packTicks := rfl
@[simp] theorem setV_packSyncs (r : RegNo) (g : Nat → Word) (x : Stream) : (Stream.setV r g x).packSyncs = x.packSyncs := rfl
@[simp] theorem setV_subTicks (r : RegNo) (g : Nat → Word) (x : Stream) : (Stream.setV r g x).subTicks = x.subTicks := rfl
@[simp] theorem setV_cubeTicks (r : RegNo) (g : Nat → Word) (x : Stream) : (Stream.setV r g x).cubeTicks = x.cubeTicks := rfl
@[simp] theorem setV_subSyncs (r : RegNo) (g : Nat → Word) (x : Stream) : (Stream.setV r g x).subSyncs = x.subSyncs := rfl
@[simp] theorem setV_cubeSyncs (r : RegNo) (g : Nat → Word) (x : Stream) : (Stream.setV r g x).cubeSyncs = x.cubeSyncs := rfl
@[simp] theorem setV_wait (r : RegNo) (g : Nat → Word) (x : Stream) : (Stream.setV r g x).wait = x.wait := rfl
@[simp] theorem setV_mwait (r : RegNo) (g : Nat → Word) (x : Stream) : (Stream.setV r g x).mwait = x.mwait := rfl
@[simp] theorem setV_stub (r : RegNo) (g : Nat → Word) (x : Stream) : (Stream.setV r g x).stub = x.stub := rfl
@[simp] theorem setV_preempt (r : RegNo) (g : Nat → Word) (x : Stream) : (Stream.setV r g x).preempt = x.preempt := rfl
@[simp] theorem setV_status (r : RegNo) (g : Nat → Word) (x : Stream) : (Stream.setV r g x).status = x.status := rfl
@[simp] theorem setV_hold (r : RegNo) (g : Nat → Word) (x : Stream) : (Stream.setV r g x).hold = x.hold := rfl
@[simp] theorem setV_abort (r : RegNo) (g : Nat → Word) (x : Stream) : (Stream.setV r g x).abort = x.abort := rfl
@[simp] theorem setV_task (r : RegNo) (g : Nat → Word) (x : Stream) : (Stream.setV r g x).task = x.task := rfl

@[simp] theorem setI_i (n : Fin 6) (v : Word) (x : Stream) : (Stream.setI n v x).i = x.i.set n v := rfl
@[simp] theorem setI_s (n : Fin 6) (v : Word) (x : Stream) : (Stream.setI n v x).s = x.s := rfl
@[simp] theorem setI_v (n : Fin 6) (v : Word) (x : Stream) : (Stream.setI n v x).v = x.v := rfl
@[simp] theorem setI_p (n : Fin 6) (v : Word) (x : Stream) : (Stream.setI n v x).p = x.p := rfl
@[simp] theorem setI_acc (n : Fin 6) (v : Word) (x : Stream) : (Stream.setI n v x).acc = x.acc := rfl
@[simp] theorem setI_q (n : Fin 6) (v : Word) (x : Stream) : (Stream.setI n v x).q = x.q := rfl
@[simp] theorem setI_m (n : Fin 6) (v : Word) (x : Stream) : (Stream.setI n v x).m = x.m := rfl
@[simp] theorem setI_e (n : Fin 6) (v : Word) (x : Stream) : (Stream.setI n v x).e = x.e := rfl
@[simp] theorem setI_bars (n : Fin 6) (v : Word) (x : Stream) : (Stream.setI n v x).bars = x.bars := rfl
@[simp] theorem setI_ras (n : Fin 6) (v : Word) (x : Stream) : (Stream.setI n v x).ras = x.ras := rfl
@[simp] theorem setI_spilled (n : Fin 6) (v : Word) (x : Stream) : (Stream.setI n v x).spilled = x.spilled := rfl
@[simp] theorem setI_latchV (n : Fin 6) (v : Word) (x : Stream) : (Stream.setI n v x).latchV = x.latchV := rfl
@[simp] theorem setI_latchC (n : Fin 6) (v : Word) (x : Stream) : (Stream.setI n v x).latchC = x.latchC := rfl
@[simp] theorem setI_pc (n : Fin 6) (v : Word) (x : Stream) : (Stream.setI n v x).pc = x.pc := rfl
@[simp] theorem setI_pend (n : Fin 6) (v : Word) (x : Stream) : (Stream.setI n v x).pend = x.pend := rfl
@[simp] theorem setI_loops (n : Fin 6) (v : Word) (x : Stream) : (Stream.setI n v x).loops = x.loops := rfl
@[simp] theorem setI_subMask (n : Fin 6) (v : Word) (x : Stream) : (Stream.setI n v x).subMask = x.subMask := rfl
@[simp] theorem setI_subBase (n : Fin 6) (v : Word) (x : Stream) : (Stream.setI n v x).subBase = x.subBase := rfl
@[simp] theorem setI_tickno (n : Fin 6) (v : Word) (x : Stream) : (Stream.setI n v x).tickno = x.tickno := rfl
@[simp] theorem setI_seedsnap (n : Fin 6) (v : Word) (x : Stream) : (Stream.setI n v x).seedsnap = x.seedsnap := rfl
@[simp] theorem setI_flags (n : Fin 6) (v : Word) (x : Stream) : (Stream.setI n v x).flags = x.flags := rfl
@[simp] theorem setI_det (n : Fin 6) (v : Word) (x : Stream) : (Stream.setI n v x).det = x.det := rfl
@[simp] theorem setI_pure (n : Fin 6) (v : Word) (x : Stream) : (Stream.setI n v x).pure = x.pure := rfl
@[simp] theorem setI_exch (n : Fin 6) (v : Word) (x : Stream) : (Stream.setI n v x).exch = x.exch := rfl
@[simp] theorem setI_rqsafe (n : Fin 6) (v : Word) (x : Stream) : (Stream.setI n v x).rqsafe = x.rqsafe := rfl
@[simp] theorem setI_iter (n : Fin 6) (v : Word) (x : Stream) : (Stream.setI n v x).iter = x.iter := rfl
@[simp] theorem setI_domain (n : Fin 6) (v : Word) (x : Stream) : (Stream.setI n v x).domain = x.domain := rfl
@[simp] theorem setI_taskid (n : Fin 6) (v : Word) (x : Stream) : (Stream.setI n v x).taskid = x.taskid := rfl
@[simp] theorem setI_px (n : Fin 6) (v : Word) (x : Stream) : (Stream.setI n v x).px = x.px := rfl
@[simp] theorem setI_ps (n : Fin 6) (v : Word) (x : Stream) : (Stream.setI n v x).ps = x.ps := rfl
@[simp] theorem setI_rdzSent (n : Fin 6) (v : Word) (x : Stream) : (Stream.setI n v x).rdzSent = x.rdzSent := rfl
@[simp] theorem setI_packTicks (n : Fin 6) (v : Word) (x : Stream) : (Stream.setI n v x).packTicks = x.packTicks := rfl
@[simp] theorem setI_packSyncs (n : Fin 6) (v : Word) (x : Stream) : (Stream.setI n v x).packSyncs = x.packSyncs := rfl
@[simp] theorem setI_subTicks (n : Fin 6) (v : Word) (x : Stream) : (Stream.setI n v x).subTicks = x.subTicks := rfl
@[simp] theorem setI_cubeTicks (n : Fin 6) (v : Word) (x : Stream) : (Stream.setI n v x).cubeTicks = x.cubeTicks := rfl
@[simp] theorem setI_subSyncs (n : Fin 6) (v : Word) (x : Stream) : (Stream.setI n v x).subSyncs = x.subSyncs := rfl
@[simp] theorem setI_cubeSyncs (n : Fin 6) (v : Word) (x : Stream) : (Stream.setI n v x).cubeSyncs = x.cubeSyncs := rfl
@[simp] theorem setI_wait (n : Fin 6) (v : Word) (x : Stream) : (Stream.setI n v x).wait = x.wait := rfl
@[simp] theorem setI_mwait (n : Fin 6) (v : Word) (x : Stream) : (Stream.setI n v x).mwait = x.mwait := rfl
@[simp] theorem setI_stub (n : Fin 6) (v : Word) (x : Stream) : (Stream.setI n v x).stub = x.stub := rfl
@[simp] theorem setI_preempt (n : Fin 6) (v : Word) (x : Stream) : (Stream.setI n v x).preempt = x.preempt := rfl
@[simp] theorem setI_status (n : Fin 6) (v : Word) (x : Stream) : (Stream.setI n v x).status = x.status := rfl
@[simp] theorem setI_hold (n : Fin 6) (v : Word) (x : Stream) : (Stream.setI n v x).hold = x.hold := rfl
@[simp] theorem setI_abort (n : Fin 6) (v : Word) (x : Stream) : (Stream.setI n v x).abort = x.abort := rfl
@[simp] theorem setI_task (n : Fin 6) (v : Word) (x : Stream) : (Stream.setI n v x).task = x.task := rfl

@[simp] theorem closeSeg_seg (x : Stream) : (Stream.closeSeg x).seg = none := rfl
@[simp] theorem closeSeg_s (x : Stream) : (Stream.closeSeg x).s = x.s := rfl
@[simp] theorem closeSeg_v (x : Stream) : (Stream.closeSeg x).v = x.v := rfl
@[simp] theorem closeSeg_p (x : Stream) : (Stream.closeSeg x).p = x.p := rfl
@[simp] theorem closeSeg_acc (x : Stream) : (Stream.closeSeg x).acc = x.acc := rfl
@[simp] theorem closeSeg_q (x : Stream) : (Stream.closeSeg x).q = x.q := rfl
@[simp] theorem closeSeg_m (x : Stream) : (Stream.closeSeg x).m = x.m := rfl
@[simp] theorem closeSeg_e (x : Stream) : (Stream.closeSeg x).e = x.e := rfl
@[simp] theorem closeSeg_i (x : Stream) : (Stream.closeSeg x).i = x.i := rfl
@[simp] theorem closeSeg_bars (x : Stream) : (Stream.closeSeg x).bars = x.bars := rfl
@[simp] theorem closeSeg_ras (x : Stream) : (Stream.closeSeg x).ras = x.ras := rfl
@[simp] theorem closeSeg_spilled (x : Stream) : (Stream.closeSeg x).spilled = x.spilled := rfl
@[simp] theorem closeSeg_latchV (x : Stream) : (Stream.closeSeg x).latchV = x.latchV := rfl
@[simp] theorem closeSeg_latchC (x : Stream) : (Stream.closeSeg x).latchC = x.latchC := rfl
@[simp] theorem closeSeg_pc (x : Stream) : (Stream.closeSeg x).pc = x.pc := rfl
@[simp] theorem closeSeg_pend (x : Stream) : (Stream.closeSeg x).pend = x.pend := rfl
@[simp] theorem closeSeg_loops (x : Stream) : (Stream.closeSeg x).loops = x.loops := rfl
@[simp] theorem closeSeg_subMask (x : Stream) : (Stream.closeSeg x).subMask = x.subMask := rfl
@[simp] theorem closeSeg_subBase (x : Stream) : (Stream.closeSeg x).subBase = x.subBase := rfl
@[simp] theorem closeSeg_tickno (x : Stream) : (Stream.closeSeg x).tickno = x.tickno := rfl
@[simp] theorem closeSeg_seedsnap (x : Stream) : (Stream.closeSeg x).seedsnap = x.seedsnap := rfl
@[simp] theorem closeSeg_flags (x : Stream) : (Stream.closeSeg x).flags = x.flags := rfl
@[simp] theorem closeSeg_det (x : Stream) : (Stream.closeSeg x).det = x.det := rfl
@[simp] theorem closeSeg_pure (x : Stream) : (Stream.closeSeg x).pure = x.pure := rfl
@[simp] theorem closeSeg_exch (x : Stream) : (Stream.closeSeg x).exch = x.exch := rfl
@[simp] theorem closeSeg_rqsafe (x : Stream) : (Stream.closeSeg x).rqsafe = x.rqsafe := rfl
@[simp] theorem closeSeg_iter (x : Stream) : (Stream.closeSeg x).iter = x.iter := rfl
@[simp] theorem closeSeg_domain (x : Stream) : (Stream.closeSeg x).domain = x.domain := rfl
@[simp] theorem closeSeg_taskid (x : Stream) : (Stream.closeSeg x).taskid = x.taskid := rfl
@[simp] theorem closeSeg_px (x : Stream) : (Stream.closeSeg x).px = x.px := rfl
@[simp] theorem closeSeg_ps (x : Stream) : (Stream.closeSeg x).ps = x.ps := rfl
@[simp] theorem closeSeg_rdzSent (x : Stream) : (Stream.closeSeg x).rdzSent = x.rdzSent := rfl
@[simp] theorem closeSeg_packTicks (x : Stream) : (Stream.closeSeg x).packTicks = x.packTicks := rfl
@[simp] theorem closeSeg_packSyncs (x : Stream) : (Stream.closeSeg x).packSyncs = x.packSyncs := rfl
@[simp] theorem closeSeg_subTicks (x : Stream) : (Stream.closeSeg x).subTicks = x.subTicks := rfl
@[simp] theorem closeSeg_cubeTicks (x : Stream) : (Stream.closeSeg x).cubeTicks = x.cubeTicks := rfl
@[simp] theorem closeSeg_subSyncs (x : Stream) : (Stream.closeSeg x).subSyncs = x.subSyncs := rfl
@[simp] theorem closeSeg_cubeSyncs (x : Stream) : (Stream.closeSeg x).cubeSyncs = x.cubeSyncs := rfl
@[simp] theorem closeSeg_wait (x : Stream) : (Stream.closeSeg x).wait = x.wait := rfl
@[simp] theorem closeSeg_mwait (x : Stream) : (Stream.closeSeg x).mwait = x.mwait := rfl
@[simp] theorem closeSeg_stub (x : Stream) : (Stream.closeSeg x).stub = x.stub := rfl
@[simp] theorem closeSeg_preempt (x : Stream) : (Stream.closeSeg x).preempt = x.preempt := rfl
@[simp] theorem closeSeg_status (x : Stream) : (Stream.closeSeg x).status = x.status := rfl
@[simp] theorem closeSeg_hold (x : Stream) : (Stream.closeSeg x).hold = x.hold := rfl
@[simp] theorem closeSeg_abort (x : Stream) : (Stream.closeSeg x).abort = x.abort := rfl
@[simp] theorem closeSeg_task (x : Stream) : (Stream.closeSeg x).task = x.task := rfl

@[simp] theorem spoil_s (x : Stream) : (Stream.spoil x).s = x.s := rfl
@[simp] theorem spoil_v (x : Stream) : (Stream.spoil x).v = x.v := rfl
@[simp] theorem spoil_p (x : Stream) : (Stream.spoil x).p = x.p := rfl
@[simp] theorem spoil_acc (x : Stream) : (Stream.spoil x).acc = x.acc := rfl
@[simp] theorem spoil_q (x : Stream) : (Stream.spoil x).q = x.q := rfl
@[simp] theorem spoil_m (x : Stream) : (Stream.spoil x).m = x.m := rfl
@[simp] theorem spoil_e (x : Stream) : (Stream.spoil x).e = x.e := rfl
@[simp] theorem spoil_i (x : Stream) : (Stream.spoil x).i = x.i := rfl
@[simp] theorem spoil_bars (x : Stream) : (Stream.spoil x).bars = x.bars := rfl
@[simp] theorem spoil_ras (x : Stream) : (Stream.spoil x).ras = x.ras := rfl
@[simp] theorem spoil_spilled (x : Stream) : (Stream.spoil x).spilled = x.spilled := rfl
@[simp] theorem spoil_latchV (x : Stream) : (Stream.spoil x).latchV = x.latchV := rfl
@[simp] theorem spoil_latchC (x : Stream) : (Stream.spoil x).latchC = x.latchC := rfl
@[simp] theorem spoil_pc (x : Stream) : (Stream.spoil x).pc = x.pc := rfl
@[simp] theorem spoil_pend (x : Stream) : (Stream.spoil x).pend = x.pend := rfl
@[simp] theorem spoil_loops (x : Stream) : (Stream.spoil x).loops = x.loops := rfl
@[simp] theorem spoil_subMask (x : Stream) : (Stream.spoil x).subMask = x.subMask := rfl
@[simp] theorem spoil_subBase (x : Stream) : (Stream.spoil x).subBase = x.subBase := rfl
@[simp] theorem spoil_tickno (x : Stream) : (Stream.spoil x).tickno = x.tickno := rfl
@[simp] theorem spoil_seedsnap (x : Stream) : (Stream.spoil x).seedsnap = x.seedsnap := rfl
@[simp] theorem spoil_flags (x : Stream) : (Stream.spoil x).flags = x.flags := rfl
@[simp] theorem spoil_det (x : Stream) : (Stream.spoil x).det = x.det := rfl
@[simp] theorem spoil_pure (x : Stream) : (Stream.spoil x).pure = x.pure := rfl
@[simp] theorem spoil_exch (x : Stream) : (Stream.spoil x).exch = x.exch := rfl
@[simp] theorem spoil_rqsafe (x : Stream) : (Stream.spoil x).rqsafe = x.rqsafe := rfl
@[simp] theorem spoil_iter (x : Stream) : (Stream.spoil x).iter = x.iter := rfl
@[simp] theorem spoil_domain (x : Stream) : (Stream.spoil x).domain = x.domain := rfl
@[simp] theorem spoil_taskid (x : Stream) : (Stream.spoil x).taskid = x.taskid := rfl
@[simp] theorem spoil_px (x : Stream) : (Stream.spoil x).px = x.px := rfl
@[simp] theorem spoil_ps (x : Stream) : (Stream.spoil x).ps = x.ps := rfl
@[simp] theorem spoil_rdzSent (x : Stream) : (Stream.spoil x).rdzSent = x.rdzSent := rfl
@[simp] theorem spoil_packTicks (x : Stream) : (Stream.spoil x).packTicks = x.packTicks := rfl
@[simp] theorem spoil_packSyncs (x : Stream) : (Stream.spoil x).packSyncs = x.packSyncs := rfl
@[simp] theorem spoil_subTicks (x : Stream) : (Stream.spoil x).subTicks = x.subTicks := rfl
@[simp] theorem spoil_cubeTicks (x : Stream) : (Stream.spoil x).cubeTicks = x.cubeTicks := rfl
@[simp] theorem spoil_subSyncs (x : Stream) : (Stream.spoil x).subSyncs = x.subSyncs := rfl
@[simp] theorem spoil_cubeSyncs (x : Stream) : (Stream.spoil x).cubeSyncs = x.cubeSyncs := rfl
@[simp] theorem spoil_wait (x : Stream) : (Stream.spoil x).wait = x.wait := rfl
@[simp] theorem spoil_mwait (x : Stream) : (Stream.spoil x).mwait = x.mwait := rfl
@[simp] theorem spoil_stub (x : Stream) : (Stream.spoil x).stub = x.stub := rfl
@[simp] theorem spoil_preempt (x : Stream) : (Stream.spoil x).preempt = x.preempt := rfl
@[simp] theorem spoil_status (x : Stream) : (Stream.spoil x).status = x.status := rfl
@[simp] theorem spoil_hold (x : Stream) : (Stream.spoil x).hold = x.hold := rfl
@[simp] theorem spoil_abort (x : Stream) : (Stream.spoil x).abort = x.abort := rfl
@[simp] theorem spoil_task (x : Stream) : (Stream.spoil x).task = x.task := rfl

@[simp] theorem setS_v (r : RegNo) (v : DWord) (x : Stream) : (Stream.setS r v x).v = x.v := by
  unfold Stream.setS; split <;> rfl
@[simp] theorem setS_p (r : RegNo) (v : DWord) (x : Stream) : (Stream.setS r v x).p = x.p := by
  unfold Stream.setS; split <;> rfl
@[simp] theorem setS_acc (r : RegNo) (v : DWord) (x : Stream) : (Stream.setS r v x).acc = x.acc := by
  unfold Stream.setS; split <;> rfl
@[simp] theorem setS_q (r : RegNo) (v : DWord) (x : Stream) : (Stream.setS r v x).q = x.q := by
  unfold Stream.setS; split <;> rfl
@[simp] theorem setS_m (r : RegNo) (v : DWord) (x : Stream) : (Stream.setS r v x).m = x.m := by
  unfold Stream.setS; split <;> rfl
@[simp] theorem setS_e (r : RegNo) (v : DWord) (x : Stream) : (Stream.setS r v x).e = x.e := by
  unfold Stream.setS; split <;> rfl
@[simp] theorem setS_i (r : RegNo) (v : DWord) (x : Stream) : (Stream.setS r v x).i = x.i := by
  unfold Stream.setS; split <;> rfl
@[simp] theorem setS_bars (r : RegNo) (v : DWord) (x : Stream) : (Stream.setS r v x).bars = x.bars := by
  unfold Stream.setS; split <;> rfl
@[simp] theorem setS_ras (r : RegNo) (v : DWord) (x : Stream) : (Stream.setS r v x).ras = x.ras := by
  unfold Stream.setS; split <;> rfl
@[simp] theorem setS_spilled (r : RegNo) (v : DWord) (x : Stream) : (Stream.setS r v x).spilled = x.spilled := by
  unfold Stream.setS; split <;> rfl
@[simp] theorem setS_latchV (r : RegNo) (v : DWord) (x : Stream) : (Stream.setS r v x).latchV = x.latchV := by
  unfold Stream.setS; split <;> rfl
@[simp] theorem setS_latchC (r : RegNo) (v : DWord) (x : Stream) : (Stream.setS r v x).latchC = x.latchC := by
  unfold Stream.setS; split <;> rfl
@[simp] theorem setS_pc (r : RegNo) (v : DWord) (x : Stream) : (Stream.setS r v x).pc = x.pc := by
  unfold Stream.setS; split <;> rfl
@[simp] theorem setS_pend (r : RegNo) (v : DWord) (x : Stream) : (Stream.setS r v x).pend = x.pend := by
  unfold Stream.setS; split <;> rfl
@[simp] theorem setS_loops (r : RegNo) (v : DWord) (x : Stream) : (Stream.setS r v x).loops = x.loops := by
  unfold Stream.setS; split <;> rfl
@[simp] theorem setS_subMask (r : RegNo) (v : DWord) (x : Stream) : (Stream.setS r v x).subMask = x.subMask := by
  unfold Stream.setS; split <;> rfl
@[simp] theorem setS_subBase (r : RegNo) (v : DWord) (x : Stream) : (Stream.setS r v x).subBase = x.subBase := by
  unfold Stream.setS; split <;> rfl
@[simp] theorem setS_tickno (r : RegNo) (v : DWord) (x : Stream) : (Stream.setS r v x).tickno = x.tickno := by
  unfold Stream.setS; split <;> rfl
@[simp] theorem setS_seedsnap (r : RegNo) (v : DWord) (x : Stream) : (Stream.setS r v x).seedsnap = x.seedsnap := by
  unfold Stream.setS; split <;> rfl
@[simp] theorem setS_flags (r : RegNo) (v : DWord) (x : Stream) : (Stream.setS r v x).flags = x.flags := by
  unfold Stream.setS; split <;> rfl
@[simp] theorem setS_det (r : RegNo) (v : DWord) (x : Stream) : (Stream.setS r v x).det = x.det := by
  unfold Stream.setS; split <;> rfl
@[simp] theorem setS_pure (r : RegNo) (v : DWord) (x : Stream) : (Stream.setS r v x).pure = x.pure := by
  unfold Stream.setS; split <;> rfl
@[simp] theorem setS_exch (r : RegNo) (v : DWord) (x : Stream) : (Stream.setS r v x).exch = x.exch := by
  unfold Stream.setS; split <;> rfl
@[simp] theorem setS_rqsafe (r : RegNo) (v : DWord) (x : Stream) : (Stream.setS r v x).rqsafe = x.rqsafe := by
  unfold Stream.setS; split <;> rfl
@[simp] theorem setS_iter (r : RegNo) (v : DWord) (x : Stream) : (Stream.setS r v x).iter = x.iter := by
  unfold Stream.setS; split <;> rfl
@[simp] theorem setS_domain (r : RegNo) (v : DWord) (x : Stream) : (Stream.setS r v x).domain = x.domain := by
  unfold Stream.setS; split <;> rfl
@[simp] theorem setS_taskid (r : RegNo) (v : DWord) (x : Stream) : (Stream.setS r v x).taskid = x.taskid := by
  unfold Stream.setS; split <;> rfl
@[simp] theorem setS_px (r : RegNo) (v : DWord) (x : Stream) : (Stream.setS r v x).px = x.px := by
  unfold Stream.setS; split <;> rfl
@[simp] theorem setS_ps (r : RegNo) (v : DWord) (x : Stream) : (Stream.setS r v x).ps = x.ps := by
  unfold Stream.setS; split <;> rfl
@[simp] theorem setS_rdzSent (r : RegNo) (v : DWord) (x : Stream) : (Stream.setS r v x).rdzSent = x.rdzSent := by
  unfold Stream.setS; split <;> rfl
@[simp] theorem setS_packTicks (r : RegNo) (v : DWord) (x : Stream) : (Stream.setS r v x).packTicks = x.packTicks := by
  unfold Stream.setS; split <;> rfl
@[simp] theorem setS_packSyncs (r : RegNo) (v : DWord) (x : Stream) : (Stream.setS r v x).packSyncs = x.packSyncs := by
  unfold Stream.setS; split <;> rfl
@[simp] theorem setS_subTicks (r : RegNo) (v : DWord) (x : Stream) : (Stream.setS r v x).subTicks = x.subTicks := by
  unfold Stream.setS; split <;> rfl
@[simp] theorem setS_cubeTicks (r : RegNo) (v : DWord) (x : Stream) : (Stream.setS r v x).cubeTicks = x.cubeTicks := by
  unfold Stream.setS; split <;> rfl
@[simp] theorem setS_subSyncs (r : RegNo) (v : DWord) (x : Stream) : (Stream.setS r v x).subSyncs = x.subSyncs := by
  unfold Stream.setS; split <;> rfl
@[simp] theorem setS_cubeSyncs (r : RegNo) (v : DWord) (x : Stream) : (Stream.setS r v x).cubeSyncs = x.cubeSyncs := by
  unfold Stream.setS; split <;> rfl
@[simp] theorem setS_wait (r : RegNo) (v : DWord) (x : Stream) : (Stream.setS r v x).wait = x.wait := by
  unfold Stream.setS; split <;> rfl
@[simp] theorem setS_mwait (r : RegNo) (v : DWord) (x : Stream) : (Stream.setS r v x).mwait = x.mwait := by
  unfold Stream.setS; split <;> rfl
@[simp] theorem setS_stub (r : RegNo) (v : DWord) (x : Stream) : (Stream.setS r v x).stub = x.stub := by
  unfold Stream.setS; split <;> rfl
@[simp] theorem setS_preempt (r : RegNo) (v : DWord) (x : Stream) : (Stream.setS r v x).preempt = x.preempt := by
  unfold Stream.setS; split <;> rfl
@[simp] theorem setS_status (r : RegNo) (v : DWord) (x : Stream) : (Stream.setS r v x).status = x.status := by
  unfold Stream.setS; split <;> rfl
@[simp] theorem setS_hold (r : RegNo) (v : DWord) (x : Stream) : (Stream.setS r v x).hold = x.hold := by
  unfold Stream.setS; split <;> rfl
@[simp] theorem setS_abort (r : RegNo) (v : DWord) (x : Stream) : (Stream.setS r v x).abort = x.abort := by
  unfold Stream.setS; split <;> rfl
@[simp] theorem setS_task (r : RegNo) (v : DWord) (x : Stream) : (Stream.setS r v x).task = x.task := by
  unfold Stream.setS; split <;> rfl

@[simp] theorem setP_s (n : Fin 8) (v : PredReg) (x : Stream) : (Stream.setP n v x).s = x.s := by
  unfold Stream.setP; split <;> rfl
@[simp] theorem setP_v (n : Fin 8) (v : PredReg) (x : Stream) : (Stream.setP n v x).v = x.v := by
  unfold Stream.setP; split <;> rfl
@[simp] theorem setP_acc (n : Fin 8) (v : PredReg) (x : Stream) : (Stream.setP n v x).acc = x.acc := by
  unfold Stream.setP; split <;> rfl
@[simp] theorem setP_q (n : Fin 8) (v : PredReg) (x : Stream) : (Stream.setP n v x).q = x.q := by
  unfold Stream.setP; split <;> rfl
@[simp] theorem setP_m (n : Fin 8) (v : PredReg) (x : Stream) : (Stream.setP n v x).m = x.m := by
  unfold Stream.setP; split <;> rfl
@[simp] theorem setP_e (n : Fin 8) (v : PredReg) (x : Stream) : (Stream.setP n v x).e = x.e := by
  unfold Stream.setP; split <;> rfl
@[simp] theorem setP_i (n : Fin 8) (v : PredReg) (x : Stream) : (Stream.setP n v x).i = x.i := by
  unfold Stream.setP; split <;> rfl
@[simp] theorem setP_bars (n : Fin 8) (v : PredReg) (x : Stream) : (Stream.setP n v x).bars = x.bars := by
  unfold Stream.setP; split <;> rfl
@[simp] theorem setP_ras (n : Fin 8) (v : PredReg) (x : Stream) : (Stream.setP n v x).ras = x.ras := by
  unfold Stream.setP; split <;> rfl
@[simp] theorem setP_spilled (n : Fin 8) (v : PredReg) (x : Stream) : (Stream.setP n v x).spilled = x.spilled := by
  unfold Stream.setP; split <;> rfl
@[simp] theorem setP_latchV (n : Fin 8) (v : PredReg) (x : Stream) : (Stream.setP n v x).latchV = x.latchV := by
  unfold Stream.setP; split <;> rfl
@[simp] theorem setP_latchC (n : Fin 8) (v : PredReg) (x : Stream) : (Stream.setP n v x).latchC = x.latchC := by
  unfold Stream.setP; split <;> rfl
@[simp] theorem setP_pc (n : Fin 8) (v : PredReg) (x : Stream) : (Stream.setP n v x).pc = x.pc := by
  unfold Stream.setP; split <;> rfl
@[simp] theorem setP_pend (n : Fin 8) (v : PredReg) (x : Stream) : (Stream.setP n v x).pend = x.pend := by
  unfold Stream.setP; split <;> rfl
@[simp] theorem setP_loops (n : Fin 8) (v : PredReg) (x : Stream) : (Stream.setP n v x).loops = x.loops := by
  unfold Stream.setP; split <;> rfl
@[simp] theorem setP_subMask (n : Fin 8) (v : PredReg) (x : Stream) : (Stream.setP n v x).subMask = x.subMask := by
  unfold Stream.setP; split <;> rfl
@[simp] theorem setP_subBase (n : Fin 8) (v : PredReg) (x : Stream) : (Stream.setP n v x).subBase = x.subBase := by
  unfold Stream.setP; split <;> rfl
@[simp] theorem setP_tickno (n : Fin 8) (v : PredReg) (x : Stream) : (Stream.setP n v x).tickno = x.tickno := by
  unfold Stream.setP; split <;> rfl
@[simp] theorem setP_seedsnap (n : Fin 8) (v : PredReg) (x : Stream) : (Stream.setP n v x).seedsnap = x.seedsnap := by
  unfold Stream.setP; split <;> rfl
@[simp] theorem setP_flags (n : Fin 8) (v : PredReg) (x : Stream) : (Stream.setP n v x).flags = x.flags := by
  unfold Stream.setP; split <;> rfl
@[simp] theorem setP_det (n : Fin 8) (v : PredReg) (x : Stream) : (Stream.setP n v x).det = x.det := by
  unfold Stream.setP; split <;> rfl
@[simp] theorem setP_pure (n : Fin 8) (v : PredReg) (x : Stream) : (Stream.setP n v x).pure = x.pure := by
  unfold Stream.setP; split <;> rfl
@[simp] theorem setP_exch (n : Fin 8) (v : PredReg) (x : Stream) : (Stream.setP n v x).exch = x.exch := by
  unfold Stream.setP; split <;> rfl
@[simp] theorem setP_rqsafe (n : Fin 8) (v : PredReg) (x : Stream) : (Stream.setP n v x).rqsafe = x.rqsafe := by
  unfold Stream.setP; split <;> rfl
@[simp] theorem setP_iter (n : Fin 8) (v : PredReg) (x : Stream) : (Stream.setP n v x).iter = x.iter := by
  unfold Stream.setP; split <;> rfl
@[simp] theorem setP_domain (n : Fin 8) (v : PredReg) (x : Stream) : (Stream.setP n v x).domain = x.domain := by
  unfold Stream.setP; split <;> rfl
@[simp] theorem setP_taskid (n : Fin 8) (v : PredReg) (x : Stream) : (Stream.setP n v x).taskid = x.taskid := by
  unfold Stream.setP; split <;> rfl
@[simp] theorem setP_px (n : Fin 8) (v : PredReg) (x : Stream) : (Stream.setP n v x).px = x.px := by
  unfold Stream.setP; split <;> rfl
@[simp] theorem setP_ps (n : Fin 8) (v : PredReg) (x : Stream) : (Stream.setP n v x).ps = x.ps := by
  unfold Stream.setP; split <;> rfl
@[simp] theorem setP_rdzSent (n : Fin 8) (v : PredReg) (x : Stream) : (Stream.setP n v x).rdzSent = x.rdzSent := by
  unfold Stream.setP; split <;> rfl
@[simp] theorem setP_packTicks (n : Fin 8) (v : PredReg) (x : Stream) : (Stream.setP n v x).packTicks = x.packTicks := by
  unfold Stream.setP; split <;> rfl
@[simp] theorem setP_packSyncs (n : Fin 8) (v : PredReg) (x : Stream) : (Stream.setP n v x).packSyncs = x.packSyncs := by
  unfold Stream.setP; split <;> rfl
@[simp] theorem setP_subTicks (n : Fin 8) (v : PredReg) (x : Stream) : (Stream.setP n v x).subTicks = x.subTicks := by
  unfold Stream.setP; split <;> rfl
@[simp] theorem setP_cubeTicks (n : Fin 8) (v : PredReg) (x : Stream) : (Stream.setP n v x).cubeTicks = x.cubeTicks := by
  unfold Stream.setP; split <;> rfl
@[simp] theorem setP_subSyncs (n : Fin 8) (v : PredReg) (x : Stream) : (Stream.setP n v x).subSyncs = x.subSyncs := by
  unfold Stream.setP; split <;> rfl
@[simp] theorem setP_cubeSyncs (n : Fin 8) (v : PredReg) (x : Stream) : (Stream.setP n v x).cubeSyncs = x.cubeSyncs := by
  unfold Stream.setP; split <;> rfl
@[simp] theorem setP_wait (n : Fin 8) (v : PredReg) (x : Stream) : (Stream.setP n v x).wait = x.wait := by
  unfold Stream.setP; split <;> rfl
@[simp] theorem setP_mwait (n : Fin 8) (v : PredReg) (x : Stream) : (Stream.setP n v x).mwait = x.mwait := by
  unfold Stream.setP; split <;> rfl
@[simp] theorem setP_stub (n : Fin 8) (v : PredReg) (x : Stream) : (Stream.setP n v x).stub = x.stub := by
  unfold Stream.setP; split <;> rfl
@[simp] theorem setP_preempt (n : Fin 8) (v : PredReg) (x : Stream) : (Stream.setP n v x).preempt = x.preempt := by
  unfold Stream.setP; split <;> rfl
@[simp] theorem setP_status (n : Fin 8) (v : PredReg) (x : Stream) : (Stream.setP n v x).status = x.status := by
  unfold Stream.setP; split <;> rfl
@[simp] theorem setP_hold (n : Fin 8) (v : PredReg) (x : Stream) : (Stream.setP n v x).hold = x.hold := by
  unfold Stream.setP; split <;> rfl
@[simp] theorem setP_abort (n : Fin 8) (v : PredReg) (x : Stream) : (Stream.setP n v x).abort = x.abort := by
  unfold Stream.setP; split <;> rfl
@[simp] theorem setP_task (n : Fin 8) (v : PredReg) (x : Stream) : (Stream.setP n v x).task = x.task := by
  unfold Stream.setP; split <;> rfl

/-! ### Whole updates -/

/-- A scalar register after a write: s0 stays 0 (R27). -/
theorem setS_sreg (r q : RegNo) (v : DWord) (x : Stream) :
    (x.setS r v).sreg q = if q = 0 then 0 else if q = r then v else x.sreg q := by
  unfold Stream.setS Stream.sreg
  by_cases hq : q = 0
  · simp [hq]
  · by_cases hr : r = 0
    · subst hr; simp [hq]
    · by_cases h : q = r
      · subst h; simp [hq]
      · have : r.val ≠ q.val := fun hh => h (Fin.ext hh.symm)
        simp [hq, hr, h, this]

/-- Writing a scalar changes the file, and the open segment's mark. -/
theorem setS_frame (r : RegNo) (v : DWord) (x : Stream) :
    x.setS r v = { x with s := (x.setS r v).s, seg := (x.setS r v).seg } := by
  unfold Stream.setS; split <;> rfl

/-- Marking keeps the rest of the segment's record. -/
theorem watch_seg (h : SegRecord → Bool) (x : Stream) :
    (Stream.watch h x).seg.map (fun g => { g with overwritten := false }) =
      x.seg.map (fun g => { g with overwritten := false }) := by
  unfold Stream.watch; cases x.seg <;> rfl

/-- An event changes the mailbox's queue and its count of lost events. -/
theorem event_frame (code detail : Nat) (s : State) :
    s.event code detail =
      { s with mbxEvents := (s.event code detail).mbxEvents, mbxLost := (s.event code detail).mbxLost } := by
  unfold State.event; split <;> rfl

/-- Taking a trap writes the record, raises the event and stops the stream: nothing else changes. -/
theorem takeTrap_frame (t : Trap) (s : State) :
    s.takeTrap t =
      { s with trapRecord := s.trapWords t, stream := { s.stream with status := .trapped },
               mbxEvents := (s.takeTrap t).mbxEvents, mbxLost := (s.takeTrap t).mbxLost } := by
  exact event_frame _ _ _

/-- Changing a context changes the live stream or a saved one. -/
theorem onCtx_frame (p : PartNo) (f : Stream → Stream) (s : State) :
    s.onCtx p f = { s with stream := (s.onCtx p f).stream, shadow := (s.onCtx p f).shadow } := by
  unfold State.onCtx; split <;> rfl

/-- An arrival reaches the live barrier, or waits with the partition. -/
theorem arriveAt_frame (p : PartNo) (b : Fin 64) (s : State) :
    s.arriveAt p b = { s with stream := (s.arriveAt p b).stream, parts := (s.arriveAt p b).parts } := by
  unfold State.arriveAt; split <;> rfl

end Sys2Proof.Machine
end

