-- ==== Sys2Proof/Laws/Memory.lean ====
section
/-!
SUPPORT. What the writes of home memory do: the bytes, the canonical form, and what they leave as it was.
-/
namespace Sys2Proof.Machine

/-! ### Only memory changes -/

theorem MemoryOnly.refl (s : State) : MemoryOnly s s := ⟨rfl, rfl, rfl⟩

theorem MemoryOnly.trans {s t u : State} (h : MemoryOnly s t) (k : MemoryOnly t u) : MemoryOnly s u := by
  obtain ⟨h1, h2, h3⟩ := h
  obtain ⟨k1, k2, k3⟩ := k
  refine ⟨k1.trans h1, k2.trans h2, ?_⟩
  rw [k3, h3]

/-- Bytes, stash, slots, uncorrectable words, loose bytes, the count of writes and the Repeater's entries may be any. -/
theorem memoryOnly_fields (s : State) (m st lk po lo an re rc) :
    MemoryOnly s { s with mem := m, stash := st, lineKeys := lk, poison := po, loose := lo, accNo := an, repEntries := re,
                          repCounters := rc } :=
  ⟨rfl, rfl, rfl⟩

theorem unnote_task (f : Task → Task) (hf : ∀ t, (f t).unnoted = t.unnoted) (x : Stream) :
    (Stream.onTask f x).unnoted = x.unnoted := by
  simp only [Stream.unnoted, Stream.onTask]
  cases x.task with
  | none => rfl
  | some t => simp [hf]

/-- A note in the context of one partition's task. -/
theorem onCtx_memoryOnly (p : PartNo) (f : Task → Task) (hf : ∀ t, (f t).unnoted = t.unnoted) (s : State) :
    MemoryOnly s (s.onCtx p (Stream.onTask f)) := by
  unfold State.onCtx
  split
  · exact ⟨unnote_task f hf s.stream, rfl, rfl⟩
  · refine ⟨rfl, ?_, rfl⟩
    have hu : ∀ x : Option Stream, ((x.map (Stream.onTask f)).map Stream.unnoted) = x.map Stream.unnoted := by
      intro x; cases x with
      | none => rfl
      | some y => exact congrArg some (unnote_task f hf y)
    apply Vector.ext
    intro i hi
    simp only [Vector.getElem_map, Vector.getElem_set]
    split
    · rename_i h; subst h; exact hu _
    · rfl

theorem foldl_memoryOnly {α : Type} (f : State → α → State) (hf : ∀ s a, MemoryOnly s (f s a)) (l : List α) (s : State) :
    MemoryOnly s (l.foldl f s) := by
  induction l generalizing s with
  | nil => exact MemoryOnly.refl s
  | cons a l ih => exact (hf s a).trans (ih _)

/-- The notes of an eviction. -/
theorem noteEviction_memoryOnly (l : StashLine) (s : State) : MemoryOnly s (s.noteEviction l) :=
  foldl_memoryOnly _ (fun s p => onCtx_memoryOnly p (fun t => { t with evicted := true }) (fun _ => rfl) s) _ _

theorem sealLine_memoryOnly (l : StashLine) (s : State) : MemoryOnly s (s.sealLine l) := by
  unfold State.sealLine; split
  · exact memoryOnly_fields s s.mem s.stash _ s.poison s.loose s.accNo s.repEntries s.repCounters
  · exact MemoryOnly.refl s

theorem leave_memoryOnly (l : StashLine) (s : State) : MemoryOnly s (s.leave l) := by
  unfold State.leave; split
  · exact sealLine_memoryOnly l s
  · split
    · exact MemoryOnly.refl s
    · exact memoryOnly_fields s _ s.stash s.lineKeys s.poison s.loose s.accNo s.repEntries s.repCounters

theorem place_memoryOnly (l : StashLine) (s : State) : MemoryOnly s (s.place l) := by
  unfold State.place
  simp only
  split
  · exact memoryOnly_fields s s.mem _ s.lineKeys s.poison s.loose s.accNo s.repEntries s.repCounters
  · exact ((memoryOnly_fields s s.mem _ s.lineKeys s.poison s.loose s.accNo s.repEntries s.repCounters).trans
      (leave_memoryOnly _ _)).trans (noteEviction_memoryOnly _ _)

theorem fill_memoryOnly (line key : Nat) (s : State) : MemoryOnly s (s.fill line key).1 := by
  unfold State.fill; split
  · exact memoryOnly_fields s _ s.stash s.lineKeys s.poison s.loose s.accNo s.repEntries s.repCounters
  · exact MemoryOnly.refl s

theorem touch_memoryOnly (line key : Nat) (s : State) : MemoryOnly s (s.touch line key) := by
  unfold State.touch; split
  · exact place_memoryOnly _ _
  · exact (fill_memoryOnly line key s).trans (place_memoryOnly _ _)

theorem dirty_memoryOnly (o : Option PartNo) (io : Bool) (line key : Nat) (s : State) : MemoryOnly s (s.dirty o io line key) := by
  unfold State.dirty; simp only; split
  · exact (fill_memoryOnly line key s).trans (place_memoryOnly _ _)
  · split
    · exact place_memoryOnly _ _
    · exact (sealLine_memoryOnly _ _).trans (place_memoryOnly _ _)

theorem touchAll_memoryOnly (p : PartNo) (l : List Nat) (s : State) : MemoryOnly s (s.touchAll p l) :=
  foldl_memoryOnly _ (fun _ _ => touch_memoryOnly _ _ _) _ _

theorem touchLines_memoryOnly (l : List Nat) (s : State) : MemoryOnly s (s.touchLines l) :=
  foldl_memoryOnly _ (fun _ _ => touch_memoryOnly _ _ _) _ _

theorem count_memoryOnly (t : BitVec 12) (k : Fin 6) (s : State) : MemoryOnly s (s.count t k) := by
  unfold State.count; simp only
  split <;> exact memoryOnly_fields s s.mem s.stash s.lineKeys s.poison s.loose s.accNo s.repEntries _

theorem dropEntries_memoryOnly (f : RepEntry → Bool) (s : State) : MemoryOnly s (s.dropEntries f) :=
  (memoryOnly_fields s s.mem s.stash s.lineKeys s.poison s.loose s.accNo _ s.repCounters).trans
    (foldl_memoryOnly _ (fun _ _ => count_memoryOnly _ _ _) _ _)

theorem strike_memoryOnly (l : List Nat) (s : State) : MemoryOnly s (s.strike l) := by
  unfold State.strike; split
  · exact dropEntries_memoryOnly _ _
  · exact MemoryOnly.refl s

theorem writeBytes_memoryOnly (who : Option Writer) (unit : Nat) (key : Nat → Option Nat) (l : List (Nat × Byte)) (s : State)
    (sum : Bool) : MemoryOnly s (s.writeBytes who unit key l sum) := by
  refine (foldl_memoryOnly (fun s k => s.dirty (who.map (·.part)) (s.intoInout who l k) k (s.keyFor (who.map (·.part)) (key k) k))
    (fun _ _ => dirty_memoryOnly _ _ _ _ _) (linesOf (l.map (·.1))) s).trans ?_
  unfold State.writeBytes
  cases who with
  | none => exact ⟨rfl, rfl, rfl⟩
  | some w => exact ⟨rfl, rfl, rfl⟩

theorem writeMain_memoryOnly (who : Option Writer) (unit : Nat) (key : Nat → Option Nat) (l : List (Nat × Byte)) (s : State) :
    MemoryOnly s (s.writeMain who unit key l) :=
  (writeBytes_memoryOnly who unit key l s false).trans (strike_memoryOnly _ _)

/-! ### Lines that are reached under one key slot -/

/-- A line that is reached under slot m only stays so, and keeps its bytes. -/
def KeepsLine (key : Nat → Option Nat) (m line : Nat) (s t : State) : Prop :=
  s.oneSlot key m line → t.oneSlot key m line ∧ ∀ a, a / 128 = line → t.byte a = s.byte a

theorem KeepsLine.refl (key : Nat → Option Nat) (m line : Nat) (s : State) : KeepsLine key m line s s := fun h => ⟨h, fun _ _ => rfl⟩

theorem KeepsLine.trans {key : Nat → Option Nat} {m line : Nat} {s t u : State} (h : KeepsLine key m line s t)
    (k : KeepsLine key m line t u) : KeepsLine key m line s u := fun hm =>
  ⟨(k (h hm).1).1, fun a ha => ((k (h hm).1).2 a ha).trans ((h hm).2 a ha)⟩

theorem foldl_keepsLine {α : Type} (key : Nat → Option Nat) (m line : Nat) (f : State → α → State)
    (hf : ∀ s a, KeepsLine key m line s (f s a)) (l : List α) (s : State) : KeepsLine key m line s (l.foldl f s) := by
  induction l generalizing s with
  | nil => exact KeepsLine.refl key m line s
  | cons a l ih => exact (hf s a).trans (ih _)

/-- The task of a partition after a change of one task. -/
theorem onCtx_taskOf (p q : PartNo) (f : Task → Task) (s : State) :
    (s.onCtx p (Stream.onTask f)).taskOf q = if q = p then (s.taskOf q).map f else s.taskOf q := by
  unfold State.onCtx State.taskOf State.ctx
  by_cases hp : s.holder = some p
  · simp only [hp, if_true, Option.some.injEq]
    by_cases hq : q = p
    · subst hq; simp [Stream.onTask]
    · have : ¬ p = q := fun h => hq h.symm
      simp [hq, this]
  · simp only [hp, if_false]
    by_cases hq : q = p
    · subst hq; simp [hp]; cases s.shadow[q] <;> rfl
    · have : p.val ≠ q.val := fun h => hq (Fin.ext h.symm)
      simp [hq, this]

theorem onCtx_keepsLine (key : Nat → Option Nat) (m line : Nat) (p : PartNo) (s : State) :
    KeepsLine key m line s (s.onCtx p (Stream.onTask fun t => { t with evicted := true })) := by
  intro ⟨h1, h2, h3, h4, h5⟩
  have hf := onCtx_frame p (Stream.onTask fun t => { t with evicted := true }) s
  refine ⟨⟨h1, h2, ?_, ?_, ?_⟩, ?_⟩
  · intro q t k ht hk
    rw [onCtx_taskOf] at ht
    split at ht
    · cases hs : s.taskOf q with
      | none => simp [hs] at ht
      | some t0 =>
        rw [hs] at ht
        cases ht
        exact h3 q t0 k hs hk
    · exact h3 q t k ht hk
  · rw [hf]; exact h4
  · rw [hf]; exact h5
  · intro a _; rw [hf]; rfl

theorem noteEviction_keepsLine (key : Nat → Option Nat) (m line : Nat) (l : StashLine) (s : State) :
    KeepsLine key m line s (s.noteEviction l) := foldl_keepsLine key m line _ (fun s p => onCtx_keepsLine key m line p s) _ _

/-- A line of the stash as `State.oneSlot` wants it. -/
def StashLine.fits (m line : Nat) (l : StashLine) : Prop :=
  l.line = line → (l.key = 0 ∨ l.key = m) ∧ (l.dirty = false → l.image = [])

theorem sealLine_keepsLine (key : Nat → Option Nat) (m line : Nat) (l : StashLine) (s : State)
    (hl : l.line = line → l.key = 0 ∨ l.key = m) : KeepsLine key m line s (s.sealLine l) := by
  intro h
  unfold State.sealLine
  split
  · refine ⟨⟨h.1, h.2.1, h.2.2.1, ?_, h.2.2.2.2⟩, fun _ _ => rfl⟩
    simp only [State.lineSlot, Cells.get_set]
    by_cases hc : line = l.line
    · have hm := h.1
      rcases hl hc.symm with hk | hk
      · left; simp [hc, hk]
      · right; simp only [hc, if_true, hk, BitVec.toNat_ofNat]; exact Nat.mod_eq_of_lt hm
    · simp only [hc, if_false]; exact h.2.2.2.1
  · exact ⟨h, fun _ _ => rfl⟩

/-- Bytes written within one line leave every other line. -/
theorem setMany_line (c : Cells 8) (line a : Nat) (l : List Byte) (h : a / 128 ≠ line) (hl : l.length ≤ 128) :
    (c.setMany (listAt (line * 128) l)).get a = c.get a := by
  apply Cells.get_setMany_other
  intro x hx
  simp only [listAt, List.mem_mapIdx] at hx
  obtain ⟨k, hk, rfl⟩ := hx
  simp only
  omega

/-- Bytes of other lines may change. -/
theorem mem_keepsLine (key : Nat → Option Nat) (m line n : Nat) (l : List Byte) (s : State) (h : line ≠ n) (hl : l.length ≤ 128) :
    KeepsLine key m line s { s with mem := Cells.setMany s.mem (listAt (n * 128) l) } := fun hm =>
  ⟨hm, fun a ha => setMany_line s.mem n a l (by omega) hl⟩

theorem leave_keepsLine (key : Nat → Option Nat) (m line : Nat) (l : StashLine) (s : State) (hl : l.fits m line) :
    KeepsLine key m line s (s.leave l) := by
  unfold State.leave
  split
  · exact sealLine_keepsLine key m line l s fun e => (hl e).1
  · rename_i hd
    split
    · exact KeepsLine.refl key m line s
    · rename_i hi
      refine mem_keepsLine key m line l.line _ s (fun e => hi ?_) (by simp <;> omega)
      simp [(hl e.symm).2 (by simpa using hd)]

/-- A change of the stash whose lines fit. -/
theorem stash_keepsLine (key : Nat → Option Nat) (m line : Nat) (s : State) (st : List StashLine)
    (h : s.oneSlot key m line → ∀ l ∈ st, l.fits m line) : KeepsLine key m line s { s with stash := st } :=
  fun hm => ⟨⟨hm.1, hm.2.1, hm.2.2.1, hm.2.2.2.1, h hm⟩, fun _ _ => rfl⟩

theorem place_keepsLine (key : Nat → Option Nat) (m line : Nat) (l : StashLine) (s : State) (hl : l.fits m line) :
    KeepsLine key m line s (s.place l) := by
  intro hm
  revert hm
  unfold State.place
  simp only
  split
  · refine stash_keepsLine key m line s _ fun hm x hx => ?_
    rcases List.mem_cons.1 hx with rfl | hx
    · exact hl
    · exact hm.2.2.2.2 x (List.mem_filter.1 hx).1
  · rename_i old ho
    have hold : old ∈ s.stash := by
      split at ho
      · simp at ho
      · exact (List.mem_filter.1 (List.mem_filter.1 (List.mem_of_getLast? ho)).1).1
    intro hm
    refine (((stash_keepsLine key m line s _ fun hm x hx => ?_).trans
      (leave_keepsLine key m line old _ (hm.2.2.2.2 old hold))).trans (noteEviction_keepsLine key m line old _)) hm
    rcases List.mem_cons.1 hx with rfl | hx
    · exact hl
    · exact hm.2.2.2.2 x (List.mem_filter.1 (List.mem_filter.1 hx).1).1

/-- The slot under which an access fills the line. -/
theorem keyFor_oneSlot (key : Nat → Option Nat) (m line : Nat) (p : Option PartNo) (k : Option Nat) (s : State)
    (h : s.oneSlot key m line) (hk : ∀ x, k = some x → x = m) : s.keyFor p k line = m ∨ s.keyFor p k line = s.lineSlot line := by
  unfold State.keyFor State.lineSlot
  cases k with
  | some x => left; simp [hk x rfl]
  | none =>
    cases hp : (p.bind s.taskOf).bind fun t => t.keyAt (line * 128) with
    | some x =>
      left
      obtain ⟨t, ht, hx⟩ := Option.bind_eq_some_iff.1 hp
      obtain ⟨q, hq, ht⟩ := Option.bind_eq_some_iff.1 ht
      simp [h.2.2.1 q t x ht hx]
    | none =>
      cases hq : (List.finRange 4).findSome? fun q => (s.taskOf q).bind fun t => t.keyAt (line * 128) with
      | some x =>
        left
        obtain ⟨q, _, hx⟩ := List.exists_of_findSome?_eq_some hq
        obtain ⟨t, ht, hx⟩ := Option.bind_eq_some_iff.1 hx
        simp [h.2.2.1 q t x ht hx]
      | none => right; simp

theorem fits_key (key : Nat → Option Nat) (m line k : Nat) (s : State) (h : s.oneSlot key m line) (hk : k = m ∨ k = s.lineSlot line) :
    (k = 0 ∨ k = m) ∧ s.wrongSlot line k = false := by
  have := h.2.2.2.1
  unfold State.wrongSlot
  rcases hk with rfl | rfl
  · rcases this with e | e <;> simp [e]
  · rcases this with e | e <;> simp [e]

theorem fill_keepsLine (key : Nat → Option Nat) (m line n k : Nat) (s : State) (hk : n = line → s.oneSlot key m line → k = m ∨ k = s.lineSlot line) : KeepsLine key m line s (s.fill n k).1 := by
  intro hm
  revert hm
  unfold State.fill
  split
  · rename_i hw
    intro hm
    refine mem_keepsLine key m line n _ s (fun e => ?_) (by simp <;> omega) hm
    subst e
    rw [(fits_key key m line k s hm (hk rfl hm)).2] at hw
    exact absurd hw (by simp)
  · exact KeepsLine.refl key m line s

theorem fill_line (n k : Nat) (s : State) :
    (s.fill n k).2.line = n ∧ (s.fill n k).2.key = k ∧ (s.fill n k).2.dirty = false ∧
      (s.wrongSlot n k = false → (s.fill n k).2.image = []) := by
  unfold State.fill; split <;> simp_all

theorem touch_keepsLine (key : Nat → Option Nat) (m line n k : Nat) (s : State)
    (hk : n = line → s.oneSlot key m line → k = m ∨ k = s.lineSlot line) : KeepsLine key m line s (s.touch n k) := by
  intro hm
  revert hm
  unfold State.touch
  split
  · rename_i l hl
    intro hm
    exact place_keepsLine key m line l s (hm.2.2.2.2 l (List.mem_of_find?_eq_some hl)) hm
  · intro hm
    obtain ⟨h1, h2, _, h4⟩ := fill_line n k s
    refine ((fill_keepsLine key m line n k s hk).trans (place_keepsLine key m line _ _ fun e => ?_)) hm
    rw [h1] at e
    obtain ⟨f1, f2⟩ := fits_key key m line k s hm (hk e hm)
    rw [h2]
    exact ⟨f1, fun _ => h4 (e ▸ f2)⟩

theorem dirty_keepsLine (key : Nat → Option Nat) (m line n k : Nat) (o : Option PartNo) (io : Bool) (s : State)
    (hk : n = line → s.oneSlot key m line → k = m ∨ k = s.lineSlot line) : KeepsLine key m line s (s.dirty o io n k) := by
  intro hm
  revert hm
  unfold State.dirty
  simp only
  split
  · intro hm
    refine ((fill_keepsLine key m line n k s hk).trans (place_keepsLine key m line _ _ fun e => ?_)) hm
    exact ⟨(fits_key key m line k s hm (hk e hm)).1, fun h => absurd h (by simp)⟩
  · rename_i l hl
    intro hm
    have hf := hm.2.2.2.2 l (List.mem_of_find?_eq_some hl)
    split
    · rename_i hd
      have hd' : l.dirty = true := by simp at hd; exact hd.1
      exact place_keepsLine key m line _ s (fun e => ⟨(hf e).1, fun h => by rw [hd'] at h; cases h⟩) hm
    · refine ((sealLine_keepsLine key m line l s fun e => (hf e).1).trans (place_keepsLine key m line _ _ ?_)) hm
      exact fun e => ⟨(hf e).1, fun h => absurd h (by simp)⟩

theorem touchAll_keepsLine (key : Nat → Option Nat) (m line : Nat) (p : PartNo) (l : List Nat) (s : State) :
    KeepsLine key m line s (s.touchAll p l) :=
  foldl_keepsLine key m line _ (fun s n => touch_keepsLine key m line n _ s fun e h => e ▸
    keyFor_oneSlot key m n (some p) none s (e ▸ h) (by simp)) _ _

theorem touchLines_keepsLine (key : Nat → Option Nat) (m line : Nat) (l : List Nat) (s : State) :
    KeepsLine key m line s (s.touchLines l) :=
  foldl_keepsLine key m line _ (fun s n => touch_keepsLine key m line n _ s fun e h => e ▸
    keyFor_oneSlot key m n none none s (e ▸ h) (by simp)) _ _

/-- The lines that a write dirties, before its bytes are written. -/
theorem dirties_keepsLine (key : Nat → Option Nat) (m line : Nat) (p : Option PartNo) (io : State → Nat → Bool) (l : List Nat) (s : State) :
    KeepsLine key m line s (l.foldl (fun s k => s.dirty p (io s k) k (s.keyFor p (key k) k)) s) :=
  foldl_keepsLine key m line _ (fun s n => dirty_keepsLine key m line n _ p (io s n) s fun e h => e ▸
    keyFor_oneSlot key m n p (key n) s (e ▸ h) (fun x hx => (e ▸ h : s.oneSlot key m n).2.1 x hx)) _ _

/-! ### The bytes -/

/-- The last byte written to a cell is what it reads as. -/
theorem setMany_get {w : Nat} (l : List (Nat × BitVec w)) (c : Cells w) (a : Nat) :
    (c.setMany l).get a = ((l.reverse.find? fun x => x.1 == a).map (·.2)).getD (c.get a) := by
  unfold Cells.setMany
  induction l generalizing c with
  | nil => rfl
  | cons x l ih =>
    simp only [List.foldl_cons, List.reverse_cons, List.find?_append]
    rw [ih]
    cases h : l.reverse.find? (fun x => x.1 == a) with
    | some y => simp
    | none =>
      by_cases hx : x.1 = a
      · simp [hx]
      · have : ¬ a = x.1 := fun h => hx h.symm
        simp [hx, this]

/-- What is said of the bytes after a change that keeps steady lines, followed by a write of listed bytes. -/
theorem bytesBecome_of (key : Nat → Option Nat) (l : List (Nat × Byte)) (s u t : State)
    (h : ∀ m line, KeepsLine key m line s u) (ht : t.mem = Cells.setMany u.mem l) : BytesBecome key l s t := by
  intro a ha
  unfold State.byte
  rw [ht, setMany_get]
  cases hf : l.reverse.find? fun x => x.1 == a with
  | some y => rfl
  | none =>
    rcases ha with ⟨x, hx, rfl⟩ | ⟨m, hm⟩
    · exact absurd hf (by simp only [List.find?_eq_none, List.mem_reverse]; intro hn; exact hn x hx (by simp))
    · exact ((h m (a / 128)) hm).2 a rfl

theorem foldl_mem {α : Type} (f : State → α → State) (hf : ∀ s a, (f s a).mem = s.mem) (l : List α) (s : State) :
    (l.foldl f s).mem = s.mem := by
  induction l generalizing s with
  | nil => rfl
  | cons a l ih => exact (ih _).trans (hf s a)

@[simp] theorem onCtx_mem (p : PartNo) (f : Stream → Stream) (s : State) : (s.onCtx p f).mem = s.mem := by
  unfold State.onCtx; split <;> rfl

@[simp] theorem noteEviction_mem (l : StashLine) (s : State) : (s.noteEviction l).mem = s.mem :=
  foldl_mem _ (fun _ _ => onCtx_mem _ _ _) _ _

@[simp] theorem sealLine_mem (l : StashLine) (s : State) : (s.sealLine l).mem = s.mem := by
  unfold State.sealLine; split <;> rfl

@[simp] theorem count_mem (t : BitVec 12) (k : Fin 6) (s : State) : (s.count t k).mem = s.mem := by
  unfold State.count; simp only; split <;> rfl

@[simp] theorem dropEntries_mem (f : RepEntry → Bool) (s : State) : (s.dropEntries f).mem = s.mem :=
  foldl_mem _ (fun _ _ => count_mem _ _ _) _ _

@[simp] theorem strike_mem (l : List Nat) (s : State) : (s.strike l).mem = s.mem := by
  unfold State.strike; split <;> simp

/-- A write of home memory writes its bytes in order, after it has dirtied their lines. -/
theorem writeBytes_mem (who : Option Writer) (unit : Nat) (key : Nat → Option Nat) (l : List (Nat × Byte)) (s : State) (sum : Bool) :
    (s.writeBytes who unit key l sum).mem = Cells.setMany ((linesOf (l.map (·.1))).foldl (fun s k =>
      s.dirty (who.map (·.part)) (s.intoInout who l k) k (s.keyFor (who.map (·.part)) (key k) k)) s).mem l := by
  unfold State.writeBytes
  cases who <;> rfl

theorem writeBytes_bytes (who : Option Writer) (unit : Nat) (key : Nat → Option Nat) (l : List (Nat × Byte)) (s : State) (sum : Bool) :
    BytesBecome key l s (s.writeBytes who unit key l sum) :=
  bytesBecome_of key l s _ _ (fun m line => dirties_keepsLine key m line (who.map (·.part)) (fun s k => s.intoInout who l k) _ s)
    (writeBytes_mem who unit key l s sum)

/-- What a write of home memory does to the bytes. -/
theorem writeMain_bytes (who : Option Writer) (unit : Nat) (key : Nat → Option Nat) (l : List (Nat × Byte)) (s : State) :
    BytesBecome key l s (s.writeMain who unit key l) := by
  intro a ha
  have := writeBytes_bytes who unit key l s false a ha
  unfold State.writeMain State.byte
  rw [strike_mem]
  exact this

/-- Everything a write of home memory does that names no slot. -/
theorem writeMain_writes (who : Option Writer) (unit : Nat) (l : List (Nat × Byte)) (s : State) :
    WritesMem l s (s.writeMain who unit noKey l) :=
  ⟨writeMain_bytes who unit noKey l s, writeMain_memoryOnly who unit noKey l s⟩

/-- Everything that reading lines does. -/
theorem touchAll_reads (p : PartNo) (l : List Nat) (s : State) : ReadsMem s (s.touchAll p l) :=
  ⟨bytesBecome_of noKey [] s _ _ (fun m line => touchAll_keepsLine noKey m line p l s) rfl, by
    have h := touchAll_memoryOnly p l s
    have hf : (s.touchAll p l).free = s.free := by rw [h.2.2]
    rw [hf]; exact h⟩

/-! ### The canonical form -/

theorem foldl_wf {α : Type} (f : State → α → State) (hf : ∀ s a, Memory.wf s.mem = true → Memory.wf (f s a).mem = true)
    (l : List α) (s : State) (h : Memory.wf s.mem = true) : Memory.wf (l.foldl f s).mem = true := by
  induction l generalizing s with
  | nil => exact h
  | cons a l ih => exact ih _ (hf s a h)

theorem leave_wf (l : StashLine) (s : State) (h : Memory.wf s.mem = true) : Memory.wf (s.leave l).mem = true := by
  unfold State.leave; split
  · rw [sealLine_mem]; exact h
  · split
    · exact h
    · exact Cells.wf_setMany _ _ h

theorem place_wf (l : StashLine) (s : State) (h : Memory.wf s.mem = true) : Memory.wf (s.place l).mem = true := by
  unfold State.place; simp only; split
  · exact h
  · rw [noteEviction_mem]; exact leave_wf _ _ h

theorem fill_wf (n k : Nat) (s : State) (h : Memory.wf s.mem = true) : Memory.wf (s.fill n k).1.mem = true := by
  unfold State.fill; split
  · exact Cells.wf_setMany _ _ h
  · exact h

theorem touch_wf (n k : Nat) (s : State) (h : Memory.wf s.mem = true) : Memory.wf (s.touch n k).mem = true := by
  unfold State.touch; split
  · exact place_wf _ _ h
  · exact place_wf _ _ (fill_wf n k s h)

theorem dirty_wf (o : Option PartNo) (io : Bool) (n k : Nat) (s : State) (h : Memory.wf s.mem = true) :
    Memory.wf (s.dirty o io n k).mem = true := by
  unfold State.dirty; simp only; split
  · exact place_wf _ _ (fill_wf n k s h)
  · split
    · exact place_wf _ _ h
    · exact place_wf _ _ (by rw [sealLine_mem]; exact h)

theorem touchAll_wf (p : PartNo) (l : List Nat) (s : State) (h : Memory.wf s.mem = true) : Memory.wf (s.touchAll p l).mem = true :=
  foldl_wf _ (fun _ _ hs => touch_wf _ _ _ hs) _ _ h

theorem touchLines_wf (l : List Nat) (s : State) (h : Memory.wf s.mem = true) : Memory.wf (s.touchLines l).mem = true :=
  foldl_wf _ (fun _ _ hs => touch_wf _ _ _ hs) _ _ h

/-- Writing home memory keeps its canonical form. -/
theorem writeBytes_wf (who : Option Writer) (unit : Nat) (key : Nat → Option Nat) (l : List (Nat × Byte)) (s : State) (sum : Bool)
    (h : Memory.wf s.mem = true) : Memory.wf (s.writeBytes who unit key l sum).mem = true := by
  rw [writeBytes_mem]
  exact Cells.wf_setMany l _ (foldl_wf _ (fun _ _ hs => dirty_wf _ _ _ _ _ hs) _ _ h)

theorem writeMain_wf (who : Option Writer) (unit : Nat) (key : Nat → Option Nat) (l : List (Nat × Byte)) (s : State)
    (h : Memory.wf s.mem = true) : Memory.wf (s.writeMain who unit key l).mem = true := by
  unfold State.writeMain
  rw [strike_mem]; exact writeBytes_wf who unit key l s false h

/-- A landing keeps it. -/
theorem placeLanding_wf (pkt : Option (PartNo × Fin 8 × Nat)) (whole : Bool) (key : Option Nat) (bad : List Nat) (l : List (Nat × Byte))
    (s : State) (h : Memory.wf s.mem = true) : Memory.wf (s.placeLanding pkt whole key bad l).mem = true := by
  have hm : ∀ (u : Nat), Memory.wf (((s.writeMain none u (fun _ => key) l).poisonWords bad).strike (bytesOfWords bad)).mem = true := by
    intro u; rw [strike_mem]; exact writeMain_wf none u (fun _ => key) l s h
  unfold State.placeLanding; simp only; split
  · rw [strike_mem]; exact h
  · split <;> exact hm _
  · exact hm _

/-- An accumulate keeps it. -/
theorem accumulate_wf (a : HeldAcc) (s : State) (h : Memory.wf s.mem = true) : Memory.wf (s.accumulate a).mem = true := by
  unfold State.accumulate; simp only [onPart_mem]; exact writeBytes_wf _ _ _ _ _ _ h

/-- So do the updates of the atomic units. -/
theorem putWord_wf (p : PartNo) (pa n x : Nat) (s : State) (h : Memory.wf s.mem = true) : Memory.wf (s.putWord p pa n x).mem = true := by
  unfold State.putWord State.draw
  simp only [strike_mem]; exact writeBytes_wf _ _ _ _ _ _ h

theorem applyUpdate_wf (u : AtomUpdate) (s : State) (h : Memory.wf s.mem = true) : Memory.wf (s.applyUpdate u).mem = true := by
  unfold State.applyUpdate; simp only [onCtx_mem]; exact putWord_wf _ _ _ _ _ h

theorem applyDet_wf (u : DetUpdate) (s : State) (h : Memory.wf s.mem = true) : Memory.wf (s.applyDet u).mem = true := by
  unfold State.applyDet
  simp only
  have := foldl_wf (fun (s : State) (wa : Nat × Word) =>
    (s.putWord u.part (u.line * 64 + 4 * wa.1) 4 (fmtF32.addOp .rne false (s.atomWord u.part (u.line * 64 + 4 * wa.1) 4) wa.2.toNat).1).onCtx
      u.part (Stream.raise (fmtF32.addOp .rne false (s.atomWord u.part (u.line * 64 + 4 * wa.1) 4) wa.2.toNat).2))
    (fun s wa hs => by rw [onCtx_mem]; exact putWord_wf _ _ _ _ _ hs)
    ((List.range 16).flatMap fun w => u.addends.filter fun x => x.1 == w) s h
  split <;> exact this

theorem releaseHeld_wf (freed : List Nat) (s : State) (h : Memory.wf s.mem = true) : Memory.wf (s.releaseHeld freed).mem = true := by
  unfold State.releaseHeld
  simp only
  refine foldl_wf _ (fun s n hs => ?_) _ _ h
  refine foldl_wf _ (fun s u hs => ?_) _ _
    (foldl_wf (fun (s : State) u => ({ s with detBuf := s.detBuf.erase u }).applyDet u) (fun s u hs => applyDet_wf u { s with detBuf := s.detBuf.erase u } hs) _ _ hs)
  split
  · exact hs
  · exact applyUpdate_wf _ _ hs

/-- The merge of a tick keeps it. -/
theorem merge_wf (p : PartNo) (s : State) (h : Memory.wf s.mem = true) : Memory.wf (s.merge p).mem = true := by
  unfold State.merge
  simp only [onPart_mem]
  refine releaseHeld_wf _ _ ?_
  refine foldl_wf _ (fun _ _ hs => accumulate_wf _ _ hs) _ _ ?_
  refine foldl_wf _ (fun _ _ hs => accumulate_wf _ _ hs) _ _ ?_
  exact foldl_wf (fun (s : State) (l : StagedLine) =>
    (s.writeBytes none 1 (fun _ => l.key) (l.bytes.map fun b => (l.line * 128 + b.1, b.2))).poisonWords
      (l.bad.map fun w => l.line * 16 + w))
      (fun s l hs => writeBytes_wf none 1 (fun _ => l.key) _ s false hs) _ _ h

end Sys2Proof.Machine
end

