-- ==== Sys2Proof/Laws/Scalar.lean ====
section
/-!
SUPPORT. What writing a scalar register, with or without flags, does to the state.
-/
namespace Sys2Proof.Machine

/-- Marking a segment keeps the record's other fields. -/
theorem watch_unmarked (h : SegRecord → Bool) (x : Stream) :
    (Stream.watch h x).seg.map SegRecord.unmarked = x.seg.map SegRecord.unmarked := by
  unfold Stream.watch; cases x.seg <;> rfl

theorem setS_unmarked (r : RegNo) (v : DWord) (x : Stream) :
    (x.setS r v).seg.map SegRecord.unmarked = x.seg.map SegRecord.unmarked := by
  unfold Stream.setS; split
  · rfl
  · exact watch_unmarked _ _

/-- Everything that a scalar write with flags does. -/
theorem setS_raise_writes (rd : RegNo) (v : DWord) (f : Flags) (s : State) :
    WritesS rd v f s ((s.setS rd v).raise f) := by
  refine ⟨?_, fun r hr => ?_, ?_, fun _ => rfl, setS_unmarked rd v s.stream, ?_⟩
  · change (s.stream.setS rd v).sreg rd = _
    simp [setS_sreg]
  · change (s.stream.setS rd v).sreg r = s.stream.sreg r
    rw [setS_sreg]
    by_cases h : r = 0
    · simp [h, Stream.sreg]
    · simp [h, hr]
  · simp [State.raise, State.setS]
  · simp only [State.raise, State.setS, State.onStream, Stream.raise]
    rw [setS_frame]

/-- Everything that a scalar write does. -/
theorem setS_writes (rd : RegNo) (v : DWord) (s : State) : WritesS rd v 0 s (s.setS rd v) := by
  have h : (s.setS rd v).raise 0 = s.setS rd v := by
    simp [State.raise, State.setS, State.onStream, Stream.raise]
    exact (setS_frame rd v s.stream).symm
  rw [← h]; exact setS_raise_writes rd v 0 s

/-- An instruction whose meaning is a scalar write completes with that value. -/
theorem givesS_of {i : Instr} {s : State} {rd : RegNo} {v w : DWord} (h : exec i s = .next (s.setS rd v)) (e : v = w) :
    GivesS i rd w s := ⟨_, h, e ▸ setS_writes rd v s⟩

/-- The same with flags. -/
theorem runs_of_raise {i : Instr} {s : State} {rd : RegNo} {v w : DWord} {f g : Flags}
    (h : exec i s = .next ((s.setS rd v).raise f)) (e : v = w) (k : f = g) : Runs i s (WritesS rd w g s) :=
  ⟨_, h, e ▸ k ▸ setS_raise_writes rd v f s⟩

end Sys2Proof.Machine
end

