-- ==== Sys2Proof/Laws/Vector.lean ====
section
/-!
SUPPORT. What the shared forms of the vector words do: packing of elements, the OR of flags, the writing of lanes, the
latches.
-/
namespace Sys2Proof.Machine

/-! ### Elements of a lane -/

theorem packElems_lt (w : Nat) (l : List Nat) : packElems w l < 2 ^ (w * l.length) := by
  induction l with
  | nil => simp [packElems]
  | cons x t ih =>
    simp only [packElems, List.length_cons, Nat.mul_succ, Nat.pow_add]
    have h1 : x % 2 ^ w < 2 ^ w := Nat.mod_lt _ (Nat.two_pow_pos w)
    have h2 : 2 ^ w * packElems w t + 2 ^ w ≤ 2 ^ w * 2 ^ (w * t.length) := by
      have := Nat.mul_le_mul_left (2 ^ w) ih
      rwa [Nat.mul_succ] at this
    rw [Nat.mul_comm (2 ^ (w * t.length))]
    omega

theorem bits_packElems (w : Nat) (l : List Nat) (j : Nat) :
    bits (packElems w l) (w * j) w = l.getD j 0 % 2 ^ w := by
  induction l generalizing j with
  | nil => simp [packElems, bits]
  | cons x t ih =>
    have hp := Nat.two_pow_pos w
    cases j with
    | zero => simp [packElems, bits, Nat.add_mul_mod_self_left]
    | succ j =>
      have : w * (j + 1) = w + w * j := by rw [Nat.mul_succ, Nat.add_comm]
      simp only [bits, packElems, this, Nat.pow_add, ← Nat.div_div_eq_div_mul]
      rw [Nat.add_mul_div_left _ _ hp, Nat.div_eq_of_lt (Nat.mod_lt _ hp), Nat.zero_add]
      simpa [bits] using ih j

theorem perLane_bits (t : ElemType) : t.bits * t.perLane = 32 := by cases t <;> rfl

/-- Element j of a lane computed element by element. -/
theorem mapElems_elem (t : ElemType) (f : Nat → Nat × Flags) (j : Nat) (h : j < t.perLane) :
    elemAt t.bits (mapElems t f).1 j = (f j).1 % 2 ^ t.bits := by
  simp only [elemAt, mapElems, BitVec.toNat_ofNat]
  have hl := packElems_lt t.bits (((List.range t.perLane).map f).map (·.1))
  simp only [List.length_map, List.length_range, perLane_bits] at hl
  rw [Nat.mod_eq_of_lt hl, bits_packElems]
  simp [h]

/-! ### Flags -/

theorem orFlags_foldl (l : List Flags) (a : Flags) (b : Nat) :
    ((l.foldl (· ||| ·) a).getLsbD b = true) ↔ (a.getLsbD b = true ∨ ∃ f ∈ l, f.getLsbD b = true) := by
  induction l generalizing a with
  | nil => simp
  | cons x t ih =>
    rw [List.foldl_cons, ih]
    simp only [BitVec.getLsbD_or, Bool.or_eq_true, List.mem_cons, exists_eq_or_imp, or_assoc]

/-- A flag is up in the OR of a list when it is up in one of them. -/
theorem orFlags_bit (l : List Flags) (b : Nat) : (orFlags l).getLsbD b = true ↔ ∃ f ∈ l, f.getLsbD b = true := by
  unfold orFlags; rw [orFlags_foldl]; simp [flNone]

/-! ### Writing lanes -/

theorem setV_lane (r q : RegNo) (f : Nat → Word) (s : State) (k : Nat) (hk : k < 1024) :
    (s.setV r f).lane q k = if q = r then f k else s.lane q k := by
  simp only [State.lane, State.setV, Stream.lane, onStream_stream, setV_v, Cells.get_blit]
  by_cases h : q = r
  · subst h
    rw [if_pos (by omega), if_pos rfl]; congr 1; omega
  · have hv : q.val ≠ r.val := fun e => h (Fin.ext e)
    rw [if_neg (by omega), if_neg h]

theorem setV_unmarked (r : RegNo) (f : Nat → Word) (x : Stream) :
    (x.setV r f).seg.map SegRecord.unmarked = x.seg.map SegRecord.unmarked := watch_unmarked _ _

/-- Writing a vector and raising flags changes no other lane and nothing else. -/
theorem setV_raise_only (r : RegNo) (f : Nat → Word) (g : Flags) (s : State) (l : Vector (Option (Cells 32)) 2) :
    OnlyV r s (((s.setV r f).raise g).onStream fun x => { x with latchV := l }) := by
  refine ⟨fun q hq k hk => ?_, fun _ => rfl, setV_unmarked r f s.stream, rfl⟩
  have := setV_lane r q f s k hk
  rw [if_neg hq] at this
  exact this

/-- Writing the active lanes with their flags. -/
theorem putLanes_writes (vd : RegNo) (pg : Fin 8) (res : Nat → Word × Flags) (s : State)
    (l : Vector (Option (Cells 32)) 2) :
    let t := (s.putLanes vd pg res).onStream fun x => { x with latchV := l }
    (∀ k, k < 1024 → t.lane vd k = if (s.preg pg).getLsbD k then (res k).1 else s.lane vd k) ∧
      RaisesFrom (fun k => (s.preg pg).getLsbD k) (fun k => (res k).2) s t ∧ OnlyV vd s t := by
  refine ⟨fun k hk => ?_, fun b _ => ?_, setV_raise_only _ _ _ _ _⟩
  · have := setV_lane vd vd (fun k => if (s.preg pg).getLsbD k then (res k).1 else s.lane vd k) s k hk
    rw [if_pos rfl] at this
    exact this
  · simp only [State.putLanes, State.raise, onStream_stream, raise_flags, BitVec.getLsbD_or, Bool.or_eq_true, orFlags_bit,
      State.setV, setV_flags, List.mem_map, List.mem_range]
    constructor
    · rintro (h | ⟨f, ⟨k, hk, rfl⟩, h⟩)
      · exact .inl h
      · split at h
        · rename_i ha; exact .inr ⟨k, hk, ha, h⟩
        · simp [flNone] at h
    · rintro (h | ⟨k, hk, ha, h⟩)
      · exact .inl h
      · refine .inr ⟨_, ⟨k, hk, rfl⟩, ?_⟩
        rw [if_pos ha]; exact h

/-- Writing whole lanes leaves the flags. -/
theorem putWords_writes (vd : RegNo) (pg : Fin 8) (res : Nat → Word) (s : State) (l : Vector (Option (Cells 32)) 2) :
    WritesLanes vd (fun k => (s.preg pg).getLsbD k) res s
      ((s.putWords vd pg res).onStream fun x => { x with latchV := l }) := by
  refine ⟨fun k hk => ?_, rfl, fun q hq k hk => ?_, fun _ => rfl, setV_unmarked _ _ s.stream, rfl⟩
  · have := setV_lane vd vd (fun k => if (s.preg pg).getLsbD k then res k else s.lane vd k) s k hk
    rw [if_pos rfl] at this
    exact this
  · have := setV_lane vd q (fun k => if (s.preg pg).getLsbD k then res k else s.lane vd k) s k hk
    rw [if_neg hq] at this
    exact this

/-! ### Latches -/

/-- What the copy of a latching word leaves in the latches. -/
theorem latchVec_latches (pipe1 : Bool) (h : Hold) (va vb : RegNo) (s t : State)
    (e : t.stream.latchV = (s.latchVec pipe1 h va vb).stream.latchV) : LatchesV pipe1 h va vb s t := by
  refine ⟨fun q hq => ?_, ?_⟩
  · rw [e]; unfold State.latchVec
    have hv : (pipeNo pipe1).val ≠ q.val := fun h => hq (Fin.ext h.symm)
    cases h <;> simp [hv]
  · cases h with
    | off => exact e
    | held pos => exact e
    | latch pos =>
      refine ⟨Cells.block 0 1024 (s.lane (if pos then vb else va)), ?_, fun k hk => ?_⟩
      · rw [e]; simp [State.latchVec]
      · rw [Cells.get_block]; simp [hk]

/-- A V word whose latch is ready has its effect and then latches. -/
theorem vword_ready (pipe1 : Bool) (h : Hold) (va vb : RegNo) (f : State → State) (s : State) (r : ReadyV pipe1 h s) :
    s.vword pipe1 h va vb f =
      (f s).onStream fun x => { x with latchV := (s.latchVec pipe1 h va vb).stream.latchV } := by
  unfold State.vword
  rw [if_neg]
  cases h with
  | off => simp [starved]
  | latch p => simp [starved]
  | held p =>
    have := r p rfl
    simpa [starved] using this

/-- A V word whose latch is empty raises ILLEGAL. -/
theorem vword_starved (pipe1 : Bool) (pos : Bool) (va vb : RegNo) (f : State → State) (s : State)
    (r : s.stream.latchV[pipeNo pipe1] = none) :
    s.vword pipe1 (.held pos) va vb f = s.takeTrap { num := trILLEGAL, slot := vSlot pipe1 } := by
  unfold State.vword
  rw [if_pos]
  have : s.stream.latchV[(pipeNo pipe1).val] = none := r
  simp [starved, this]

/-- Everything that an elementwise word does. -/
theorem elems_write (pipe1 : Bool) (h : Hold) (va vb vd : RegNo) (pg : Fin 8) (ty : ElemType) (f g : Nat → Nat → Nat × Flags)
    (s : State) (r : ReadyV pipe1 h s) (e : ∀ k j, j < ty.perLane → (f k j).1 % 2 ^ ty.bits = (g k j).1 % 2 ^ ty.bits ∧
      (f k j).2 = (g k j).2) :
    let t := s.vword pipe1 h va vb fun s => s.putLanes vd pg fun k => mapElems ty (f k)
    WritesElems vd (fun k => (s.preg pg).getLsbD k) ty g s t ∧ LatchesV pipe1 h va vb s t := by
  intro t
  have ht : t = _ := vword_ready pipe1 h va vb _ s r
  obtain ⟨w1, w2, w3⟩ := putLanes_writes vd pg (fun k => mapElems ty (f k)) s
    (s.latchVec pipe1 h va vb).stream.latchV
  rw [ht]
  refine ⟨⟨fun k j hk hj ha => ?_, fun k hk ha => ?_, fun b hb => ?_, w3⟩, latchVec_latches _ _ _ _ _ _ rfl⟩
  · rw [w1 k hk, if_pos ha, mapElems_elem _ _ _ hj, (e k j hj).1]
  · have ha' : (s.preg pg).getLsbD k = false := ha
    rw [w1 k hk, ha']; rfl
  · have hf : (fun k => (mapElems ty (f k)).2) =
        fun k => orFlags ((List.range ty.perLane).map fun j => (g k j).2) := by
      funext k
      simp only [mapElems, List.map_map]
      congr 1
      apply List.map_congr_left
      intro j hj
      exact (e k j (List.mem_range.1 hj)).2
    have := w2 b hb
    rw [hf] at this
    exact this

end Sys2Proof.Machine
end

