-- ==== Sys2Proof/Tests/Slice0.lean ====
section
/-!
SUPPORT. Tests: the well-formedness check refuses an ill-formed term for each of its checks; words written out from the
spec's encodings decode to the instructions it names; single steps on small states; and for every statement with
hypotheses, states and operands that meet them (the theorems named witness_…).
-/
namespace Sys2Proof.Tests
set_option Elab.async false
open Sys2Proof Sys2Proof.Machine

/-! ### Small states -/

/-- A task of one point with an INOUT, an IN, an OUT, a SPILL and a LAND window of 4,096 bytes each, 0-4, in the five pages
from 0x20_0000 on, all under key slot 1; its argument block holds 0, 1, 2, …; one segment and one stub at bundle 0. -/
def task0 : Task :=
  { placedTask with
    windows := [⟨0x10000, 4096, .inout, false, false⟩, ⟨0x20000, 4096, .input, false, false⟩,
      ⟨0x30000, 4096, .output, false, false⟩, ⟨0x40000, 4096, .spill, false, false⟩, ⟨0x50000, 4096, .land, false, false⟩],
    extents := [⟨16, 0, 1, 1, 1⟩, ⟨0, 1, 32, 1, 1⟩, ⟨1, 2, 33, 1, 1⟩, ⟨2, 3, 34, 1, 1⟩, ⟨3, 4, 35, 1, 1⟩, ⟨4, 5, 36, 1, 1⟩],
    args := (List.range 256).map fun k => BitVec.ofNat 8 k,
    segs := [⟨0, 64, 0, 0, 0, 0⟩, ⟨32, 64, 0, 0, 0, 0⟩], stubs := [⟨0, 64, 32⟩], seq := 1 }

/-- Its stream: s1 = 1, s2 = −1, s3 = 64, s4 = 4, s5 = −2^63, s6 = 256; p1 holds lane 0, p2 lanes 0 and 1. -/
def stream0 : Machine.Stream :=
  { placedStream with
    task := some task0,
    s := #v[0, 1, -1, 64, 4, BitVec.ofInt 64 (-(2 ^ 63)), 256, 0, 0, 0, 0, 0, 0, 0, 0, 0,
      0, 0, 0, 0, 0, 0, 0, 0, 0, 0, 0, 0, 0, 0, 0, 0],
    p := #v[0, 1, 3, 0, 0, 0, 0, 0] }

/-- A bound partition in which a task runs. -/
def part0 : Partition :=
  { Partition.cleared with
    bound := true,
    disp := .run,
    bind := { BindRecord.cleared with valid := true, plates := 2, job := 7, tenant := 5 } }

/-- Partition 0, bound with 2 plates in every slab, runs that stream. -/
def w : State :=
  { State.reset.placeWord 0 with
    stream := stream0,
    parts := State.reset.parts.set 0 part0 }

/-- The same with its stream changed. -/
def wx (f : Machine.Stream → Machine.Stream) : State := w.onStream f

/-- Whether an instruction answers a next state of which a test holds. -/
def gives (i : Instr) (s : State) (p : State → Bool) : Bool :=
  match exec i s with
  | .next t => p t
  | _ => false

theorem ite_cases {c : Prop} [Decidable c] {x y r : WalkResult} (h : (if c then x else y) = r) : (c ∧ x = r) ∨ (¬c ∧ y = r) := by
  by_cases hc : c
  · exact .inl ⟨hc, by rw [if_pos hc] at h; exact h⟩
  · exact .inr ⟨hc, by rw [if_neg hc] at h; exact h⟩

/-- A walk that succeeds names a slot that may serve the page. -/
theorem walk_key {s : State} {root va pa k : Nat} {tenant : BitVec 12} {rd wr big : Bool}
    (h : s.walk root tenant va rd wr = .ok pa k big) : s.keyOk tenant k va = true := by
  unfold State.walk at h
  dsimp only at h
  rcases ite_cases h with ⟨_, h⟩ | ⟨_, h⟩
  · cases h
  rcases ite_cases h with ⟨_, h⟩ | ⟨_, h⟩
  · cases h
  rcases ite_cases h with ⟨_, h⟩ | ⟨_, h⟩
  · cases h
  rcases ite_cases h with ⟨_, h⟩ | ⟨_, h⟩
  · cases h
  rcases ite_cases h with ⟨_, h⟩ | ⟨_, h⟩
  · cases h
  rcases ite_cases h with ⟨_, h⟩ | ⟨_, h⟩
  · cases h
  rcases ite_cases h with ⟨_, h⟩ | ⟨_, h⟩
  · cases h
  rcases ite_cases h with ⟨_, h⟩ | ⟨hk, h⟩
  · cases h
  · injection h with _ h2 _
    subst h2
    simpa using hk

/-- With no line held yet, one loaded slot, and every extent under it, every line is reached under one slot. -/
theorem oneKey_of (m : Nat) (hm : m < 1024) (s : State) (hk : ∀ k ∈ s.keys, k.slot.val = m)
    (ht : ∀ p : PartNo, (s.taskOf p).all (fun t => t.extents.all fun x => x.key == m) = true) (hs : s.stash = [])
    (hl : s.lineKeys = []) : s.OneKey := by
  intro line
  refine ⟨m, ⟨hm, (fun k h => nomatch h), ?_, ?_, ?_⟩, ?_⟩
  · intro p t k hp h
    have := ht p
    rw [hp] at this
    simp only [Option.all_some, List.all_eq_true, beq_iff_eq] at this
    unfold Task.keyAt at h
    simp only [Option.map_eq_some_iff] at h
    obtain ⟨x, hx, rfl⟩ := h
    exact this x (List.mem_of_find?_eq_some hx)
  · left; unfold State.lineSlot; rw [hl]; rfl
  · rw [hs]; intro l h; cases h
  · intro p va rd wr pa k big h _
    have h := walk_key h
    unfold State.keyOk at h
    split at h
    · rename_i h0
      simp only [Bool.and_eq_true, List.any_eq_true, beq_iff_eq] at h
      obtain ⟨_, x, hx, h1⟩ := h
      rw [h0, ← h1]; exact hk x hx
    · simp only [Bool.and_eq_true, List.any_eq_true, beq_iff_eq] at h
      obtain ⟨x, hx, h1, _⟩ := h
      rw [← h1]; exact hk x hx

/-- The same, decided. -/
def oneKeyed (s : State) : Bool :=
  (s.keys.all fun k => k.slot.val == 1) &&
    ((List.finRange 4).all fun p => (s.taskOf p).all fun t => t.extents.all fun x => x.key == 1) && s.stash.isEmpty && s.lineKeys.isEmpty
theorem oneKey_ok {s : State} (h : oneKeyed s = true) : s.OneKey := by
  unfold oneKeyed at h
  simp only [Bool.and_eq_true, List.isEmpty_iff, List.all_eq_true, beq_iff_eq] at h
  exact oneKey_of 1 (by decide) s h.1.1.1 (fun p => by
    have := h.1.1.2 p (List.mem_finRange p)
    simpa using this) h.1.2 h.2
theorem steady_ok {s : State} (h : oneKeyed s = true) (line : Nat) : s.steady noKey line := by
  obtain ⟨m, h, _⟩ := oneKey_ok h line
  exact ⟨m, h⟩

theorem witness_one_key : w.OneKey := oneKey_ok (by decide +kernel)

/-- Whether a decoded word is this instruction. -/
def isInstr (d : Decoded) (i : Instr) : Bool :=
  match d with
  | .ok j => j == i
  | .error _ => false
def isError (d : Decoded) (e : DecodeErr) : Bool :=
  match d with
  | .ok _ => false
  | .error f => f == e

/-! ### The well-formedness check refuses an ill-formed term for each of its checks -/

theorem test_wf_control : Instr.wf (.loop ⟨0, 1, 0⟩) = false ∧ Instr.wf (.loopi ⟨0, 1, 0⟩) = false ∧ Instr.wf (.sys ⟨0, 1⟩) = false ∧
    Instr.wf (.mfc ⟨1, 16⟩) = false ∧ Instr.wf (.mtc ⟨1, 16⟩) = false ∧ Instr.wf (.tick .lane) = false ∧ Instr.wf (.syncc .die) = false ∧
    Instr.wf (.barr ⟨0, 0⟩) = false ∧ Instr.wf (.fence 1) = false ∧ Instr.wf (.xwait 0) = false := by decide

/-- Stochastic rounding in slot 1. -/
theorem test_wf_rounding : Instr.wf (.fadd ⟨1, 2, 3, .sr⟩) = false ∧ Instr.wf (.fmadd ⟨1, 2, 3, 4, .sr⟩) = false ∧
    Instr.wf (.fcvtif ⟨1, 2, .i32, .sr⟩) = false ∧ Instr.wf (.fsqrt ⟨1, 2, .sr⟩) = false := by decide

/-- Holds that name the wrong position, or hold a register that is not 0. -/
theorem test_wf_holds : Hold.okOne (.latch true) 0 = false ∧ Hold.okOne (.held false) 1 = false ∧ Hold.okTwo (.held false) 1 0 = false ∧
    Hold.okTwo (.held true) 0 1 = false ∧ Hold.okSecond (.latch false) 0 = false ∧ Hold.okSecond (.held true) 1 = false := by decide

theorem test_wf_vectors : Instr.wf (.vadd ⟨false, 1, 2, 3, 0, .f32, .held false, false⟩) = false ∧
    Instr.wf (.vfma ⟨false, 1, 2, 3, 0, .i32, .off, false⟩) = false ∧ Instr.wf (.vmin ⟨false, 1, 2, 3, 0, .f32, .off, true⟩) = false ∧
    Instr.wf (.vabs ⟨false, 1, 2, 0, .f32, .off, true⟩) = false ∧ Instr.wf (.vshl ⟨false, 1, 2, 3, 0, .f32, .off, false⟩) = false ∧
    Instr.wf (.vrcp ⟨true, 1, 2, 0, .f32, .off, false⟩) = false ∧ Instr.wf (.vrcp ⟨false, 1, 2, 0, .i32, .off, false⟩) = false ∧
    Instr.wf (.vcmpeq ⟨false, 0, 1, 2, 0, .f32, .off⟩) = false ∧ Instr.wf (.vcmpeq ⟨false, 1, 1, 2, 0, .bf16, .off⟩) = false ∧
    Instr.wf (.vcvt ⟨false, 1, 2, false, .f32, .rne, 0, .off, false⟩) = false ∧
    Instr.wf (.vcvt ⟨false, 1, 2, true, .bf16, .rz, 0, .off, false⟩) = false ∧
    Instr.wf (.vpack ⟨false, 1, 2, 3, 0, .f32, .off, false⟩) = false ∧ Instr.wf (.vunpk ⟨false, 1, 2, 2, 0, .bf16, .off⟩) = false ∧
    Instr.wf (.vredmax ⟨1, 2, .c1, 0, .i32, .off, true⟩) = false ∧ Instr.wf (.vscanadd ⟨1, 2, .c1, 0, .f32, .off, true⟩) = false ∧
    Instr.wf (.vrng ⟨true, 1, 2, 0, .f32, .off⟩) = false ∧ Instr.wf (.vmovs ⟨true, 1, 2, 0, .f32, .latch false⟩) = false ∧
    Instr.wf (.vext ⟨1, 2, 3, .i8, .off⟩) = false ∧ Instr.wf (.plog ⟨false, 0, 1, 2, .and, .off⟩) = false ∧
    Instr.wf (.plog ⟨false, 1, 1, 2, .not, .off⟩) = false := by decide

theorem test_wf_memory : Instr.wf (.pgth ⟨1, 2, 3, 0, .i8⟩) = false ∧ Instr.wf (.saadd ⟨1, 2, .i8, 0, 0⟩) = false ∧
    Instr.wf (.saand ⟨1, 2, .f32, 0, 0⟩) = false ∧ Instr.wf (.scasx ⟨1, 2, .f32, 3, 0⟩) = false ∧
    Instr.wf (.vaadd ⟨1, 2, 3, 0, .bf16, 0⟩) = false ∧ Instr.wf (.vaxor ⟨1, 2, 3, 0, .f32, 0⟩) = false := by decide

theorem test_wf_engines : Instr.wf (.mzero ⟨8, .f32⟩) = false ∧ Instr.wf (.mma ⟨0, 0, 8, .f32, .c1, .off, false, false⟩) = false ∧
    Instr.wf (.mdecay ⟨0, 0, .f32, .c1, .off, true, false⟩) = false ∧ Instr.wf (.mgath ⟨0, 1, 0, .off, false, false⟩) = false ∧
    Instr.wf (.mset ⟨1, 0, true, .latch false⟩) = false ∧ Instr.wf (.ewr ⟨1, 4, .off⟩) = false ∧ Instr.wf (.ewr ⟨1, 15, .off⟩) = false ∧
    Instr.wf (.ewr ⟨1, 35, .off⟩) = false ∧ Instr.wf (.ewr ⟨1, 55, .off⟩) = false ∧ Instr.wf (.erd ⟨1, 5, .latch false⟩) = false ∧
    Instr.wf (.cstat ⟨1, 1, 0, false, .off⟩) = false ∧ Instr.wf (.repx ⟨1, true, .off⟩) = false ∧
    Instr.wf (.xch ⟨1, 1, 0, .held true⟩) = false := by decide


/-- Whether a slot decodes each word to the instruction beside it. -/
def decodes (slot : Nat) (l : List (Nat × Instr)) : Bool := l.all fun x => isInstr (decodeSlot slot x.1) x.2

/-! ### Words built from the fixed bits and the fields that spec/opcode_table.json gives each row -/

theorem test_words_slot0_1 : decodes 0
    [(0x00000000, .nop), (0x02000016, .br 0x16), (0x04C00000, .brc ⟨.gez, 0, 0x0⟩), (0x06400000, .brv ⟨false, 0, 0x0⟩),
     (0x08000016, .call 0x16), (0x0A058000, .callr 11), (0x0C000000, .ret), (0x0E058000, .jr 11),
     (0x11320060, .loop ⟨4, 25, 0x60⟩), (0x12801F78, .loopi ⟨2, 0x7, 0x378⟩), (0x14000000, .done), (0x16000524, .seg 0x524),
     (0x18000A7F, .rdz 0xa7f), (0x1B6A53F5, .sys ⟨22, 0xa53f5⟩), (0x1A000000, .park), (0x1A000001, .unstub),
     (0x1C08825E, .trap 0x8825e), (0x1E0CBB9E, .brk 0xcbb9e), (0x21600004, .mfc ⟨22, 0x4⟩), (0x22058006, .mtc ⟨11, 0x6⟩),
     (0x24800000, .tick .die), (0x26C00000, .syncp), (0x29400000, .syncc .cube), (0x2A1929EF, .barr ⟨25, 0x29ef⟩)] = true := by decide +kernel

theorem test_words_slot0_2 : decodes 0
    [(0x2C590000, .bwait ⟨25, true⟩), (0x2E190000, .bset ⟨25, 0x0⟩), (0x30000007, .fence 0x7), (0x32800002, .waitid ⟨2, 2⟩)] = true := by decide +kernel

theorem test_words_slot1_1 : decodes 1
    [(0x0365E400, .add ⟨22, 11, 25⟩), (0x0365E401, .sub ⟨22, 11, 25⟩), (0x0365E402, .and ⟨22, 11, 25⟩),
     (0x0365E403, .or ⟨22, 11, 25⟩), (0x0365E404, .xor ⟨22, 11, 25⟩), (0x0365E405, .andn ⟨22, 11, 25⟩),
     (0x0365E406, .sll ⟨22, 11, 25⟩), (0x0365E407, .srl ⟨22, 11, 25⟩), (0x0365E408, .sra ⟨22, 11, 25⟩),
     (0x0365E409, .slt ⟨22, 11, 25⟩), (0x0365E40A, .sltu ⟨22, 11, 25⟩), (0x0365E40B, .seq ⟨22, 11, 25⟩),
     (0x0365E40C, .min ⟨22, 11, 25⟩), (0x0365E40D, .max ⟨22, 11, 25⟩), (0x0365E40E, .minu ⟨22, 11, 25⟩),
     (0x0365E40F, .maxu ⟨22, 11, 25⟩), (0x0565E400, .mul ⟨22, 11, 25⟩), (0x0565E401, .mulh ⟨22, 11, 25⟩),
     (0x0565E402, .mulhu ⟨22, 11, 25⟩), (0x0565E403, .div ⟨22, 11, 25⟩), (0x0565E404, .divu ⟨22, 11, 25⟩),
     (0x0565E405, .rem ⟨22, 11, 25⟩), (0x0565E406, .remu ⟨22, 11, 25⟩), (0x07658000, .clz ⟨22, 11⟩)] = true := by decide +kernel

theorem test_words_slot1_2 : decodes 1
    [(0x07658001, .ctz ⟨22, 11⟩), (0x07658002, .popc ⟨22, 11⟩), (0x07658003, .sext8 ⟨22, 11⟩),
     (0x07658004, .sext16 ⟨22, 11⟩), (0x07658005, .sext32 ⟨22, 11⟩), (0x07658006, .zext8 ⟨22, 11⟩),
     (0x07658007, .zext16 ⟨22, 11⟩), (0x07658008, .zext32 ⟨22, 11⟩), (0x0965E4E0, .sel ⟨22, 11, 25, 7⟩),
     (0x0B65FFE4, .addi ⟨22, 11, 0x7fe4⟩), (0x0D65BF8C, .andi ⟨22, 11, 0x3f8c⟩), (0x0F659D1A, .ori ⟨22, 11, 0x1d1a⟩),
     (0x11659C1E, .xori ⟨22, 11, 0x1c1e⟩), (0x13658000, .slli ⟨22, 11, 0x0⟩), (0x13658040, .srli ⟨22, 11, 0x0⟩),
     (0x13658080, .srai ⟨22, 11, 0x0⟩), (0x15658870, .slti ⟨22, 11, 0x870⟩), (0x1765E909, .sltiu ⟨22, 11, 0x6909⟩),
     (0x19648C3F, .sui ⟨22, 0x48c3f⟩), (0x1B602598, .addpc ⟨22, 0x2598⟩), (0x1D658048, .ldarg ⟨22, 11, 0x9⟩),
     (0x1F608000, .rdi ⟨22, 1⟩), (0x2165E430, .fadd ⟨22, 11, 25, .rd⟩), (0x2165E421, .fsub ⟨22, 11, 25, .ru⟩)] = true := by decide +kernel

theorem test_words_slot1_3 : decodes 1
    [(0x2165E432, .fmul ⟨22, 11, 25, .rd⟩), (0x2165E433, .fdiv ⟨22, 11, 25, .rd⟩), (0x21658034, .fsqrt ⟨22, 11, .rd⟩),
     (0x2165E405, .fmin ⟨22, 11, 25⟩), (0x2165E406, .fmax ⟨22, 11, 25⟩), (0x21658007, .fabs ⟨22, 11⟩),
     (0x21658008, .fneg ⟨22, 11⟩), (0x2165E409, .feq ⟨22, 11, 25⟩), (0x2165E40A, .flt ⟨22, 11, 25⟩),
     (0x2165E40B, .fle ⟨22, 11, 25⟩), (0x2165800C, .fclass ⟨22, 11⟩), (0x2365E4E3, .fmadd ⟨22, 11, 25, 7, .rd⟩),
     (0x2365E4EB, .fmsub ⟨22, 11, 25, 7, .rd⟩), (0x2365E4F3, .fnmadd ⟨22, 11, 25, 7, .rd⟩),
     (0x25658008, .fcvtif ⟨22, 11, .i32, .rz⟩), (0x2565800B, .fcvtfi ⟨22, 11, .n32, .rz⟩)] = true := by decide +kernel

theorem test_words_slot2 : decodes 2
    [(0x21658290, .vrcp ⟨false, 22, 11, 5, .bf16, .off, false⟩),
     (0x236582A0, .vrsqrt ⟨false, 22, 11, 5, .f16, .off, false⟩), (0x25658281, .vsqrt ⟨false, 22, 11, 5, .f32, .off, true⟩),
     (0x276582A0, .vexp2 ⟨false, 22, 11, 5, .f16, .off, false⟩), (0x29658291, .vlog2 ⟨false, 22, 11, 5, .bf16, .off, true⟩),
     (0x2B658281, .vtanh ⟨false, 22, 11, 5, .f32, .off, true⟩), (0x2D6582A0, .vsigm ⟨false, 22, 11, 5, .f16, .off, false⟩),
     (0x2F658290, .vsin ⟨false, 22, 11, 5, .bf16, .off, false⟩), (0x316582A0, .vcos ⟨false, 22, 11, 5, .f16, .off, false⟩),
     (0x4565C6C0, .vshs ⟨22, 11, 17, 5, .off⟩), (0x476306B0, .vredadd ⟨22, 6, .c1, 5, .i32, .off, false⟩),
     (0x482306C0, .vredmax ⟨2, 6, .c1, 5, .n32, .off, false⟩), (0x4A958EC0, .vredmin ⟨9, 11, .c3, 5, .n32, .off, false⟩),
     (0x4C018EC0, .vscanadd ⟨0, 3, .c3, 5, .n32, .off, false⟩), (0x4E501680, .vscanmax ⟨5, 0, .c5, 5, .f32, .off, false⟩),
     (0x51658AB8, .vscanmin ⟨22, 11, .c2, 5, .i32, .latch false, false⟩),
     (0x53658280, .vrng ⟨false, 22, 11, 5, .f32, .off⟩), (0x5765E400, .vext ⟨22, 11, 25, .f32, .off⟩),
     (0x5C518280, .pcnt ⟨5, 3, 5, .off⟩)] = true := by decide +kernel

theorem test_words_slot3_1 : decodes 3
    [(0x0365E6F0, .vadd ⟨true, 22, 11, 25, 5, .n8, .off, false⟩),
     (0x0565E6C0, .vsub ⟨true, 22, 11, 25, 5, .n32, .off, false⟩),
     (0x0765E6E1, .vmul ⟨true, 22, 11, 25, 5, .i8, .off, true⟩),
     (0x0965E680, .vfma ⟨true, 22, 11, 25, 5, .f32, .off, false⟩),
     (0x0B65E690, .vfms ⟨true, 22, 11, 25, 5, .bf16, .off, false⟩),
     (0x0D65E6F0, .vmin ⟨true, 22, 11, 25, 5, .n8, .off, false⟩),
     (0x0F65E6C0, .vmax ⟨true, 22, 11, 25, 5, .n32, .off, false⟩), (0x116582D1, .vabs ⟨true, 22, 11, 5, .i16, .off, true⟩),
     (0x136582E0, .vneg ⟨true, 22, 11, 5, .i8, .off, false⟩), (0x1565E6C0, .vand ⟨true, 22, 11, 25, 5, .off⟩),
     (0x1765E6C0, .vor ⟨true, 22, 11, 25, 5, .off⟩), (0x1965E6C0, .vxor ⟨true, 22, 11, 25, 5, .off⟩),
     (0x1B65E6D0, .vshl ⟨true, 22, 11, 25, 5, .i16, .off, false⟩),
     (0x1D65E6EC, .vshr ⟨true, 22, 11, 25, 5, .i8, .latch true, false⟩),
     (0x1F65E690, .vdiv ⟨true, 22, 11, 25, 5, .bf16, .off, false⟩), (0x32206680, .vcmpeq ⟨true, 2, 0, 25, 5, .f32, .off⟩),
     (0x34531280, .vcmpne ⟨true, 5, 6, 4, 5, .f32, .off⟩), (0x365302C0, .vcmplt ⟨true, 5, 6, 0, 5, .n32, .off⟩),
     (0x38231280, .vcmple ⟨true, 2, 6, 4, 5, .f32, .off⟩), (0x3B65E7C0, .vsel ⟨true, 22, 11, 25, 7, .off⟩),
     (0x3D658EE1, .vcvt ⟨true, 22, 11, false, .i8, .rd, 5, .off, true⟩),
     (0x3F65E6A0, .vpack ⟨true, 22, 11, 25, 5, .f16, .off, false⟩), (0x41658EF0, .vunpk ⟨true, 22, 11, 3, 5, .n8, .off⟩),
     (0x4365E6C0, .vperm ⟨true, 22, 11, 25, 5, .off⟩)] = true := by decide +kernel

theorem test_words_slot3_2 : decodes 3
    [(0x556582C0, .vmovs ⟨true, 22, 11, 5, .n32, .off⟩), (0x596582C0, .vlane ⟨true, 22, 11, 5, .off⟩),
     (0x5A130430, .plog ⟨true, 1, 6, 1, .andn, .off⟩), (0x5F658AC0, .vbit ⟨true, 22, 11, .popc, 5, .off⟩),
     (0x61608280, .vqpop ⟨true, 22, 1, 5, .off⟩), (0x62758280, .vqpush ⟨true, 11, 7, 5, .off⟩)] = true := by decide +kernel

theorem test_words_slot4 : decodes 4
    [(0x036582F0, .pld ⟨22, 11, 5, .n8⟩), (0x056582A0, .pst ⟨22, 11, 5, .f16⟩), (0x0765E6E0, .plds ⟨22, 11, 25, 5, .i8⟩),
     (0x0965E690, .psts ⟨22, 11, 25, 5, .bf16⟩), (0x0B658280, .pldb ⟨22, 11, 5⟩), (0x0D65E680, .pgth ⟨22, 11, 25, 5, .f32⟩),
     (0x0F65E680, .psct ⟨22, 11, 25, 5, .f32⟩), (0x1075E400, .pfill ⟨7, 11, 25⟩)] = true := by decide +kernel

theorem test_words_slot5_1 : decodes 5
    [(0x0365EC56, .ldh ⟨22, 11, .i64, 0xc5, 6⟩), (0x0565C5DD, .sth ⟨22, 11, .i32, 0x5d, 13⟩),
     (0x0765E695, .saadd ⟨22, 11, .i64, 0x69, 5⟩), (0x0965F017, .samin ⟨22, 11, .f32, 0x1, 7⟩),
     (0x0B65ED43, .samax ⟨22, 11, .i64, 0xd4, 3⟩), (0x0D65D94E, .saand ⟨22, 11, .n32, 0x94, 14⟩),
     (0x0F65DC1D, .saor ⟨22, 11, .n32, 0xc1, 13⟩), (0x1165CB3F, .saaddx ⟨22, 11, .i32, 0xb3, 15⟩),
     (0x1365D121, .saswpx ⟨22, 11, .n32, 0x12, 1⟩), (0x1565D102, .scasx ⟨22, 11, .n32, 16, 2⟩),
     (0x1605856E, .pref ⟨11, 0x56, 14⟩), (0x216582A1, .vldh ⟨22, 11, 5, .f16, 1⟩),
     (0x236582BE, .vsth ⟨22, 11, 5, .i32, 14⟩), (0x2565E6EB, .vldhs ⟨22, 11, 25, 5, .i8, 11⟩),
     (0x2765E6E2, .vsths ⟨22, 11, 25, 5, .i8, 2⟩), (0x2965E6CC, .vgth ⟨22, 11, 25, 5, .n32, 12⟩),
     (0x2B65E6C2, .vsct ⟨22, 11, 25, 5, .n32, 2⟩), (0x2D65E6C4, .vaadd ⟨22, 11, 25, 5, .n32, 4⟩),
     (0x2F65E68C, .vamin ⟨22, 11, 25, 5, .f32, 12⟩), (0x3165E687, .vamax ⟨22, 11, 25, 5, .f32, 7⟩),
     (0x3365E6CC, .vaand ⟨22, 11, 25, 5, .n32, 12⟩), (0x3565E6B9, .vaor ⟨22, 11, 25, 5, .i32, 9⟩),
     (0x3765E6B9, .vaxor ⟨22, 11, 25, 5, .i32, 9⟩), (0x3965E6CC, .vaaddx ⟨22, 11, 25, 5, .n32, 12⟩)] = true := by decide +kernel

theorem test_words_slot5_2 : decodes 5
    [(0x3B65E6B1, .vaminx ⟨22, 11, 25, 5, .i32, 1⟩), (0x3D65E6C1, .vamaxx ⟨22, 11, 25, 5, .n32, 1⟩),
     (0x3F65E6BE, .vaswpx ⟨22, 11, 25, 5, .i32, 14⟩), (0x40100030, .sbind ⟨1, 3⟩), (0x42400000, .srel 4)] = true := by decide +kernel

theorem test_words_slot6 : decodes 6
    [(0x023124A3, .mma ⟨3, 2, 4, .f16, .c5, .off, true, true⟩),
     (0x04BC9A42, .smma ⟨11, 25, 3, .bf16, .c2, .off, true, false⟩),
     (0x06B09A40, .tmma ⟨11, 1, 3, .bf16, .c2, .off, false, false⟩), (0x08003200, .mzero ⟨6, .bf16⟩),
     (0x0A000C40, .mdecay ⟨0, 1, .f16, .c2, .off, false, false⟩),
     (0x0C021232, .mdrain ⟨0, 4, 2, .bf16, .c1, .latch false, true, false⟩),
     (0x0EBC821B, .mgath ⟨11, 25, 1, .latch true, true, true⟩), (0x10BC8000, .msave ⟨11, 25, .off, false⟩),
     (0x12BC8002, .mrest ⟨11, 25, .off, true⟩), (0x14B02000, .mset ⟨11, 2, false, .off⟩),
     (0x160600A0, .mcall ⟨0, 12, .c5, .off⟩), (0x18BC8000, .mupd ⟨11, 25, .off⟩), (0x1A000000, .mwait),
     (0x1CB02600, .ewr ⟨11, 19, .off⟩), (0x1F601000, .erd ⟨22, 8, .off⟩)] = true := by decide +kernel

theorem test_words_slot7 : decodes 7
    [(0x02BCF400, .copy ⟨11, 25, 7, false, true, .off⟩), (0x04BCF800, .copyd ⟨11, 25, 7, true, false, .off⟩),
     (0x06BCFA00, .copyh ⟨11, 25, 7, true, false, true, .off⟩), (0x08B07000, .cqpush ⟨11, 7, .off⟩),
     (0x0ABCF800, .copya ⟨11, 25, 7, true, false, .off⟩), (0x0CBCF800, .copyda ⟨11, 25, 7, true, false, .off⟩),
     (0x0EBCF200, .cstat ⟨11, 25, 7, true, .off⟩), (0x10BCF200, .cflag ⟨11, 25, 7, false, true, .off⟩),
     (0x20BCA000, .xch ⟨11, 25, 1, .off⟩), (0x22B24020, .xcb ⟨11, 4, 2, .c1, .off⟩),
     (0x24BCB200, .sib ⟨11, 25, 1, 9, .off⟩), (0x26026220, .sibc ⟨0, 4, 3, 1, .c1, .off⟩),
     (0x28BCC000, .shf ⟨11, 25, 2, false, .off⟩), (0x2A604220, .shfc ⟨6, 0, 2, true, .c1, .off⟩), (0x2C000E00, .xwait 0x7),
     (0x2EBC8000, .xcins ⟨11, 25, .off⟩), (0x316C8000, .xstat ⟨22, 25, .off⟩), (0x416C8000, .repq ⟨22, 25, .off⟩),
     (0x420C8000, .repc ⟨25, .off⟩), (0x440C8000, .repx ⟨25, false, .off⟩), (0x476C8000, .reps ⟨22, 25, .off⟩)] = true := by decide +kernel

/-- Words that the listings of the spec write out (beside those of WordsOfTheListingsDecode). -/
theorem test_words_of_the_listings :
    decodes 0 [(0x12400C03, .loopi ⟨1, 3, 3⟩)] = true ∧ decodes 2 [(0x4C520880, .vscanadd ⟨5, 4, .c2, 1, .f32, .off, false⟩)] = true ∧
      decodes 7 [(0x04742400, .copyd ⟨7, 8, 2, false, true, .off⟩), (0x42038000, .repc ⟨7, .off⟩), (0x46320000, .reps ⟨3, 4, .off⟩)] = true ∧
      decodes 6 [(0x120E0000, .mrest ⟨0, 28, .off, false⟩), (0x1A000000, .mwait)] = true := by decide +kernel

/-- Words that R42 to R56 and the chapters call ILLEGAL or CALIBRE: an opcode that is not assigned, a field that must be zero, a size or
scope that is reserved, p0 as a destination, a hold of a register that is not zero, a tile past the last, a routine's word outside one. -/
theorem test_words_refused :
    (([(0, 0x7E000000), (1, 0x02000010), (0, 0x0C000001), (0, 0x24000000), (0, 0x10000000), (2, 0x32008000), (6, 0x02004040), (6, 0x08004000),
      (7, 0x2C000000), (5, 0x06000000)] : List (Nat × Nat)).all fun x => isError (decodeSlot x.1 x.2) .illegal) = true ∧
      isError (decodeSlot 6 0x02219001) .calibre = true := by decide +kernel

/-! ### Single steps and single instructions, with results from the spec's own words -/

/-- The machine with a word placed runs it and moves on to bundle 32 (R29, R36): sub s4, s0, s0 in slot 1. -/
theorem test_step_runs_the_placed_word : (match step (State.reset.withFetchWord 32 0x02400001) with
    | .next t => t.stream.pc == 32 && t.sreg 4 == 0 && t.stream.status == .running
    | _ => false) = true := by decide +kernel

/-- R145: 1 + (−1) wraps to 0, and 64-bit shifts take six bits of their count. -/
theorem test_add_wraps : gives (.add ⟨7, 1, 2⟩) w (fun t => t.sreg 7 == 0) = true := by decide +kernel
theorem test_sll_ignores_high_bits : gives (.sll ⟨7, 4, 3⟩) w (fun t => t.sreg 7 == 4) = true := by decide +kernel
/-- R145: −2^63 is below 1 as a signed value, above it as an unsigned one. -/
theorem test_slt_is_signed : gives (.slt ⟨7, 5, 1⟩) w (fun t => t.sreg 7 == 1) = true := by decide +kernel
theorem test_sltu_is_unsigned : gives (.sltu ⟨7, 5, 1⟩) w (fun t => t.sreg 7 == 0) = true := by decide +kernel
/-- R146: a zero divisor gives all ones; −2^63 / −1 gives −2^63; −1 rem 64 takes the sign of the dividend. -/
theorem test_div_corners : gives (.div ⟨7, 1, 0⟩) w (fun t => t.sreg 7 == BitVec.allOnes 64) = true ∧
    gives (.div ⟨7, 5, 2⟩) w (fun t => t.sreg 7 == t.sreg 5) = true := by decide +kernel
theorem test_rem_sign : gives (.rem ⟨7, 2, 3⟩) w (fun t => t.sreg 7 == BitVec.allOnes 64) = true := by decide +kernel
/-- R27: a write to s0 is discarded. -/
theorem test_s0_discards : gives (.add ⟨0, 1, 1⟩) w (fun t => t.sreg 0 == 0) = true := by decide +kernel
/-- R147: clz of 0 is 64. -/
theorem test_clz_of_zero : gives (.clz ⟨7, 0⟩) w (fun t => t.sreg 7 == 64) = true := by decide +kernel
/-- R151: LDARG reads eight bytes of the argument block, little-endian: bytes 8 to 15 hold 8, 9, …, 15. -/
theorem test_ldarg : gives (.ldarg ⟨7, 0, 1⟩) w (fun t => t.sreg 7 == 0x0F0E0D0C0B0A0908) = true := by decide +kernel
/-- R153: 1.0 + 2^-24 rounds to even, with INEXACT; 2.0 · 2.0 is exact. -/
theorem test_fadd_rounds_to_even :
    gives (.fadd ⟨7, 8, 9, .rne⟩) (wx fun x => { x with s := (x.s.set 8 0x3F800000).set 9 0x33800000 })
      (fun t => t.sreg 7 == 0x3F800000 && t.stream.flags != 0) = true := by decide +kernel
theorem test_fmul_exact :
    gives (.fmul ⟨7, 8, 8, .rne⟩) (wx fun x => { x with s := x.s.set 8 0x40000000 })
      (fun t => t.sreg 7 == 0x40800000 && t.stream.flags == 0) = true := by decide +kernel
/-- R165: LOOPI from slot 0 of bundle 0 names bundles 32 to 32 · L. -/
theorem test_loopi : gives (.loopi ⟨1, 3, 2⟩) w (fun t => t.stream.loops == [⟨1, 3, 32, 64⟩]) = true := by decide +kernel
/-- R170, R364: TRAP with an immediate of 256 or more takes USER, 0x15, from slot 0. -/
theorem test_trap_user : gives (.trap 256) w (fun t => t.stream.status == .trapped && t.trapRecord[0] == 0x15) = true := by
  decide +kernel
/-- R175: COUNT saturates at 0xFFFF. -/
theorem test_barr_saturates : gives (.barr ⟨3, 0xFFFF⟩) (wx fun x => { x with bars := x.bars.set 3 ⟨2, 7⟩ })
    (fun t => t.stream.bars[3] == ⟨0xFFFF, 7⟩) = true := by decide +kernel
/-- R252: STH of four bytes stores s3's low word at s6's offset, least significant byte first. -/
theorem test_sth_is_little_endian : gives (.sth ⟨2, 6, .i32, 1, 0⟩) w
    (fun t => t.byte 0x200104 == 0xFF && t.byte 0x200107 == 0xFF && t.byte 0x200103 == 0 && t.byte 0x200108 == 0) = true := by
  decide +kernel
/-- R252: LDH of a byte 0x80 as i8 extends its sign. -/
theorem test_ldh_extends_sign : gives (.ldh ⟨7, 3, .i8, 0, 0⟩) { w with mem := Cells.setMany [] [(0x200040, 0x80)] }
    (fun t => t.sreg 7 == 0xFFFFFFFFFFFFFF80) = true := by decide +kernel
/-- R85, R362: an access past the window's end is a WINDOW trap of cause 0 that changes no memory. -/
theorem test_window_trap : gives (.sth ⟨1, 5, .i64, 0, 0⟩) w (fun t => t.stream.status == .trapped && t.mem == w.mem) = true := by
  decide +kernel
/-- R261: an atomic add of 4 at 0x100 of window 0 leaves the sum and returns the old word. -/
theorem test_atomic_apply : gives (.atomicApply ⟨0⟩)
    { w with mem := Cells.setMany [] [(0x200100, 5)], atoms := [⟨0, 0, .add, .i32, 0x200100, 4, some (.scalar 4)⟩], atomInstr := 1 }
    (fun t => t.sreg 4 == 5 && t.byte 0x200100 == 9) = true := by decide +kernel
/-- R186: i32 lanes saturate with SAT where M is 1. -/
theorem test_vadd_saturates : gives (.vadd ⟨false, 3, 1, 1, 1, .i32, .off, true⟩)
    (wx fun x => { x with v := Cells.blit [] 1024 1 fun _ => 0x7FFFFFFF })
    (fun t => t.lane 3 0 == 0x7FFFFFFF && t.lane 3 1 == 0 && t.stream.flags != 0) = true := by decide +kernel
/-- R200: VLANE of s3 = 64 under p2 writes 64 and 65. -/
theorem test_vlane : gives (.vlane ⟨false, 3, 3, 2, .off⟩) w (fun t => t.lane 3 0 == 64 && t.lane 3 1 == 65 && t.lane 3 2 == 0) = true := by
  decide +kernel
/-- R247: PST of lane 0 writes four bytes of slab 0's plate at s3. -/
theorem test_pst : gives (.pst ⟨3, 3, 1, .f32⟩) (wx fun x => { x with v := Cells.blit [] 3072 1 fun _ => 0x01020304 })
    (fun t => t.plateNum 0 0 64 4 == 0x01020304 && t.plateNum 0 1 64 4 == 0) = true := by decide +kernel
/-- R303: XWAIT of free slots goes on; R237: MSET writes a routine parameter. -/
theorem test_xwait : gives (.xwait 15) w (fun t => t.stream.hold == none) = true := by decide +kernel
theorem test_mset : gives (.mset ⟨3, 5, false, .off⟩) w (fun t => t.stream.m[5] == 64) = true := by decide +kernel
/-- R362: BRK takes BREAK, 0x16. -/
theorem test_brk : gives (.brk 0) w (fun t => t.stream.status == .trapped && t.trapNumber == 0x16) = true := by decide +kernel
/-- R394: an alarm of level 3 empties the keys; under level 2 the stream stands still. -/
theorem test_zeroise : gives (.alarmTrigger 3) { w with keys := [⟨1, 5, 7⟩] } (fun t => t.keys == [] && t.plates == []) = true := by
  decide +kernel
theorem test_alarm_halts : (match step { State.reset.withFetchWord 32 0x02400001 with alarm := 2 } with
    | .next t => t.stream.pc == 0
    | _ => false) = true := by decide +kernel

/-! ### Witnesses: scalars and control -/

theorem witness_ldarg : ((w.sreg 0).toNat + 8 * 31) % 256 % 8 = 0 ∧ ((w.sreg 1).toNat + 8 * 0) % 256 % 8 ≠ 0 := by decide +kernel

theorem witness_float_signs :
    (w.f32 0) % 2 ^ 31 ≤ 0x7F800000 ∧
      0x7F800000 < ((wx fun x => { x with s := x.s.set 7 0x7F800001 }).f32 7) % 2 ^ 31 := by decide +kernel

theorem witness_rounding : fmtF32 ∈ floatFormats ∧ 0x3F800000 < 2 ^ fmtF32.width ∧ 0 < 2 ^ 16 ∧
    fmtF32.decode 0x3F800000 = .fin false (2 ^ 23) (-23) := by
  refine ⟨List.mem_cons_self, ?_⟩; decide +kernel

theorem witness_branches : w.preg 0 = BitVec.allOnes 1024 ∧ w.preg 3 = 0 ∧ w.preg 1 ≠ BitVec.allOnes 1024 ∧ w.preg 1 ≠ 0 ∧
    ((w.sreg 3).truncate 48 : CodeAddr).toNat % 32 = 0 ∧ ((w.sreg 1).truncate 48 : CodeAddr).toNat % 32 ≠ 0 := by decide +kernel

/-- Fifteen return addresses leave room; sixteen spill, or cannot. -/
theorem witness_calls :
    let full := wx fun x => { x with ras := List.replicate 16 32 }
    let last := wx fun x => { x with ras := List.replicate 16 32, spilled := 512 }
    let atEnd := wx fun x => { x with ras := List.replicate 16 32, spilled := 0xFFFF }
    let one := wx fun x => { x with ras := [64] }
    let odd := wx fun x => { x with ras := [68] }
    let spilled := wx fun x => { x with spilled := 1 }
    (wx fun x => { x with ras := List.replicate 15 32 }).stream.ras.length < 16 ∧
    (16 ≤ full.stream.ras.length ∧ full.stream.theTask.spillWin = some 3 ∧ full.stream.spilled ≠ 0xFFFF ∧
      8 * (full.stream.spilled.toNat + 1) ≤ (full.stream.theTask.win 3).len) ∧
    (16 ≤ last.stream.ras.length ∧ last.stream.theTask.spillWin = some 3 ∧
      (last.stream.theTask.win 3).len < 8 * (last.stream.spilled.toNat + 1)) ∧
    (16 ≤ atEnd.stream.ras.length ∧ atEnd.stream.spilled = 0xFFFF) ∧
    (one.stream.ras = 64 :: [] ∧ (64 : CodeAddr).toNat % 32 = 0) ∧ (odd.stream.ras = 68 :: [] ∧ (68 : CodeAddr).toNat % 32 ≠ 0) ∧
    (spilled.stream.ras = [] ∧ spilled.stream.spilled ≠ 0 ∧ spilled.stream.theTask.spillWin = some 3 ∧ spilled.loose = [] ∧
      (∀ k, k < 8 → (spilled.stream.theTask.phys 3 ((spilled.stream.theTask.win 3).base + 8 * 0) + k) / 8 ∉ spilled.poison) ∧
      ∀ k, k < 6 → spilled.byte (0x230000 + k) = BitVec.ofNat 8 (0 / 256 ^ k)) ∧
    spilled.stream.theTask.phys 3 ((spilled.stream.theTask.win 3).base + 8 * 0) / 8 ∈ { spilled with poison := [0x230000 / 8] }.poison ∧
    (w.stream.ras = [] ∧ w.stream.spilled = 0) := by decide +kernel

theorem witness_loops :
    let e : LoopEntry := ⟨0, 2, 32, 64⟩
    let five := wx fun x => { x with loops := List.replicate 5 e }
    let six := wx fun x => { x with loops := List.replicate 6 e }
    ((∀ e ∈ five.stream.loops, e.idx ≠ 1) ∧ five.stream.loops.length < 6) ∧ (∃ e ∈ five.stream.loops, e.idx = 0) ∧
      ((∀ e ∈ six.stream.loops, e.idx ≠ 5) ∧ six.stream.loops.length = 6) ∧ BitVec.ofNat 32 (4 : BitVec 12).toNat ≠ 0 := by
  decide +kernel

theorem witness_bundle_end :
    let x := w.stream
    let e : LoopEntry := ⟨0, 2, 32, 64⟩
    let y : Machine.Stream := { x with loops := [e] }
    (x.pend = none ∧ x.loops = []) ∧ (y.pend = none ∧ y.loops = e :: [] ∧ e.stop ≠ 32) ∧
      (e.stop = 64 ∧ y.i[e.idx] + 1 < e.count) ∧ (e.count ≤ (y.i.set 0 1)[e.idx] + 1) ∧
      (∃ t, ({ x with pend := some (.branch 32) } : Machine.Stream).pend = some (.branch t)) ∧
      (∃ t, ({ x with pend := some (.call 32) } : Machine.Stream).pend = some (.call t)) ∧
      (∃ t, ({ x with pend := some (.skip 32) } : Machine.Stream).pend = some (.skip t)) ∧
      (let z : Machine.Stream := { x with pend := some .done }
       z.pend = some .done ∧ z.task = some task0) := by
  refine ⟨?_, ?_, ?_, ?_, ⟨_, rfl⟩, ⟨_, rfl⟩, ⟨_, rfl⟩, ?_⟩ <;> decide +kernel

/-- A stub record at bundle 0. -/
def stub0 : StubRecord := ⟨0, none, [], Vector.replicate 2 none, Vector.replicate 2 none, 0, 0, none⟩
def inStub0 : State := wx fun x => { x with stub := some stub0 }
def pure0 : State := wx fun x => { x with pure := true }

theorem witness_done_seg : w.stream.stub = none ∧ inStub0.stream.stub ≠ none ∧
    w.stream.theTask.segs[(0 : BitVec 12).toNat]? = some ⟨0, 64, 0, 0, 0, 0⟩ ∧ (0 : Nat) = w.stream.pc.toNat / 32 * 32 ∧
    w.stream.theTask.segs[(2 : BitVec 12).toNat]? = none ∧
    w.stream.theTask.segs[(1 : BitVec 12).toNat]? = some ⟨32, 64, 0, 0, 0, 0⟩ ∧ 32 ≠ w.stream.pc.toNat / 32 * 32 ∧
    inStub0.stream.theTask.segs[(0 : BitVec 12).toNat]? = some ⟨0, 64, 0, 0, 0, 0⟩ := by
  decide +kernel

theorem witness_services : w.stream.pure = false ∧ 256 ≤ (256 : BitVec 20).toNat ∧ w.holder ≠ none ∧ w.stream.stub = none ∧
    2 ≤ (2 : BitVec 20).toNat ∧ (255 : BitVec 20).toNat < 256 ∧ pure0.stream.pure = true := by decide +kernel

theorem witness_stubs : (inStub0.stream.stub = some stub0 ∧ stub0.calls = inStub0.stream.ras.length ∧
      stub0.spilled = inStub0.stream.spilled) ∧
    (let s := inStub0.onStream fun x => { x with ras := [32] }
     s.stream.stub = some stub0 ∧ stub0.calls ≠ s.stream.ras.length) ∧
    (let s := inStub0.onStream fun x => { x with wait := some .park }
     let b := { s with matrix := [⟨0, true, 0, none, none, true⟩] }
     s.stream.wait = some .park ∧ (∀ e ∈ s.matrix, e.part ≠ s.part) ∧ s.accessesDone s.part = true ∧
      b.stream.wait = some .park ∧ ∃ e ∈ b.matrix, e.part = b.part) ∧ (w.stream.stub = none ∧ w.stream.pure = false) ∧
    (pure0.stream.stub = none ∧ pure0.stream.pure = true) := by decide +kernel

theorem witness_control_registers : pure0.stream.pure = true ∧ (4 : BitVec 15).toNat = 4 ∧ 16 ≤ (16 : BitVec 15).toNat ∧
    (7 : BitVec 15).toNat = 7 ∧ (6 : BitVec 15).toNat = 6 ∧ w.stream.pure = false ∧ (15 : BitVec 15).toNat < 16 := by decide +kernel

/-! ### Witnesses: barriers, fences, agreements -/

/-- Rank 0 of a subcube of four dimensions in an EXCHANGE task, every partner of which has been heard from. -/
def cube0 : State :=
  { w.onStream (fun x => { x with exch := true, subMask := 0xF }) with
    trained := 0xF,
    parts := w.parts.set 0 { part0 with
      tickReleases := [(1, 2)],
      syncReleases := [(1, 1)],
      tokens := (List.range 4).flatMap fun d =>
        [⟨true, .sub, d, 1, 1⟩, ⟨false, .sub, d, 1, 1⟩, ⟨true, .cube, d, 1, 1⟩, ⟨false, .cube, d, 1, 1⟩],
      rdz := [⟨0, 1, 1⟩, ⟨3, 1, 1⟩] } }

/-- The same before anything has come. -/
def silent0 : State := w.onStream fun x => { x with exch := true, subMask := 0xF }

theorem witness_barriers : let b := wx fun x => { x with bars := x.bars.set 1 ⟨2, 2⟩ }
    (⟨2, 2⟩ : Barrier).target.toNat ≤ (b.stream.bars[(1 : Fin 64)]).count.toNat ∧
    (let c := wx fun x => { x with bars := x.bars.set 1 ⟨1, 2⟩ }
     (c.stream.bars[(1 : Fin 64)]).count.toNat < (c.stream.bars[(1 : Fin 64)]).target.toNat) := by decide +kernel

/-- The stream waits for something. -/
def waits (x : Wait) (s : State) : State := s.onStream fun y => { y with wait := some x }
/-- An agreement that has just begun. -/
def begun (k : JoinKind) : Wait := .agree (Join.start k)

theorem witness_fence : (w.holder ≠ none ∧ w.accessesDone w.part = true ∧ w.matrix = [] ∧ (w.pt w.part).ownPackets = false ∧
      (w.pt w.part).exchanging = false ∧ w.landings = []) ∧
    (waits (.fence (w.fenceOf 31)) w).fenceMet (w.fenceOf 31) = true ∧
    (let m := { w with matrix := [⟨0, true, 0, none, none, true⟩], matrixCount := 1 }
     (waits (.fence (m.fenceOf 2)) m).fenceMet (m.fenceOf 2) = false) := by decide +kernel

theorem witness_tick : cube0.stream.stub = none ∧ cube0.accessesDone cube0.part = true ∧
    (cube0.pt cube0.part).exchanging = false ∧ (waits (begun (.tick .die)) cube0).stream.wait = some (begun (.tick .die)) ∧
    (MayReach cube0 .pack ∧ AgreementHeard cube0 true .pack 2) ∧ (MayReach cube0 .sub ∧ AgreementHeard cube0 true .sub 1) ∧
    (MayReach cube0 .cube ∧ AgreementHeard cube0 true .cube 1) ∧ AgreementHeard cube0 true .die 1 ∧
    (∀ a ∈ cube0.heldAccs, a.tag ≠ cube0.part) := by
  refine ⟨by decide +kernel, by decide +kernel, by decide +kernel, by decide +kernel, ⟨?_, ?_⟩, ⟨?_, ?_⟩, ⟨?_, ?_⟩, trivial,
    by decide +kernel⟩
  · refine ⟨rfl, rfl, rfl, fun _ => ?_, fun h => ?_⟩
    · decide +kernel
    · cases h
  · show 0 + 2 ≤ _; decide +kernel
  · exact ⟨rfl, rfl, rfl, (fun h => nomatch h), (fun h => nomatch h)⟩
  · intro d hd; have h : d < 4 := by
      rcases Nat.lt_or_ge d 14 with h | h
      · revert hd; revert d; decide +kernel
      · exact absurd hd (by rw [BitVec.getLsbD_of_ge _ _ h]; decide)
    revert hd; revert h; revert d; decide +kernel
  · refine ⟨rfl, rfl, rfl, (fun h => nomatch h), fun _ d hd => hd⟩
  · intro d hd; have h : d < 4 := by
      rcases Nat.lt_or_ge d 14 with h | h
      · revert hd; revert d; decide +kernel
      · exact absurd hd (by rw [BitVec.getLsbD_of_ge _ _ h]; decide)
    revert hd; revert h; revert d; decide +kernel

theorem witness_syncs : (MayReach cube0 .pack ∧ AgreementHeard cube0 false .pack 1) ∧
    (MayReach silent0 .pack ∧ ¬AgreementHeard silent0 false .pack 1) ∧ (MayReach silent0 .sub ∧ ¬AgreementHeard silent0 false .sub 1) := by
  refine ⟨⟨witness_tick.2.2.2.2.1.1, ?_⟩, ⟨?_, ?_⟩, ⟨?_, ?_⟩⟩
  · show 0 + 1 ≤ _; decide +kernel
  · exact ⟨rfl, rfl, rfl, (fun _ => by decide +kernel), (fun h => nomatch h)⟩
  · show ¬(0 + 1 ≤ _); decide +kernel
  · exact ⟨rfl, rfl, rfl, (fun h => nomatch h), (fun h => nomatch h)⟩
  · intro h; exact absurd (h 0 (by decide +kernel)) (by decide +kernel)

theorem witness_tick_waits : let s := waits (begun (.tick .die)) { w with atoms := [⟨0, 0, .add, .i32, 0x200000, 1, none⟩], atomInstr := 1 }
    s.stream.wait = some (begun (.tick .die)) ∧ s.accessesDone s.part = false := by decide +kernel

theorem witness_rdz : (∀ j, j < 14 → (9 : BitVec 14).getLsbD j = true → j < cube0.stream.order) ∧
    cube0.stream.stub = none ∧ cube0.stream.pure = false ∧ cube0.stream.exch = true ∧
    (∀ j, j < 14 → (9 : BitVec 14).getLsbD j = true → let d := physDim cube0.stream.subMask j
      cube0.stream.rdzSent.toList.getD d 0 + 1 ≤ (cube0.pt cube0.part).rdzCount d cube0.stream.theTask.seq) ∧
    (let asked := cube0.onStream fun x => { x with rdzSent := x.rdzSent.set 0 2 }
     ¬asked.stream.rdzSent.toList.getD 0 0 ≤ (asked.pt asked.part).rdzCount 0 asked.stream.theTask.seq) := by decide +kernel

theorem witness_other_dies : pure0.stream.pure = true ∧ (inStub0.stream.pure = false ∧ inStub0.stream.stub ≠ none) ∧
    (w.stream.pure = false ∧ w.stream.stub = none ∧ w.stream.exch = false) := by decide +kernel

/-! ### Witnesses: vectors -/

/-- The latches of both pipes and both C slots hold a value. -/
def latched0 : State :=
  wx fun x => { x with latchV := Vector.replicate 2 (some []), latchC := Vector.replicate 2 (some 0) }

/-- No hold, latching and, with full latches, a held operand are ready; so the vector and matrix statements' first hypothesis. -/
theorem witness_ready (a b : Bool) : ReadyV a .off w ∧ ReadyV a (.latch b) w ∧ ReadyV a (.held b) latched0 ∧
    ReadyC a .off w ∧ ReadyC a (.latch b) w ∧ ReadyC a (.held b) latched0 := by
  refine ⟨fun _ h => (by cases h), fun _ h => (by cases h), fun _ _ => ?_, fun _ h => (by cases h), fun _ h => (by cases h),
    fun _ _ => ?_⟩ <;> cases a <;> decide +kernel

theorem witness_types : elemFmt .f32 = some fmtF32 ∧ elemFmt .bf16 = some fmtBf16 ∧ elemFmt .i8 = none ∧
    ElemType.bits .i8 = 8 ∧ ElemType.bits .f16 = 16 ∧ ElemType.bits .n32 = 32 ∧ ElemType.perLane .f32 = 1 := by
  refine ⟨rfl, rfl, rfl, rfl, rfl, rfl, rfl⟩

theorem witness_conversions : cvtFmt .e4m3 = some fmtE4m3 ∧ cvtInt .i8 = some .i8 ∧ (cvtFmt .t2 = none ∧ cvtInt .t2 = none) ∧
    (cvtFmt .e8m0 = none ∧ cvtInt .e8m0 = none) := by refine ⟨rfl, rfl, ⟨rfl, rfl⟩, ⟨rfl, rfl⟩⟩

/-- p3 has no active lane, p1 one. -/
theorem witness_reductions : ((List.range 1024).filter fun k => (w.preg 3).getLsbD k) = [] ∧
    ((List.range 1024).filter fun k => (w.preg 1).getLsbD k) = [0] := by decide +kernel

/-! ### Witnesses: plates, home memory, atomics, streams -/

/-- The last word of plate 1, the last byte of the share. -/
theorem witness_plates : PlateOk w 4 4 131068 ∧ ¬PlateOk w 4 4 131072 ∧ ¬PlateOk w 4 4 2 ∧ PlateOk w 256 256 130816 ∧
    PlateOk w 0 4 131072 ∧ 0 % 4 = 0 ∧ (w.pt w.part).bind.pbase + (w.pt w.part).bind.plates ≤ 64 := by
  unfold PlateOk; decide +kernel

/-- Every active element of p1 (lane 0) at s3 = 64, and at a negative stride. -/
theorem witness_plate_elements :
    (∀ e, e < 1024 → (w.preg 1).getLsbD e = true → PlateOk w 4 4 ((w.sreg 3).toInt + (e % 64 * 4 : Nat))) ∧
    (∀ e, e < 1024 → (w.preg 2).getLsbD e = true → PlateOk w 4 4 ((w.sreg 3).toInt + (e % 64 : Nat) * (-4))) ∧
    (∀ e, e < 1024 → (w.preg 1).getLsbD e = true → PlateOk w 4 4 ((w.sreg 3).toInt + ((w.lane 0 e).toNat : Nat))) := by
  unfold PlateOk; decide +kernel

/-- Lane 0 at s1 = 1 is misaligned; lane 0 at s6 past the share of a partition with no plates is outside it. -/
theorem witness_plate_traps : (w.preg 1).getLsbD 0 = true ∧ ¬PlateOk w 4 4 ((w.sreg 1).toInt + (0 : Nat)) ∧
    (let s := { w with parts := w.parts.set 0 { part0 with bind := BindRecord.cleared } }
     (s.preg 1).getLsbD 0 = true ∧ ¬PlateOk s 4 4 ((s.sreg 6).toInt + (0 : Nat)) ∧ (256 : Int) % 4 = 0) := by
  unfold PlateOk; decide +kernel

/-- The words that the first active element, and a row at s6, would load, sound and uncorrectable. -/
theorem witness_plate_words :
    (∀ e, e < 1024 → (w.preg 1).getLsbD e = true →
      w.platesBad w.part (e / 64) ((w.sreg 3).toInt + (e % 64 * 4 : Nat)).toNat 4 = false) ∧
    w.platesBad w.part 0 (w.sreg 6).toInt.toNat 256 = false ∧ PlateOk w 256 256 (w.sreg 6).toInt ∧
    (let b := { w with platePoison := [w.plateCell w.part 0 64 / 8] }
     b.platesBad b.part 0 ((b.sreg 3).toInt + (0 : Nat)).toNat 4 = true) := by
  unfold PlateOk; decide +kernel

theorem witness_may_access : MayAccess w ∧ w.outboxFull = false := by
  refine ⟨?_, ?_⟩
  · unfold MayAccess; decide +kernel
  · decide +kernel

/-- The last bytes of the INOUT window, loaded, stored and updated; the IN, OUT and LAND windows. -/
theorem witness_reaches : Reaches w 0 8 .load 4088 ∧ Reaches w 0 8 .store 4088 ∧ Reaches w 0 4 .atomic 4092 ∧
    Reaches w 1 1 .load 4095 ∧ Reaches w 2 1 .store 0 ∧ Reaches w 4 2 .load 0 := by
  refine ⟨?_, ?_, ?_, ?_, ?_, ?_⟩ <;> (unfold Reaches; refine ⟨?_, ?_, ?_, ?_, ?_, ?_, ?_, ?_, ?_, ?_, ?_, ?_⟩) <;> decide +kernel

/-- What stops an access: below the user space, no window, past its end, not admitted, misaligned, pending. -/
theorem witness_access_traps :
    AccessTrap w 0 8 .load (-(2 ^ 63)) { num := 6, slot := 5, win := 0, info := 0x8000000000010000 } ∧
    AccessTrap w 5 1 .load 0 { num := 5, slot := 5, win := 5, cause := 2, info := 0 } ∧
    AccessTrap w 0 1 .store 4096 { num := 5, slot := 5, win := 0, info := 0x11000 } ∧
    AccessTrap w 2 1 .load 0 { num := 5, slot := 5, win := 2, cause := 1, info := 0x30000 } ∧
    AccessTrap w 0 8 .load 1 { num := 7, slot := 5, win := 0, info := 0x10001 } ∧
    AccessTrap { w with marks := [⟨0x240000 / 128, 0, none, false⟩] } 4 1 .load 0 { num := 0x13, slot := 5, win := 4, info := 0x50000 } := by
  unfold AccessTrap
  have d : ∀ {p : Prop} [Decidable p], decide p = true → p := of_decide_eq_true
  refine ⟨.inl ⟨d ?_, d ?_⟩, .inr (.inl ⟨d ?_, d ?_, d ?_⟩), .inr (.inr (.inl ⟨d ?_, d ?_, d ?_, d ?_⟩)),
    .inr (.inr (.inr (.inl ⟨d ?_, d ?_, d ?_⟩))), .inr (.inr (.inr (.inr (.inl ⟨d ?_, d ?_, d ?_, d ?_⟩)))),
    .inr (.inr (.inr (.inr (.inr ⟨d ?_, d ?_, d ?_, rfl, ⟨0, d ?_, 0x240000, d ?_, d ?_⟩, d ?_⟩))))⟩ <;> decide +kernel

/-- An access takes none of these traps: its bytes are canonical, inside the window, admitted and aligned, and none is pending. -/
theorem passes_of {s : State} {v n : Nat} {k : AccessKind} {off : Int}
    (h : 0 ≤ ((s.stream.theTask.win v).base : Int) + off ∧ ((s.stream.theTask.win v).base : Int) + off + n ≤ 2 ^ 48 ∧
      (s.stream.theTask.win v).len ≠ 0 ∧ ((s.stream.theTask.win v).base : Int) ≤ (s.stream.theTask.win v).base + off ∧
      ((s.stream.theTask.win v).base : Int) + off + n ≤ ((s.stream.theTask.win v).base : Int) + (s.stream.theTask.win v).len ∧
      (s.stream.theTask.win v).attr.allows k = true ∧ off % (n : Int) = 0 ∧ s.marks = []) : Passes s v n k off := by
  obtain ⟨h1, h2, h3, h4, h5, h6, h7, h8⟩ := h
  intro tr ht
  unfold AccessTrap at ht
  rcases ht with ⟨c, _⟩ | ⟨_, c, _⟩ | ⟨_, _, c, _⟩ | ⟨_, c, _⟩ | ⟨_, _, c, _⟩ | ⟨_, _, _, _, ⟨_, _, _, _, m, c, _⟩, _⟩
  · exact c ⟨h1, h2⟩
  · exact h3 c
  · exact c ⟨⟨h1, h2⟩, h3, h4, h5⟩
  · rw [h6] at c; cases c
  · exact c h7
  · rw [h8] at c; cases c

/-- The first lane misses the window, and no lane before it does; a load and an atomic of one word that pass. -/
theorem witness_passes : Passes w 0 4 .load 4092 ∧ Passes w 0 4 .atomic 64 ∧ Passes w 0 8 .store 0 ∧
    Passes (wx fun x => { x with task := some { task0 with extents := [] } }) 0 4 .load 0 := by
  refine ⟨passes_of ?_, passes_of ?_, passes_of ?_, passes_of ?_⟩ <;> decide +kernel

theorem witness_home_stops :
    let t := w.stream.theTask
    (pure0.stream.pure = true ∧ ¬PureOk pure0 0) ∧ PureOk w 0 ∧ MayAccess w ∧ w.stream.pure = false ∧ w.stream.det = false ∧
    (let u := wx fun x => { x with task := some { task0 with extents := [] } }
     u.stream.theTask.resolve 0 0x10000 = none) ∧
    (∀ b, b < 4 → t.resolve 0 (0x10000 + b) ≠ none) ∧ t.phys 0 0x10000 / 8 ∈ { w with poison := [0x200000 / 8] }.poison ∧
    (let a := { w with atoms := [⟨0, 0, .add, .i32, 0x200000, 1, none⟩], atomInstr := 1 }
     (∀ b, b < 4 → t.phys 0 (0x10000 + b) / 8 ∉ a.poison) ∧ a.pendingOn a.part [t.phys 0 0x10000] = true) ∧
    (let q : QReg := ⟨2 ^ 52, 0x001001001001, 0, 0, 1, 0, [], [⟨[(0, 7)], 1, false⟩]⟩
     (wx fun x => { x with q := x.q.set 0 (some q) }).pushedOn 0 [t.phys 0 0x10000] = true) ∧
    (let d : DetUpdate := ⟨0, 0, 0, 0, []⟩
     ({ w with detOutbox := List.replicate 4 d } : State).outboxFull = true) := by
  unfold PureOk MayAccess; decide +kernel

theorem witness_home_elements :
    (∀ e, e < 1024 → (w.preg 1).getLsbD e = true → Reaches w 0 4 .load (64 + e * 4)) ∧
    (∀ e, e < 1024 → (w.preg 1).getLsbD e = true → Reaches w 0 4 .atomic ((w.sreg 3).toInt + (w.lane 0 e).toInt)) := by
  have h : ∀ e, e < 1024 → (w.preg 1).getLsbD e = true → e = 0 := by decide +kernel
  constructor
  all_goals
    intro e he hp; obtain rfl := h e he hp
    unfold Reaches; refine ⟨?_, ?_, ?_, ?_, ?_, ?_, ?_, ?_, ?_, ?_, ?_, ?_⟩ <;> decide +kernel

theorem witness_atomics : w.stream.pure = false ∧ w.stream.det = false ∧ pure0.stream.pure = true ∧
    (wx fun x => { x with det := true }).stream.det = true ∧ w.heldByOther w.part 0x200040 = false := by decide +kernel

/-- Two lanes at different words of one line. -/
theorem witness_distinct_lanes :
    let s := wx fun x => { x with v := Cells.blit [] 0 2 fun k => BitVec.ofNat 32 (4 * k) }
    let pa := fun k => homeAt s 0 ((s.sreg 3).toInt + (s.lane 0 k).toInt) 0
    ((List.range 1024).filter fun k => (s.preg 2).getLsbD k) = [0, 1] ∧ pa 0 + 4 ≤ pa 1 ∧
      s.heldByOther s.part (pa 0) = false ∧ s.heldByOther s.part (pa 1) = false := by decide +kernel

theorem witness_atomic_units :
    let u : AtomUpdate := ⟨3, 0, .add, .i32, 0x200040, 5, some (.scalar 4)⟩
    let v : AtomUpdate := ⟨3, 0, .add, .i32, 0x200044, 5, none⟩
    let s := { w with atoms := [u, v] }
    let behind := { s with detBuf := [⟨2, 0, 0, 0x200040 / 64, [(0, 1)]⟩] }
    (firstOnWord s.atoms)[1]? = some v ∧ (firstOnWord s.atoms)[2]? = none ∧ s.behindDet v = false ∧ s.heldByOther v.part v.pa = false ∧
      s.loose = [] ∧ oneKeyed s = true ∧ (firstOnWord behind.atoms)[0]? = some u ∧ behind.behindDet u = true ∧
      (s.atoms = [u] ++ v :: [] ∧ ∀ x ∈ [u], ¬(x.instr = v.instr ∧ x.pa = v.pa)) := by decide +kernel

theorem witness_det_path :
    let u : DetUpdate := ⟨3, 0, 5, 0x8001, [(0, 1)]⟩
    let v : DetUpdate := ⟨2, 0, 4, 0x8001, [(0, 1)]⟩
    let sent := { w with detSent := [u] }
    let behind := { w with detSent := [u], detBuf := [v] }
    let full := { w with detSent := [u], detBuf := [v], detOutbox := List.replicate 4 { v with slab := 5 } }
    let out := { w with detOutbox := [u] }
    ((sent.detSent.find? fun u => u.slab == 5) = some u ∧ { sent with detSent := sent.detSent.erase u }.refuses u = false) ∧
    ({ behind with detSent := behind.detSent.erase u }.refuses u = true ∧ (behind.detOutbox.filter fun v => v.slab == (5 : Fin 16)).length < 4) ∧
    ({ full with detSent := full.detSent.erase u }.refuses u = true ∧ 4 ≤ (full.detOutbox.filter fun v => v.slab == (5 : Fin 16)).length) ∧
    w.detPending = [] ∧ (behind.detHeld u = false ∧ ∃ x ∈ behind.detBuf, x.line = u.line ∧ x.instr ≠ u.instr ∧ behind.detHeld x = false) ∧
    (out.detOutbox.find? fun u => u.slab == 5 && !({ out with detOutbox := out.detOutbox.erase u }).refuses u) = some u ∧
    { w with detBuf := [u] }.closable = some 3 := by decide +kernel

/-- One item of 256 bytes a slab, inbound from window 0; the same outbound; the first with an item landed. -/
def pat0 : QReg := ⟨64, 0x001001001001, 0, 0, 0, 0, [], []⟩
def patOut : QReg := ⟨64 + 2 ^ 52, 0x001001001001, 0, 0, 0, 0, [], []⟩
def item0 : QItem := ⟨[(0, 7)], 1, false⟩

theorem witness_streams :
    let s := wx fun x => { x with e := (x.e.set 16 64).set 17 0x001001001001 }
    MayAccess s ∧ s.accessesDone s.part = true ∧ s.stream.pure = false ∧ s.checkPattern pat0 = none ∧
      s.stream.e.toArray.getD 16 0 = pat0.pb ∧ s.stream.e.toArray.getD 17 0 = pat0.pc ∧
      s.stream.theTask.missing pat0.win ((s.stream.theTask.win pat0.win).va pat0.low).toNat (pat0.high - pat0.low).toNat = none := by
  refine ⟨?_, ?_, ?_, ?_, ?_, ?_, ?_⟩ <;> first | decide +kernel | (unfold MayAccess; decide +kernel)

theorem witness_stream_items :
    let bind := fun q : QReg => wx fun x => { x with q := x.q.set 0 (some q) }
    ((bind { pat0 with items := [item0] }).stream.q[(0 : Fin 8)] = some { pat0 with items := [item0] } ∧ pat0.outbound = false ∧
      pat0.moved < pat0.total ∧ item0.bad = false) ∧
    ((bind patOut).stream.q[(0 : Fin 8)] = some patOut ∧ patOut.outbound = true ∧ patOut.moved < patOut.total ∧ patOut.items.length < 4) ∧
    (∃ it rest, ({ pat0 with items := [{ item0 with bad := true }] } : QReg).items = it :: rest ∧ it.bad = true) ∧
    (({ pat0 with moved := 1 } : QReg).total ≤ 1) ∧ w.stream.q[(0 : Fin 8)] = none ∧
    (pat0.fetched < pat0.total ∧ pat0.flight.length + pat0.items.length < 4) ∧
    (∃ it rest, ({ pat0 with flight := [item0] } : QReg).flight = it :: rest) ∧
    ∃ it rest, ({ patOut with items := [item0] } : QReg).items = it :: rest := by
  refine ⟨?_, ?_, ⟨_, _, rfl, rfl⟩, ?_, ?_, ?_, ⟨_, _, rfl⟩, ⟨_, _, rfl⟩⟩ <;> decide +kernel


/-- PREF inside the window, past it, and of a page still to be translated; its line absent and there. -/
theorem witness_prefetch :
    let t := w.stream.theTask
    let u := wx fun x => { x with task := some { task0 with extents := [] } }
    (t.win 0).len ≠ 0 ∧ (t.win 0).attr.allows .load = true ∧ t.resolve 0 0x10040 = some 0x200040 ∧ (t.win 2).attr.allows .load = false ∧
      u.stream.theTask.resolve 0 0x10040 = none ∧ oneKeyed w = true ∧
      ∃ l ∈ ({ w with stash := [⟨0x200040 / 128, 1, false, [], [], []⟩] } : State).stash, l.line = 0x200040 / 128 := by
  refine ⟨?_, ?_, ?_, ?_, ?_, ?_, ⟨_, List.mem_cons_self, ?_⟩⟩ <;> decide +kernel

/-- An outbound stream whose one item an earlier atomic on its byte keeps back, and one that nothing keeps. -/
theorem witness_stream_order :
    let q : QReg := { patOut with moved := 1, items := [item0] }
    let s := wx fun x => { x with q := x.q.set 0 (some q) }
    let b := { s with atoms := [⟨0, 0, .add, .i32, 0x200040, 1, none⟩], atomInstr := 1 }
    (s.stream.q[(0 : Fin 8)] = some q ∧ q.outbound = true ∧ q.items[0]? = some item0 ∧
      s.pendingOn 0 ((itemStores s q 0 item0).map (·.1)) = false ∧ b.pendingOn 0 ((itemStores b q 0 item0).map (·.1)) = true) ∧
    b.accessesDone 0 = false ∧ s.accessesDone 0 = false ∧ w.accessesDone 0 = true ∧ oneKeyed s = true ∧ s.loose = [] := by decide +kernel

/-- One line update that closes alone, in a state whose lines are reached under one key slot. -/
theorem witness_det_close :
    let u : DetUpdate := ⟨3, 0, 5, 0x8001, [(0, 0x3F800000), (0, 0x33800000)]⟩
    let s := { w with detBuf := [u] }
    s.closable = some 3 ∧ s.detHeld u = false ∧ s.loose = [] ∧ oneKeyed s = true ∧ s.holder = some 0 ∧ w.closable = none ∧
      addedInto 0 [0x3F800000, 0x33800000] = (0x3F800000, flNX) := by decide +kernel
/-! ### Witnesses: the matrix unit -/

/-- e48 as in the example of file 09: BF16 operands from plates, K = 32; A at 0, B at 0x1800. -/
def mma0 : State := wx fun x => { x with e := x.e.set 48 0x200000 }
def mmaOp0 : MmaOp := ⟨0, 6, 3, .f32, .c2, .off, false, false⟩

theorem witness_going : Going w ∧ w.matrixFull = false ∧ Going mma0 := by unfold Going; decide +kernel

theorem witness_products : mma0.geo.k = 32 ∧ ¬(2 ≤ mma0.geo.asrc) ∧ mma0.matrixFull = false ∧
    mma0.checkE (mma0.work (.mma .dense 3 .f32 .c2 false false) 0 0x1800) = none ∧
    mma0.consumesBad (mma0.capture (mma0.work (.mma .dense 3 .f32 .c2 false false) 0 0x1800)) = false ∧
    mma0.geo.amx = false ∧ mma0.geo.asrc = 0 ∧ 31 < mStep mma0.geo.afmt * mma0.geo.steps ∧ mma0.geo.bmx = false ∧
    mStep mma0.geo.bfmt = mStep mma0.geo.afmt := by decide +kernel

theorem witness_decay_drain_gather : PlateOk w 256 4 (w.srcC false .off false 3).toInt ∧
    (∀ slab, slab < 16 → w.platesBad w.part slab (w.srcC false .off false 3).toInt.toNat 256 = false) ∧
    w.consumesBad (w.capture (w.work (.mgath 0 false false) 0 0)) = false ∧
    (let d := wx fun x => { x with e := x.e.set 50 0 }
     d.checkDrain d.geo 0 0 = none ∧ d.matrixFull = false) ∧ w.checkGather w.geo false false 0 0 = none ∧
    w.checkGather w.geo true true 0 64 = none := by
  unfold PlateOk; decide +kernel

/-- The SPILL window reaches over 16 pages; MSAVE of A buffer 0 fits it. -/
def save0 : State :=
  wx fun x => { x with
    e := x.e.set 54 3,
    task := some { task0 with
      windows := [⟨0x10000, 4096, .inout, false, false⟩, ⟨0x20000, 4096, .input, false, false⟩,
        ⟨0x30000, 4096, .output, false, false⟩, ⟨0x100000, 0x100000, .spill, false, false⟩],
      extents := ⟨3, 16, 48, 16, 0⟩ :: task0.extents } }

theorem witness_saves : save0.checkSave true 0x80000 0x100 = none ∧ save0.checkSave false 0x80000 0x100 = none ∧
    save0.stream.theTask.missing 3 0x180000 (saveSize 0x100) = none ∧ save0.matrixFull = false ∧ save0.poison = [] ∧
    bits save0.geo.sv 0 4 = 3 := by decide +kernel

theorem witness_erd : (∀ c : Fin 8, 8 = 8 + c.val → (w.pt w.part).queues[c].issued = []) := by decide +kernel

theorem witness_matrix_queue :
    let e : MatrixEntry := ⟨0, false, 0, some 1, none, true⟩
    let s := { w with matrix := [e] }
    (let m := { s.onStream (fun x => { x with mwait := some 1 }) with matrixCount := 1 }
     m.stream.mwait = some 1 ∧ m.stream.wait = none ∧ m.matrixCount - m.matrix.length < 1 ∧
       1 ≤ { m with matrix := [] }.matrixCount - { m with matrix := [] }.matrix.length) ∧
      (s.matrix = [] ++ e :: [] ∧ e.begun = false) ∧
      (let f := { e with begun := true }
       ({ w with matrix := [f] } : State).matrix = f :: [] ∧ f.begun = true ∧ w.holder = some f.part) := by decide +kernel

/-- An image of NOPs in the plates, routine 0 never installed. -/
theorem witness_routines : PlateOk w 64 64 64 ∧ (∀ k, k < 16 → routineFault (w.plateNum w.part 0 (64 + 4 * k) 4) = none) ∧
    (∀ e ∈ w.matrix, e.part = w.part → e.routine = some 0 → e.current = true) ∧ w.platesBad w.part 0 64 64 = false ∧
    w.badRoutineWord ((w.pt w.part).routine 0) = none ∧
    callWork w (w.stream.m.set 7 0) .c2 ((w.pt w.part).routine 0) = [] ∧ (∀ r ∈ (w.pt w.part).routines, r.1 ≠ 0) := by
  unfold PlateOk; decide +kernel


/-- The words of an image: a product as a routine names it, m6 and m3, with calibre 0 and with its own. -/
theorem witness_routine_words : (∃ e, eopOf (.mma mmaOp0) id = some e ∧ e.2.2.2 = .off ∧ e.2.1 < 8 ∧ e.2.2.1 < 8) ∧
    WellFormed (.mma mmaOp0) ∧ carriesCal (encode (.mma mmaOp0)) = true ∧
    gives (.mzero ⟨3, .f32⟩) w (fun t => t.matrixCount == 1) = true ∧ (∃ e, eopOf (.mzero ⟨3, .f32⟩) id = some e ∧ e.2.2.2 = .off) := by
  refine ⟨⟨_, rfl, rfl, by decide, by decide⟩, ?_, ?_, ?_, ⟨_, rfl, rfl⟩⟩ <;> decide +kernel

/-- A drain of FP32 elements, and one into E4M3 blocks with its scales. -/
theorem witness_drains :
    let f32 := wx fun x => { x with e := x.e.set 50 (256 * 2 ^ 16) }
    let mx := wx fun x => { x with e := x.e.set 50 (3 + 64 * 2 ^ 16 + 4 * 2 ^ 32) }
    f32.checkDrain f32.geo 0 0 = none ∧ f32.geo.drn % 8 < 3 ∧ mx.checkDrain mx.geo 0 0x8000 = none ∧ 3 ≤ mx.geo.drn % 8 := by decide +kernel

/-! ### Witnesses: copies, exchanges, the Repeater's words -/

/-- A task that may reach other dies, in a subcube of dimensions 0 and 1. -/
def far0 : State := wx fun x => { x with exch := true, subMask := 3, e := (x.e.set 0 64).set 32 (64 + 512 * 2 ^ 32) }
/-- 64 bytes from offset 0 of window 0 to offset 64 of it, as e0 and the operands s0 and s3 give them. -/
def packet0 (kind : Nat) : Packet := ⟨BitVec.ofNat 64 kind, 0, 64, 64, 0, 0, 0⟩
/-- The flag packet of CFLAG s3, s1: to offset 64 of window 0, here or across dimension 0. -/
def flag0 (far : Bool) : Packet := ⟨BitVec.ofNat 64 (6 + 2 ^ 9 + (if far then 2 ^ 34 else 0)), 0, 0, 0, 64, 1, 0⟩

theorem witness_copies :
    (far0.srcC true .off false 0, far0.srcC true .off true 3) = (0, 64) ∧ far0.stream.e[1] = 0 ∧ far0.stream.e[0] = 64 ∧
    (∀ k ∈ [packet0 1, packet0 2, packet0 3, packet0 4, packet0 5, ⟨5 + 2 ^ 4, 64, 0, 64, 0, 0, 0⟩, flag0 false, flag0 true],
      far0.checkPacket k = none ∧ far0.packetPage k = none) ∧
    ((List.finRange 4).map fun q => (far0.queue q 0).issued.length).sum < 16 ∧ (validPacket .stream (packet0 3) && (packet0 3).posts) = true ∧
    physDim far0.stream.subMask (packet0 3).dim < 14 := by decide +kernel

theorem witness_cqpush : PlateOk far0 64 64 (far0.srcC true .off false 3).toInt ∧
    (let k := Packet.ofWords ((List.range 8).map fun j => far0.plateNum far0.part 0 (64 + 8 * j) 8)
     far0.platesBad far0.part 0 64 64 = false ∧ validPacket .stream k = true ∧ far0.checkPacket k = none ∧ far0.packetPage k = none) := by
  unfold PlateOk; decide +kernel

/-- Words in home memory, eight bytes each. -/
def put (l : List (Nat × Nat)) (s : State) : State := { s with mem := Cells.setMany s.mem (l.flatMap fun x => bytesAt x.1 8 x.2) }
/-- Page tables of partition 0 that map the first 64 KiB of its space to 0x43_0000 under key slot 1; there, the header of channel
0 with its ring of 16 slots at 0x1000, and that of the task queue at 0x800 with its ring at 0x2000. -/
def tables0 : List (Nat × Nat) := [(0x400000, 0x410001), (0x410000, 0x420001), (0x420000, 0x430017),
  (0x430010, 0x0004000000001000), (0x430810, 0x0004000000002000)]
def queued0 (s : State) : State :=
  put tables0 { s with
    keys := [⟨1, 5, 1⟩]
    parts := s.parts.set 0 { s.parts[0] with bind := { part0.bind with root := 0x400000, tqhdr := 0x800 } } }
/-- A queue that has given out n slots and finished d. -/
def wq (n d : Nat) : State := put [(0x430000, n), (0x430008, d), (0x430800, n), (0x430808, d)] (queued0 w)

theorem witness_waitid : let s := (wq 4 2).onStream fun x => { x with s := (x.s.set 1 2).set 2 3 }
    (s.sreg 1).toNat ≤ s.doneId s.part 0 ∧ s.doneId s.part 0 < (s.sreg 2).toNat ∧ oneKeyed s = true ∧
      s.copyView s.part 0 = some ⟨0, 4, 2, 0x1000, 16⟩ ∧ s.copyHdr s.part 0 % 64 = 0 := by decide +kernel

/-- Four packets written, two done; slot 1, of identifier 2, says OK. -/
theorem witness_cstat : oneKeyed (put [(0x431078, 1)] (wq 4 2)) = true ∧ 2 ≤ 2 ∧ 4 < 2 + 16 ∧ (wq 4 2).copyView 0 0 = some ⟨0, 4, 2, 0x1000, 16⟩ ∧ (wq 4 2).copyHdr 0 0 % 64 = 0 ∧ 2 ≠ 0 ∧
    (put [(0x431078, 1)] (wq 4 2)).vread64 0 (0x1000 + 64 * ((2 - 1) % 16) + 56) = some 1 := by decide +kernel

/-- x0 names 256 bytes at 64, with its own bytes received at 512, in slabs 0 and 1. -/
def exch0 : State := far0.onStream fun x => { x with e := x.e.set 33 (256 + 3 * 2 ^ 32) }
/-- The same without a byte to move. -/
def exchEmpty : State := far0

theorem witness_exchanges : Going exch0 ∧ (exch0.pt exch0.part).xslots[(0 : Fin 4)] = none ∧
    (let g := exch0.stream.xgeo 0 0
     (∀ kind ∈ [XKind.xch, .xcb, .sib, .sibc], exch0.checkX kind g 1 1 = none ∧ zeroCount kind g 1 = false) ∧
     (∀ kind ∈ [XKind.shf, .shfc], exch0.checkX kind g 3 0 = none ∧ zeroCount kind g 3 = false)) ∧
    (exch0.pt exch0.part).pairing = [] ∧
    (let g := exchEmpty.stream.xgeo 0 0
     exchEmpty.checkX .xch g 1 0 = none ∧ zeroCount .xch g 1 = true) := by unfold Going; decide +kernel

/-- An operation that waits for its partner, and one that has matched. -/
def xop0 (st : PairState) : XOp :=
  { exch0.xOp .xch (exch0.stream.xgeo 0 0) 1 0 false none with
    sendTo := some ⟨2, 1, st⟩
    recvFrom := some ⟨2, 1, st⟩ }
def busy0 (st : PairState) : State :=
  { exch0 with parts := exch0.parts.set 0 { exch0.parts[0] with xslots := (exch0.parts[0]).xslots.set 0 (some (xop0 st)) } }

theorem witness_xwait_xstat : (∀ k : Fin 4, (15 : BitVec 4).getLsbD k.val = true → (w.pt w.part).xslots[k] = none) ∧
    (∃ k : Fin 4, (1 : BitVec 4).getLsbD k.val = true ∧ ((busy0 .awaited).pt (busy0 .awaited).part).xslots[k] ≠ none) ∧
    w.stream.order ≤ 14 := by
  refine ⟨?_, ⟨0, ?_⟩, ?_⟩ <;> decide +kernel

/-- An image of words that are all zero. -/
theorem witness_xcins : w.stream.pure = false ∧ PlateOk w 128 128 128 ∧ w.platesBad w.part 0 128 128 = false ∧
    ∀ k, k < 32 → compWordOk (w.plateNum w.part 0 (128 + 4 * k) 4) = true := by unfold PlateOk; decide +kernel

/-- An entry under the key of zeros of tenant 5. -/
def entry0 : RepEntry := ⟨5, List.replicate 32 0, .valid, false, 0, 1, [], []⟩

/-- A sound key and an uncorrectable one; the running task's key from its lookup, and where it had none. -/
theorem witness_repeater_keys : w.platesBad w.part 0 32 32 = false ∧
    { w with platePoison := [w.plateCell w.part 0 32 / 8] }.platesBad w.part 0 32 32 = true ∧
    (let row : TenantRow := { TenantRow.cleared with valid := true, tenant := 5 }
     let t := { pure0 with tenants := pure0.tenants.set 0 row }
     t.tenantRow 5 = some row ∧ t.stream.theTask.rep ∈ [.none, .pending [], .noRecord []] ∧
      (t.onStream fun x => { x with task := some { task0 with rep := .pending [1] } }).stream.theTask.rep ∈
        [.pending ((1 : Byte) :: []), .noRecord (1 :: [])]) := by decide +kernel

theorem witness_repeater : PlateOk w 32 32 32 ∧ (∀ e ∈ w.repEntries, e.tenant = 5 → e.key ≠ w.plateBytes w.part 0 32 32) ∧
    (let s := { w with repEntries := [entry0] }
     s.repEntries = [] ++ entry0 :: [] ∧ entry0.tenant = (s.pt s.part).bind.tenant ∧ entry0.key = s.plateBytes s.part 0 32 32) ∧
    (∀ c ∈ w.repCounters, c.tenant ≠ 5) ∧
    (let c : RepCounters := ⟨5, Vector.replicate 6 0⟩
     ({ w with repCounters := [c] } : State).repCounters = [] ++ c :: [] ∧ c.tenant = (w.pt w.part).bind.tenant) ∧
    (w.stream.pure = false ∨ w.tenantRow 5 = none) ∧
    (∃ row, ({ pure0 with tenants := pure0.tenants.set 0 { TenantRow.cleared with valid := true, tenant := 5 } } : State).tenantRow 5 =
      some row) ∧ pure0.stream.pure = true := by
  refine ⟨?_, ?_, ?_, ?_, ?_, ?_, ⟨_, rfl⟩, ?_⟩
  · unfold PlateOk; decide +kernel
  all_goals decide +kernel

/-! ### Witnesses: the exchange engine, merges -/

/-- Slot x0 holds an operation. -/
def slot0 (x : XOp) : State :=
  { exch0 with parts := exch0.parts.set 0 { exch0.parts[0] with xslots := (exch0.parts[0]).xslots.set 0 (some x) } }
/-- All its bytes sent and received. -/
def moved0 (st : PairState) (baren : Bool) : XOp := { xop0 st with toSend := [], toRecv := [], baren := baren, bar := 3 }
/-- The chunk it awaits for slab 0. -/
def chunk0 : Chunk := ⟨7, (xop0 .matched).seq, (xop0 .matched).ctr, (xop0 .matched).num, 2, 0, 0, List.replicate 256 1, []⟩
def arrived0 (x : XOp) : State :=
  { slot0 x with parts := (slot0 x).parts.set 0 { (slot0 x).parts[0] with arrivals := [chunk0] } }

theorem witness_chunk_goes : ((slot0 (xop0 .matched)).pt 0).xslots[(0 : Fin 4)] = some (xop0 .matched) ∧
    (xop0 .matched).sendTo = some ⟨2, 1, .matched⟩ ∧ (1 : Nat) < 14 ∧ (xop0 .matched).toSend = (0, 0) :: [(1, 0)] ∧
    (slot0 (xop0 .matched)).platesBad 0 0 (xop0 .matched).snd 256 = false := by decide +kernel

/-- A chunk of an XCH, and one of an XCB under OP 3. -/
theorem witness_chunk_arrives : ∀ x ∈ [xop0 .matched, { xop0 .matched with kind := .xcb, op := 3, selfLow := true }],
    ((arrived0 x).pt 0).xslots[(0 : Fin 4)] = some x ∧ chunk0 ∈ ((arrived0 x).pt 0).arrivals ∧
    (chunk0.ctr, chunk0.num, chunk0.seq) = (x.ctr, x.num, x.seq) ∧ x.recvFrom = some ⟨2, 1, .matched⟩ ∧ (2 : BitVec 14) = chunk0.src ∧
    (chunk0.slab, chunk0.index) ∈ x.toRecv ∧ x.snd ≠ x.rcv ∧ (∀ p ∈ [0, 1, 2, 3], ∀ base : Fin 4, (arrived0 x).platesBad p 0 (256 * base.val) 256 = false) := by
  decide +kernel

theorem witness_combining : ((xop0 .matched).op ≤ 2 ∧ (List.replicate 256 (1 : Byte)).length = 4 * 64) ∧
    ({ xop0 .matched with kind := .xcb, op := 3 } : XOp).op = 3 := by decide +kernel

/-- Completed with OK and with MISMATCH, with an arrival and without, live and parked. -/
theorem witness_exchange_completes :
    (∀ st ∈ [PairState.matched, .mismatched], ∀ b ∈ [true, false], let s := slot0 (moved0 st b)
      (s.pt 0).xslots[(0 : Fin 4)] = some (moved0 st b) ∧ s.ctx 0 = some s.stream ∧ (moved0 st b).sendTo = some ⟨2, 1, st⟩ ∧
        st ≠ .awaited ∧ (moved0 st b).toSend = [] ∧ (moved0 st b).toRecv = [] ∧ s.rowsWaiting ++ s.rowsFull = [] ∧
        (moved0 st b).baren = b ∧ s.holder = some 0) ∧
    (let s := slot0 (moved0 .matched true)
     let u := { s with holder := none, shadow := s.shadow.set 0 (some s.stream) }
     u.ctx 0 = some s.stream ∧ u.holder ≠ some 0) := by decide +kernel

def tickJoin0 (sc : Scope) (releases : Nat) : Join :=
  { kind := .tick sc, cleaned := true, dims := [], sent := false, releases := releases, arrived := false, merged := false }
/-- A TICK of die scope, one of package scope and one of subcube scope, its own lines written back, beside a staged line. -/
def tick0 (sc : Scope) (releases : Nat) : State :=
  { w with
    stream := { stream0 with
      subMask := 1
      wait := some (.agree (tickJoin0 sc releases)) }
    staged := [⟨0x4000, 0, [(3, 9)], [], some 1⟩]
    parts := w.parts.set 0 { part0 with tickReleases := [(1, 1)], tokens := [⟨true, .sub, 0, 1, 1⟩] } }

theorem witness_ticks_merge : (∀ sc ∈ [Scope.die, .pack, .sub], ∃ j, (tick0 sc 0).holder = some 0 ∧ (tick0 sc 0).stream.wait = some (.agree j) ∧
      j.kind = .tick sc ∧ j.cleaned = true ∧ j.merged = false ∧ sc ≠ .lane ∧ sc ≠ .slab) ∧
    (tick0 .pack 0).stream.packTicks + 1 ≤ releasesOf ((tick0 .pack 0).pt 0).tickReleases (tick0 .pack 0).stream.theTask.seq ∧
    (∀ d ∈ (tick0 .sub 0).scopeDims .sub, (tick0 .sub 0).stream.agreed true .sub + 1 ≤
      ((tick0 .sub 0).pt 0).tokenCount true .sub d (tick0 .sub 0).stream.theTask.seq) ∧
    (tick0 .sub 0).scopeDims .sub = [0] ∧ (∃ j, (tick0 .cube 1).stream.wait = some (.agree j) ∧ j.releases = 1) ∧
    (∀ a ∈ (tick0 .die 0).heldAccs, a.tag ≠ 0) ∧ oneKeyed (tick0 .die 0) = true ∧ (∀ x ∈ (tick0 .die 0).detLines, x.1 ≠ 0) ∧
    (∀ x ∈ (tick0 .die 0).staged, ∀ k, x.key = some k → k = 1) := by
  refine ⟨?_, ?_, ?_, ?_, ⟨_, rfl, rfl⟩, ?_, ?_, ?_, ?_⟩
  · intro sc h
    simp only [List.mem_cons, List.not_mem_nil, or_false] at h
    rcases h with rfl | rfl | rfl <;> exact ⟨_, rfl, rfl, rfl, rfl, rfl, by decide, by decide⟩
  case refine_8 =>
    intro x hx k hk
    have : x = ⟨0x4000, 0, [(3, 9)], [], some 1⟩ := by simpa [tick0] using hx
    subst this; cases hk; rfl
  all_goals decide +kernel

/-! ### Witnesses: the package -/

/-- A start-up stage that ends as told, dimensions 0 and 1 trained. -/
def outcome0 (fail : BitVec 8) : StageOutcome := ⟨fail, [1, 2], 9, (List.range 16).map fun k => (2 * k, 2 * k + 1), [], 3, 1, [], 0⟩
def atStage (n : Fin 8) : State := { State.reset with stage := n }
/-- Stage 3 with dimensions 0 and 1 in training and agreed on a version, dimension 2 with no partner. -/
def training0 : State :=
  let up (l : Link) : Link := { l with state := 1, ver := 0x0100 }
  { atStage 3 with links := ((State.reset.links.set 0 (up State.reset.links[0])).set 1 (up State.reset.links[1])).set 2 (up State.reset.links[2]) }

theorem witness_start_up : (∀ n ∈ [(1 : Fin 8), 2, 3], (atStage n).powered = true ∧ (atStage n).fail = 0 ∧ (atStage n).stage = n) ∧
    (outcome0 0).fail = 0 ∧ ((atStage 1).stage = 1 ∧ (outcome0 1).fail = 1) ∧ (outcome0 4).fail = 4 ∧
    ((outcome0 7).fail ≠ 0 ∧ ¬((atStage 2).stage = 1 ∧ (outcome0 7).fail = 1 ∨ (atStage 2).stage = 2 ∧ ((outcome0 7).fail = 2 ∨ (outcome0 7).fail = 3)) ∧
      ¬((atStage 2).stage = 3 ∧ (outcome0 7).fail = 4)) ∧
    slabMapOk (outcome0 0).slabMap (outcome0 0).badHalves = true ∧ slabMapOk (outcome0 0).slabMap [0] = false ∧
    (training0.powered = true ∧ training0.fail = 0 ∧ training0.stage = 3 ∧ ∀ d : Fin 14, ∀ f ∈ training0.links[d].replay, f.bad = false) := by
  decide +kernel

theorem witness_power : ({ State.reset with powered := false } : State).powered = false ∧ State.reset.powered = true := by decide +kernel

theorem witness_keys :
    let s := { w with session := true }
    (s.powered = true ∧ s.alarm = 0 ∧ s.loading = none) ∧ (s.session = true ∧ (1023 : Fin 1024).val ≠ 0) ∧ w.session = false ∧
    (let u := { w with loading := some ⟨1023, 5, 77⟩ }
     u.loading = some ⟨1023, 5, 77⟩ ∧ 3 ≤ u.stage.val ∧ u.taskOf 0 = some task0 ∧ (∀ x ∈ task0.extents, x.key ≠ 1023) ∧
       (∀ p : PartNo, p ≠ 0 → u.taskOf p = none) ∧ ∀ p : PartNo, ∀ va ∈ u.pinned p, u.vkey p va true false ≠ some 1023) ∧
    (let u := { w with lineKeys := Cells.set [] 3 1023, loading := some ⟨1023, 5, 77⟩ }
     Cells.wf u.lineKeys = true ∧ u.slotKey 1023 ≠ 77 ∧ u.lineSlot 3 = 1023 ∧ ∀ l ∈ u.stash, l.line ≠ 3) ∧
    (let u := { w with digests := [5, 5, 5, 5, 5, 6] }
     u.digests[6 - 1]? = some 6 ∧ u.digests[1 - 1]? = some 5) := by decide +kernel

theorem witness_alarms :
    let r : MbxRun := ⟨3, 9, w.mbxArgs, 0, []⟩
    let s := { w with mbxRun := some r, loading := some ⟨1, 5, 77⟩ }
    (0 : Fin 4) ≤ s.alarm ∧ (∀ l ∈ [(1 : Fin 4), 2, 3], s.alarm < l) ∧ s.mbxRun = some r ∧ s.loading = some ⟨1, 5, 77⟩ ∧
      s.mbxEvents.length < 256 := by decide +kernel

/-- Commands before their stages and in them, with arguments that name a register of this die. -/
theorem witness_commands :
    let s := { w with mbxArgs := #v[0, 0x20100, 7, 0] }
    (s.powered = true ∧ s.alarm = 0 ∧ s.fail ≠ 1) ∧ ({ s with mbxBusy := true } : State).mbxBusy = true ∧ s.mbxBusy = false ∧
    s.stage.val = 4 ∧ (atStage 1).stage.val < 2 ∧ s.node = s.master ∧ ({ s with node := 1 } : State).node ≠ s.master ∧
    (∃ x, regAddr 0x20100 = some x) ∧ regAddr 0x20018 = some (.config 3) ∧ regAddr 0x20020 = none ∧ (0 : Nat) = s.dieNo.toNat ∧
    s.mbxArgs[1].toNat ≠ 1 ∧ (∀ i ∈ s.images, i.base ≠ s.mbxArgs[0]) ∧
    (let h := { s with mbxArgs := #v[0, 3, 0, 0], parts := s.parts.set 3 { Partition.cleared with disp := .held } }
     h.mbxArgs[1].toNat = (3 : Fin 4).val ∧ (h.pt 3).disp = .held ∧ (s.pt 3).disp ≠ .held) ∧
    (8 : BitVec 16).toNat < 256 ∧ 256 ≤ (256 : BitVec 16).toNat := by
  refine ⟨?_, ?_, ?_, ?_, ?_, ?_, ?_, ⟨_, rfl⟩, ?_⟩ <;> decide +kernel

/-- An image at 0x100 with one line, and a die that restores it. -/
def image0 : CheckpointImage :=
  { base := 0x100, header := imageHeader 0 9, home := [(5, List.replicate 128 0)], under := [], shadow := Vector.replicate 4 none,
    plates := [], staged := [], owners := [], key0 := 9 }
def restore0 : State := { w with holder := none, images := [image0], mbxArgs := #v[0x100, 1, 0, 0], mbxRun := some ⟨5, 9, #v[0x100, 1, 0, 0], 0, []⟩ }

theorem witness_image : image0.headerOk = true := imageHeader_ok 0 image0 rfl
/-- The same image under a header of another version. -/
theorem witness_bad_image : ({ image0 with header := [] } : CheckpointImage).headerOk = false := by decide +kernel

theorem witness_restore_image : restore0.images = [] ++ image0 :: [] := rfl
theorem witness_restore : restore0.mbxRun = some ⟨5, 9, #v[0x100, 1, 0, 0], 0, []⟩ ∧ (#v[0x100, 1, 0, 0] : Vector DWord 4)[1] = 1 ∧ restore0.holder = none ∧
    (∀ p, (restore0.pt p).disp ≠ .ending) ∧ image0.base = (#v[0x100, 1, 0, 0] : Vector DWord 4)[0] ∧
    (List.replicate 128 (0 : Byte)).length = 128 ∧ (restore0.mbxArgs[1]).toNat = 1 ∧ restore0.powered = true ∧ restore0.alarm = 0 ∧
    restore0.fail ≠ 1 ∧ restore0.mbxBusy = false ∧ restore0.stage.val = 4 := by decide +kernel

theorem witness_completions :
    let r : MbxRun := ⟨3, 9, w.mbxArgs, 0, [1]⟩
    let c : MbxRun := ⟨5, 9, w.mbxArgs, 0, []⟩
    (({ w with mbxRun := some r } : State).mbxRun = some r ∧ ¬(r.code = 5 ∧ r.result = 0)) ∧
    (let s := { w with mbxRun := some c, holder := none }
     s.mbxRun = some c ∧ c.code = 5 ∧ c.result = 0 ∧ c.given[1] = 0 ∧ s.holder = none ∧ ∀ p, (s.pt p).disp ≠ .ending) ∧
    (w.powered = true ∧ w.alarm = 0 ∧ w.fail ≠ 1) ∧
    (let e : MbxEvent := ⟨8, 0, 0x15⟩
     ({ w with mbxEvents := [e] } : State).mbxEvents = e :: [] ∧ w.mbxEvents = []) := by decide +kernel

/-- The link of dimension 0 dead, that of dimension 1 up. -/
def deadLink0 : State := { w with links := (w.links.set 0 { w.links[0] with state := 4 }).set 1 { w.links[1] with state := 2 } }
theorem witness_register_writes : w.powered = true ∧ w.alarm = 0 ∧ w.fail ≠ 1 ∧
    (∀ d : Fin 14, (w.link d).state ≠ 4 ∧ (w.link d).deton = false) ∧
    ((deadLink0.link 0).state = 4 ∧ (deadLink0.link 0).lost = false ∧ (0x18 : BitVec 64).getLsbD 3 = true ∧
      (deadLink0.link ((0x18 : BitVec 64).extractLsb' 4 4).toNat).up = true) := by decide +kernel

/-- R97: a line that comes in under another slot than HBM4E holds it under is deciphered with the wrong key. -/
theorem witness_wrong_slot : (let s := { w with lineKeys := Cells.set [] 3 1023, keys := [⟨1023, 5, 77⟩] }
    s.wrongSlot 3 1 = true ∧ s.wrongSlot 3 1023 = false) := by decide +kernel

/-! ### Witnesses: the links -/

/-- A die with node id 0 and every link up, running in partition 0 under job 7. -/
def linked0 : State := { w with links := Vector.replicate 14 { Link.cleared with state := 2, ver := 0x0100 }, trained := BitVec.allOnes 14 }
/-- The first flit of a type over dimension 0. -/
def hdr0 (ty : Fin 16) : FlitHdr := ⟨0, ty, 0, 0, 1, 0, 0, 1, 0, 1, 0, 0⟩
/-- Link 0 changed. -/
def linkx (f : Link → Link) : State := { linked0 with links := linked0.links.set 0 (f linked0.links[0]) }
/-- The queue of channel 0 of partition 0 changed, its headers in reach. -/
def queuex (s : State) (f : CopyQueue → CopyQueue) : State :=
  { s with parts := s.parts.set 0 { s.parts[0] with queues := s.parts[0].queues.set 0 (f s.parts[0].queues[0]) } }

theorem witness_in_order : ∀ ty ∈ [(0 : Fin 16), 1, 2, 4, 5], InOrder linked0 (hdr0 ty) ty.val := by
  intro ty h
  simp only [List.mem_cons, List.not_mem_nil, or_false] at h
  rcases h with rfl | rfl | rfl | rfl | rfl <;>
    (unfold InOrder; refine ⟨?_, ?_, ?_, ?_, ?_, ?_, ?_, ?_, ?_, ?_, ?_⟩) <;> decide +kernel

theorem witness_flits :
    linked0.partOfJob 7 = some 0 ∧ chunk0.job = 7 ∧
    (let n : RingNote := ⟨0, .posted, true, false, false, none, false, 7, 0, [], [], []⟩
     let a : ActivePacket := ⟨0, { packet0 3 with len := 128 }, .posted, .pulling, 0, [], [], none, 7, 0⟩
     let s := queuex linked0 fun q => { q with notes := [n], active := [a] }
     (s.queue 0 0).notes = [] ++ n :: [] ∧ n.origin = .posted ∧ n.dim = (hdr0 1).dim.val ∧
       0 < (((s.queue 0 0).active.find? fun y => y.idx == n.idx && y.stage == .pulling).map (·.pkt.length)).getD 0 - n.data.length) ∧
    (let x : IssuedPacket := ⟨packet0 3, true, .waiting, none, false⟩
     let s := queuex { linked0 with stream := { stream0 with subMask := 1 } } fun q => { q with issued := [x] }
     (s.queue 0 0).issued = [] ++ x :: [] ∧ x.posting = .waiting ∧ s.postDim 0 x.pkt = (hdr0 2).dim.val) ∧
    (let x : IssuedPacket := ⟨packet0 3, true, .ok, none, false⟩
     let s := queuex { linked0 with stream := { stream0 with subMask := 1 } } fun q => { q with issued := [x] }
     (s.queue 0 0).notes = [] ∧ (s.queue 0 0).issued = [] ++ x :: [] ∧ x.posting = .ok ∧ x.report = none ∧
       s.postDim 0 x.pkt = (hdr0 2).dim.val) ∧
    (let n : RingNote := ⟨0, .stream, true, true, false, none, false, 7, 0, [], [], []⟩
     let s := queuex linked0 fun q => { q with notes := [n] }
     (s.queue 0 0).notes = [] ++ n :: [] ∧ n.proxy = true ∧ n.failed = false ∧ n.report = none ∧ n.dim = (hdr0 2).dim.val) ∧
    (linked0.taskOf 0 = some task0 ∧ task0.seq ≤ 1 ∧ (linked0.pt 0).pairing.length < 64 ∧
      ∀ k : Fin 4, (linked0.pt 0).xslots[k] = none) ∧
    linked0.partOfJob 8 = none ∧ linked0.mbxEvents.length < 256 := by decide +kernel

/-- The READY of the partner across dimension 1, with the operation's own signature and with another. -/
theorem witness_ready_matches :
    let x := xop0 .awaited
    let s := { slot0 x with links := Vector.replicate 14 { Link.cleared with state := 2 } }
    let h : FlitHdr := ⟨1, 2, 0, 1, 2, 0, 0, 1, 0, 1, 0, 0⟩
    let r : Ready := ⟨7, x.seq, x.ctr, x.num, x.sig, 2⟩
    InOrder s h 2 ∧ s.partOfJob r.job = some 0 ∧ s.taskOf 0 = some task0 ∧ task0.seq ≤ r.seq ∧ (s.pt 0).pairing = [] ∧
      (s.pt 0).xslots[(0 : Fin 4)] = some x ∧ (∀ j : Fin 4, j ≠ 0 → (s.pt 0).xslots[j] = none) ∧
      x.sendTo = some ⟨2, 1, .awaited⟩ ∧ x.recvFrom = some ⟨2, 1, .awaited⟩ ∧ (2 : BitVec 14) = r.src ∧
      (r.ctr, r.num, r.seq) = (x.ctr, x.num, x.seq) ∧ x.sig ≠ { x.sig with len := 0 } := by
  refine ⟨?_, ?_⟩
  · unfold InOrder; refine ⟨?_, ?_, ?_, ?_, ?_, ?_, ?_, ?_, ?_, ?_, ?_⟩ <;> decide +kernel
  · decide +kernel

/-- Room for the first posting, none after sixteen; a task queue with room. -/
theorem witness_postings :
    let q := queued0 linked0
    let full := put [(0x430000, 16)] q
    (q.partOfJob 7 = some 0 ∧ q.copyView 0 0 = some ⟨0, 0, 0, 0x1000, 16⟩ ∧ 0 < 0 + 16 ∧ (q.queue 0 0).posted = []) ∧ q.partOfJob 8 = none ∧ (full.copyView 0 0 = some ⟨0, 16, 0, 0x1000, 16⟩ ∧ 0 + 16 ≤ 16) ∧
    q.taskView 0 = some ⟨0x800, 0, 0, 0x2000, 16⟩ ∧ (put [(0x430800, 16)] q).taskView 0 = some ⟨0x800, 16, 0, 0x2000, 16⟩ ∧
    (∀ k ∈ [q, full], k.links = linked0.links ∧ k.node = linked0.node) := by decide +kernel

theorem witness_package_line : w.partOfJob 7 = some 0 := by decide +kernel

/-- A flit of the hop that waits for its acknowledgement; the same with an uncorrectable word. -/
def hop0 : Nat × Fin 4 × OutFlit := (1, 0, ⟨0, 1, .rdz 7 1, false⟩)
def bad0 : Nat × Fin 4 × OutFlit := (1, 0, ⟨0, 1, .rdz 7 1, true⟩)
/-- A flit that waits for a credit. -/
def flit0 : OutFlit := ⟨0, 2, .rdz 7 1, false⟩

theorem witness_replay :
    let s := linkx fun l => { l with hop := [hop0] }
    let held := linkx fun l => { l with waiting := [(0, flit0)] }
    let bad := linkx fun l => { l with hop := [bad0] }
    (∀ ty ∈ [(0 : Fin 16), 1, 3, 7], (hdr0 ty).ftype = ty ∧ (hdr0 ty).rsv = 0 ∧ (hdr0 ty).valid ≤ 256 ∧
      ∀ x ∈ (s.link 0).hop, ahead (hdr0 ty).lack x.1 < 0) ∧
    (hdr0 0).cargo ≠ BitVec.allOnes 64 ∧ (linked0.holder ≠ none ∧ linked0.stream.status = .running) ∧
    (hdr0 1).lane = 0 ∧ (hdr0 1).dim.val = 0 ∧ (hdr0 1).dst = s.node ∧ (hdr0 1).src = s.node ^^^ BitVec.ofNat 14 (2 ^ 0) ∧
    (1 < ahead 2 (s.link 0).lseqIn ∧ ahead 0 (s.link 0).lseqIn < 1 ∧ ahead (hdr0 1).lseq (s.link 0).lseqIn = 1 ∧
      ahead 3 (s.link 0).pseqIn ≠ 1) ∧
    (s.link 0).waiting = [] ∧ ((held.link 0).waiting = [(0, flit0)] ∧ (held.link 0).up = true ∧ (held.link 0).hop.length < 256) ∧
    ((s.link 0).hop ≠ [] ∧ (s.link 0).up = true ∧ (∀ x ∈ (s.link 0).hop, (s.link 0).triesOf x.1 < 8) ∧ ∀ x ∈ (s.link 0).hop, x.2.2.bad = false) ∧
    (let u := linkx fun l => { l with hop := [hop0], tries := [(1, 8)] }
     ∃ x ∈ (u.link 0).hop, 8 ≤ (u.link 0).triesOf x.1) ∧ (s.link 0).held = [] ∧ (s.link 0).state ≠ 1 ∧
    BitVec.allOnes 64 - 1 ≠ BitVec.allOnes 64 ∧
    (∃ x ∈ (bad.link 0).hop, x.2.2.harms = true ∧ x.2.2.isOwn = true) ∧ 8 ≤ (hdr0 8).ftype.val := by decide +kernel

/-- This die, node 0, passes on what node 2 sends to node 1 on the detour over dimensions 1 and 0. -/
theorem witness_detours :
    let h : FlitHdr := ⟨1, 1, 2, 0, 2, 1, 0, 1, 0, 1, 0, 0⟩
    let open0 := { linked0 with links := Vector.replicate 14 { linked0.links[0] with credits := Vector.replicate 4 1 } }
    (h.ftype.val < 8 ∧ h.rsv = 0 ∧ h.valid ≤ 256 ∧ h.link.val ≠ 0 ∧ (∀ x ∈ (linked0.link 1).hop, ahead h.lack x.1 < 0) ∧
      ahead h.lseq (linked0.link 1).lseqIn = 1 ∧ linked0.nextHop h = some (0, 3) ∧ open0.nextHop h = some (0, 3)) ∧
    ((open0.link 0).up = true ∧ (open0.link 0).waiting = [] ∧ 0 < (open0.link 0).credits[3] ∧ (open0.link 0).hop.length < 256) ∧
    ((linked0.link 0).up = true ∧ (linked0.link 0).waiting = [] ∧ (linked0.link 0).credits[3] = 0) ∧
    ((open0.link 0).deton = false ∧ 0 < (open0.link 0).credits[0]) ∧
    (let s := linkx fun l => { l with state := 1 }
     (hdr0 6).ftype = 6 ∧ (hdr0 6).rsv = 0 ∧ (∀ x ∈ (s.link 0).hop, ahead (hdr0 6).lack x.1 < 0) ∧ (s.link 0).state.val ≤ 1 ∧
       (0x0100 : BitVec 16) ≤ 0x0100 ∧ (0x0100 : BitVec 16) < 0x0200 ∧ s.mbxEvents.length < 256) := by decide +kernel

theorem witness_retraining :
    let down := linkx fun l => { l with state := 1 }
    let aside := linkx fun l => { l with state := 1, detv := true, dete := 1 }
    let dead := linkx fun l => { l with state := 4, replay := [⟨0, 1, .rdz 7 1, false⟩], fallen := true, noPathSince := some 0 }
    let late := { dead with gtime := 10000000 }
    let back := linkx fun l => { l with deton := true, returning := true, fenceAcked := true }
    ((linked0.link 0).up = true ∧ (linked0.link 6).state ≠ 1 ∧ linked0.stage = 4 ∧ (linked0.link 0).state ≠ 4) ∧
    ((down.link 0).state = 1 ∧ (down.link 0).deton = false ∧ (down.link 0).detv = false ∧ ∀ j, j < 14 → (down.link j).deton = false) ∧
    ((aside.link 0).detv = true ∧ (aside.link 0).lost = false ∧ (aside.link 0).dete.toNat ≠ 0 ∧ (aside.link 1).up = true ∧
      (∀ j, j < 14 → (aside.link j).deton = false) ∧ (aside.link 0).replay = [] ∧ (aside.link 0).hop = []) ∧
    ((back.link 0).returning = true ∧ (back.link 0).fenceAcked = true ∧ (back.link 0).up = true) ∧
    (∀ w : Fin 8, (linked0.laser 13 w.val).state = 1 ∧ (linked0.laser 13 8).state = 0 ∧ (linked0.link 13).state = 2) ∧
    ((dead.link 0).state = 4 ∧ dead.hasPath 0 = false ∧ (dead.link 0).noPathSince = some 0 ∧ dead.gtime.toNat < 0 + 10000000 ∧
      (dead.link 0).fallen = true ∧ (dead.link 0).lost = false) ∧ (linked0.link 0).fallen = false ∧
    (let lost := linkx fun l => { l with state := 4, fallen := true, lost := true }
     (lost.link 0).lost = true ∧ lost.pathOver 0 = false) ∧
    (late.hasPath 0 = false ∧ 0 + 10000000 ≤ late.gtime.toNat ∧ late.mbxEvents.length < 256 ∧
      (∀ p, (late.pt p).disp ≠ .translate ∧ (late.pt p).disp ≠ .held) ∧ late.holder = some 0 ∧ (late.pt 0).disp = .run) := by
  decide +kernel

/-- The parent of node 1 lies across dimension 0. -/
theorem witness_time :
    let s := { linked0 with node := 1 }
    let h : FlitHdr := ⟨0, 5, 0, 0, 0, 1, 0, 1, 0, 1, 0, 0⟩
    InOrder s h 5 ∧ s.parentDim = some 0 ∧
      (let u := { s with links := s.links.set 0 { s.links[0] with state := 4 } }
       u.parentDim = some 0 ∧ u.hasPath 0 = false ∧ u.mbxEvents.length < 256 ∧ u.stage = 4 ∧
         (let v := { u with timeLost := some 0 }
          v.timeLost = some 0 ∧ v.timeTold = false ∧ v.gtime.toNat < 0 + 1000000 ∧ ({ v with gtime := 1000000 } : State).gtime.toNat = 1000000)) := by
  refine ⟨?_, ?_⟩
  · unfold InOrder; refine ⟨?_, ?_, ?_, ?_, ?_, ?_, ?_, ?_, ?_, ?_, ?_⟩ <;> decide +kernel
  · decide +kernel

/-! ### Witnesses: home memory from outside, rows, errors -/

/-- 0x90_0000 lies in no window; 0x20_0000 in the INOUT window of partition 0's task; both at the end of a line and a word. -/
theorem witness_outside_writes : w.hasEthernet = true ∧ ({ w with node := 4 } : State).hasEthernet = false ∧
    ({ w with mbxRun := some ⟨5, 9, w.mbxArgs, 0, []⟩ } : State).chkptRuns = true ∧ PortOpen w 0x900078 8 ∧ Plain w 0x900078 8 ∧
    (PortOpen w 0x200078 8 ∧ List.replicate 8 (1 : Byte) ≠ [] ∧ 0x200078 % 128 + 8 ≤ 128 ∧
      (∀ k, k < 8 → w.treatment (0x200078 + k) = .staged 0) ∧ w.landings = [] ∧ w.roomFor (0x200078 / 128) = true) ∧
    State.reset.stage ≠ 4 ∧ ({ w with alarm := 1 } : State).alarm ≠ 0 ∧ 2 ^ 36 < 2 ^ 36 - 7 + 8 := by
  unfold PortOpen Plain; decide +kernel

theorem witness_outside_reads : w.stage = 4 ∧ w.alarm = 0 ∧ 2 ^ 36 - 8 + 8 ≤ 2 ^ 36 ∧ (∀ k, k < 8 → w.badView (2 ^ 36 - 8 + k) = false) ∧
    PortOpen w 0x900078 4 ∧ Plain w 0x900078 4 := by unfold PortOpen Plain; decide +kernel

/-- A row of slab 3; four staged lines that fill the set of a fifth. -/
theorem witness_rows_and_waits :
    let r : RowItem := ⟨.copyLocal 0, 0, 0, 3, [(0, 1), (1, 2)]⟩
    (let s := { w with rowsWaiting := [r] }
     s.rowsWaiting = [r] ∧ (s.rowsFull.filter fun x => x.slab == r.slab).length < 32) ∧
    (({ w with rowsFull := [r] } : State).rowsFull = [] ++ r :: []) ∧
    (let l : WaitingLanding := ⟨.host, 0, [(0x200000, 1)], true, [], none⟩
     let s := { w with landings := [l] }
     let full := { s with staged := (List.range 4).map fun k => ⟨0x4000 * (k + 2), 0, [(0, 1)], [], none⟩ }
     s.landings = [l] ∧ l.bytes = (0x200000, 1) :: [] ∧ s.canLand 0x200000 = true ∧ full.canLand 0x200000 = false ∧
       w.treatment 0x900000 = .direct ∧ l.bad = [] ∧ oneKeyed s = true) := by
  decide +kernel

/-- The last unit of each class; a bucket one below MARK, whose error crosses it. -/
theorem witness_buckets :
    (∀ e ∈ [(⟨0, 1023⟩ : ErrUnit), ⟨1, 287⟩, ⟨2, 35⟩, ⟨3, 231⟩], e.unit < unitCount e.cls ∧ w.leak e.cls ≠ 0) ∧
    (6 ≤ (13 : Fin 14).val ∧ w.mbxEvents.length < 256) ∧
    (let e : ErrUnit := ⟨0, 0⟩
     let s := w.setBucket e 1023
     bucketEvt (s.bucket e) = false ∧ bucketFill (s.bucket e) < s.mark 0 ∧ s.mark 0 ≤ min (bucketFill (s.bucket e) + s.inc 0) 65535) ∧
    (let e : ErrUnit := ⟨0, 0⟩
     ¬(w.mark 0 ≤ min (bucketFill (w.bucket e) + w.inc 0) 65535)) := by
  refine ⟨?_, ?_, ?_, ?_⟩
  all_goals decide +kernel

/-- An open segment that can be rewound. -/
def seg0 : SegRecord := ⟨64, 0, 0, 0, 0, 0, none, [], Vector.replicate 6 0, [], 0, 0, false, 0, false⟩
theorem witness_errors :
    let s := wx fun x => { x with seg := some seg0 }
    let checked := { s with parts := s.parts.set 0 { part0 with bind := { part0.bind with checked := true } } }
    (s.stream.live = true ∧ s.stream.seg = some seg0 ∧ seg0.overwritten = false ∧ seg0.rewinds < 3) ∧
    ((checked.pt checked.part).bind.checked = true ∧ checked.stream.live = true ∧ seg0.mismatched = false) ∧
    (w.stream.live = true ∧ w.stream.seg = none ∧ w.holder ≠ none) ∧ 287 < unitCount 1 ∧
    (let u := { w with poisonTables := [(0x420000, 1024)] }
     u.poisonTables = (0x420000, 1024) :: [] ∧ u.mbxEvents.length < 256 ∧ (List.replicate 1024 (0 : Byte)).length = 1024) := by
  decide +kernel

/-- The second mismatch of a segment; a rewind that may take effect, and one that waits for a matrix instruction. -/
theorem witness_rewinds :
    let again := wx fun x => { x with seg := some { seg0 with mismatched := true } }
    let s := wx fun x => { x with seg := some seg0, wait := some (.rewind true) }
    let busy := { s with matrix := [⟨0, true, 0, none, none, true⟩] }
    (again.stream.seg = some { seg0 with mismatched := true } ∧ again.holder ≠ none ∧ again.stream.live = true) ∧
    (s.stream.wait = some (.rewind true) ∧ s.stream.seg = some seg0 ∧ s.quiet s.part = true) ∧
    (busy.stream.wait = some (.rewind true) ∧ busy.quiet busy.part = false) := by decide +kernel

/-- The place of a word in a flit that waits on a link's hop, and in one of the pair; the last line and plate word. -/
theorem witness_poison :
    let s := linkx fun l => { l with hop := [hop0], replay := [flit0] }
    let o : PoisonMsg := ⟨.hop 0 0, ⟨0, 0⟩⟩
    (o.place = .hop 0 0 ∧ (s.link 0).hop[0]? = some hop0 ∧ (s.link 0).replay[0]? = some flit0 ∧ o.unit.unit < unitCount o.unit.cls) ∧
    (∀ k : PoisonPlace, k ∈ [.line (2 ^ 29 - 1), .plate 524287, .pair 13 0] → (⟨k, ⟨0, 0⟩⟩ : PoisonMsg).place = k) := by
  refine ⟨by decide +kernel, fun _ _ => rfl⟩

/-! ### Witnesses: copy packets -/

/-- What channel 0 knows of the packet in slot 0. -/
def note0 (o : PacketOrigin) : RingNote := ⟨0, o, true, false, false, none, false, 7, 0, [], [], []⟩
/-- The packet of slot 0 of channel 0 of partition 0, written by its stream or posted. -/
def ring0 (k : Packet) (n : RingNote) : State :=
  queuex (put (k.words.mapIdx fun j x => (0x431000 + 8 * j, x)) (wq 1 0)) fun q => { q with notes := [n] }

theorem witness_claims :
    let x : PostedIn := ⟨flag0 true, 7, 0, []⟩
    let y : IssuedPacket := ⟨packet0 1, true, .unneeded, none, false⟩
    let p := queuex (wq 1 0) fun q => { q with posted := [x] }
    let i := queuex (wq 1 0) fun q => { q with issued := [y] }
    (∀ s ∈ [p, i], (s.pt 0).bound = true ∧ s.copyView 0 0 = some ⟨0, 1, 0, 0x1000, 16⟩ ∧ 1 < 0 + 16 ∧ s.holder = some 0) ∧
    (p.queue 0 0).posted = x :: [] ∧ (i.queue 0 0).posted = [] ∧ (i.queue 0 0).issued = y :: [] ∧ y.posting ≠ .waiting := by
  decide +kernel

/-- The bits of CTL of a copy into plate space, of an outward copy to the host, of one inward. -/
def toPlates : Packet := ⟨BitVec.ofNat 64 (1 + 2 * 2 ^ 7), 0, 64, 64, 0, 0, 0⟩
def toHost : Packet := ⟨BitVec.ofNat 64 (5 + 2 ^ 7), 0, 64, 64, 0, 0, 0⟩
def fromHost : Packet := ⟨BitVec.ofNat 64 (5 + 2 ^ 4 + 2 ^ 5), 64, 0, 64, 0, 0, 0⟩
/-- Four bytes accumulated. -/
def accum0 : Packet := { packet0 2 with len := 4 }

theorem witness_packets_run :
    ∀ k ∈ [packet0 0, packet0 1, toPlates, accum0, packet0 3, packet0 4, toHost, fromHost, flag0 false],
      (ring0 k (note0 .stream)).nextPacket 0 0 = some (0, k, some (note0 .stream)) ∧ validPacket .stream k = true ∧
        badLength k = false ∧ (k.flagEn = true → k.flagAddr.toNat % 8 = 0) ∧ (ring0 k (note0 .stream)).poison = [] := by
  decide +kernel

theorem witness_packet_kinds : toHost.length ≠ 0 ∧ toHost.dir = false ∧
    fromHost.dir = true ∧ fromHost.kind = 5 ∧ 6 < (packet0 7).kind ∧
    homesOf ((ring0 accum0 (note0 .stream)).ownOperands 0 accum0).dst = [0x200040, 0x200041, 0x200042, 0x200043] ∧
    (ring0 accum0 (note0 .stream)).loose = [] ∧ (ring0 accum0 (note0 .stream)).detLines = [] ∧
    oneKeyed (ring0 accum0 (note0 .stream)) = true ∧
    (∀ y ∈ platesOf ((ring0 toPlates (note0 .stream)).ownOperands 0 toPlates).dst, y.1 < 16 ∧ y.2 < 2 ^ 22) := by decide +kernel

/-- A packet in hand: its image, its stage, its source and its destination. -/
def active0 (n : Nat) (k : Packet) (o : PacketOrigin) (g : PacketStage) (src dst : List Place) : ActivePacket :=
  ⟨n, k, o, g, if g = .done then 1 else 0, src, dst, none, 7, 0⟩

/-- A copy whose operands pass and that waits for nothing, one whose source holds an uncorrectable word, and one behind a packet
that waits for bytes of the host where it reads. -/
theorem witness_packet_order :
    let s := ring0 (packet0 1) (note0 .stream)
    let x := s.ownOperands 0 (packet0 1)
    let a := active0 3 (packet0 1) .stream .checked x.src x.dst
    let bad := { s with poison := [0x200000 / 8] }
    let behind := queuex s fun q => { q with active := [active0 0 fromHost .stream .host [] [.home 0x200000 none]] }
    s.mustFollow 0 0 a = false ∧ s.alarm = 0 ∧ (homesOf x.src)[0]? = some 0x200000 ∧ (homesOf x.dst)[0]? = some 0x200040 ∧
    (packet0 1).dstSp = 0 ∧ (bad.mustFollow 0 0 a = false ∧ (bad.ownOperands 0 (packet0 1)).src[0]? = x.src[0]? ∧ 0x200000 / 8 ∈ bad.poison) ∧
    behind.mustFollow 0 0 a = true := by decide +kernel

/-- Cancelled, found not valid, of a wrong length, with a misaligned flag address. -/
theorem witness_packet_stops :
    (∀ n ∈ [{ note0 .stream with cancel := true }, { note0 .stream with valid := false }],
      (ring0 (packet0 1) n).nextPacket 0 0 = some (0, packet0 1, some n)) ∧
    (badLength { accum0 with len := 2 } = true ∧ (ring0 { accum0 with len := 2 } (note0 .stream)).nextPacket 0 0 =
      some (0, { accum0 with len := 2 }, some (note0 .stream))) ∧
    badLength { flag0 false with flagAddr := 4 } = false ∧ ({ flag0 false with flagAddr := 4 } : Packet).flagEn = true ∧
    ({ flag0 false with flagAddr := 4 } : Packet).flagAddr.toNat % 8 ≠ 0 ∧
    (ring0 { flag0 false with flagAddr := 4 } (note0 .stream)).nextPacket 0 0 =
      some (0, { flag0 false with flagAddr := 4 }, some (note0 .stream)) := by decide +kernel

/-- Posted: 64 bytes copied, four accumulated, and a flag, into the LAND window; the same into an absent window. -/
def posted0 (k : Packet) (win : Nat) : Packet :=
  { k with ctl := k.ctl ||| BitVec.ofNat 64 (if k.kind = 6 then win * 2 ^ 26 else win * 2 ^ 22) }
/-- Whether the receiver's check passes. -/
def checks0 (s : State) (k : Packet) : Bool :=
  match (s.checkOperands 0 .posted k).2 with
  | .ok _ => true
  | .error _ => false

theorem witness_posted_packets :
    ∀ k ∈ [packet0 3, { packet0 4 with len := 4 }, flag0 true], ∀ win ∈ [4, 5],
      let s := ring0 (posted0 k win) (note0 .posted)
      let s1 := ((s.visitRing 0 0 0).serve 0 0).pushActive 0 0 (ActivePacket.fresh 0 (posted0 k win) (some (note0 .posted)))
      s.nextPacket 0 0 = some (0, posted0 k win, some (note0 .posted)) ∧ validPacket .posted (posted0 k win) = true ∧
      badLength (posted0 k win) = false ∧ ((posted0 k win).flagEn = true → (posted0 k win).flagAddr.toNat % 8 = 0) ∧
      (s.queue 0 0).active = [] ∧ s.taskOf 0 ≠ none ∧ oneKeyed s = true ∧ checks0 s1 (posted0 k win) = (win == 4) := by decide +kernel

/-- One that lies in a task's windows, with no task. -/
theorem witness_posted_waits :
    let s := { ring0 (posted0 (packet0 3) 4) (note0 .posted) with stream := { w.stream with task := none } }
    s.nextPacket 0 0 = some (0, posted0 (packet0 3) 4, some (note0 .posted)) ∧ needsTask .posted (posted0 (packet0 3) 4) = true ∧
      s.taskOf 0 = none := by decide +kernel

/-- Packets that go on: the stream's copy to home memory and to plates, its accumulate, its copies to and from the host, its flag; a
posted copy whose bytes have come; one that reads what an earlier one has still to write. -/
def homes0 (a n : Nat) : List Place := (List.range n).map fun j => .home (a + j) none
def goesOn (a : ActivePacket) (n : RingNote) : State :=
  queuex (ring0 a.pkt n) fun q => { q with active := [active0 0 (packet0 0) .stream .done [] [], a], readIdx := 2 }

theorem witness_packets_go_on :
    (∀ a ∈ [active0 1 (packet0 1) .stream .checked (homes0 0x200000 64) (homes0 0x200040 64),
        active0 1 toPlates .stream .checked (homes0 0x200000 64) (platePlaces 4194304 0 64),
        active0 1 accum0 .stream .checked (homes0 0x200000 4) (homes0 0x200040 4),
        active0 1 toHost .stream .checked (homes0 0x200000 64) [], active0 1 fromHost .stream .checked [] (homes0 0x200040 64),
        active0 1 (flag0 false) .stream .checked [] [], active0 1 (packet0 3) .posted .pulling [] (homes0 0x600000 64)],
      ∀ n ∈ [{ note0 a.origin with idx := 1, data := List.replicate 64 0 }],
      let s := goesOn a n
      (s.queue 0 0).active = [active0 0 (packet0 0) .stream .done [] []] ++ a :: [] ∧
      ((s.queue 0 0).notes.find? fun y => y.idx == a.idx) = some n ∧ n.cancel = false ∧ n.bad = [] ∧ a.pkt.length ≤ n.data.length ∧
      s.mustFollow 0 0 a = false ∧ s.alarm = 0 ∧ s.loose = [] ∧ s.staged = [] ∧ s.detLines = [] ∧ s.poison = [] ∧ oneKeyed s = true ∧
      (a.pkt.kind ≠ 5 ∨ a.pkt.length ≠ 0) ∧ (homesOf a.dst).Nodup ∧ (a.origin = .stream ∨ ∀ c ∈ homesOf a.dst, s.treatment c = .direct) ∧
      ((a.src ++ a.dst).all fun | .home _ k => k.isNone | .plate _ _ => true) = true ∧
      (∀ y ∈ platesOf a.dst, y.1 < 16 ∧ y.2 < 2 ^ 22)) ∧
    (let y := active0 1 (packet0 1) .stream .checked (homes0 0x200000 64) (homes0 0x200040 64)
     let a := active0 2 (packet0 1) .stream .checked (homes0 0x200040 64) (homes0 0x200080 64)
     y.idx < a.idx ∧ y.stage ≠ .done ∧ y.stage ≠ .read ∧ 0x200040 ∈ homesOf a.src ∧ 0x200040 ∈ homesOf y.dst) := by decide +kernel

theorem witness_host_completion :
    (∀ o ∈ [PacketOrigin.stream, .host], let a := active0 0 fromHost o .host [] (homes0 0x600000 64)
      let s := queuex (wq 1 0) fun q => { q with active := [a] }
      (s.queue 0 0).active = [] ++ a :: [] ∧ a.stage = .host ∧ a.origin = o ∧ s.alarm = 0 ∧ platesOf a.dst = [] ∧ (homesOf a.dst).Nodup ∧
        (∀ c ∈ homesOf a.dst, s.treatment c = .direct)) ∧
    ({ w with alarm := 1 } : State).alarm ≠ 0 := by decide +kernel

/-- A settled packet at DONEID; one whose accumulate still waits; the bytes a retirement writes lie in no page table. -/
theorem witness_retirement :
    (∀ o ∈ [PacketOrigin.stream, .posted], let a := active0 0 (packet0 1) o .done [] []
      let s := queuex (wq 1 0) fun q => { q with active := [a] }
      s.copyView 0 0 = some ⟨0, 1, 0, 0x1000, 16⟩ ∧ (s.queue 0 0).active = [] ++ a :: [] ∧ a.idx = 0 ∧ s.settled 0 0 a = true ∧
        s.flagLands a = true ∧ a.origin = o ∧ s.holder = some 0 ∧ a.dim < 14 ∧ oneKeyed s = true ∧ a.pkt.flagEn = false ∧
        (∀ w ∈ storedBytes 0x431038 8 a.status.toNat ++ storedBytes 0x430008 8 (a.idx + 1), ∀ j ∈ List.range 8,
          ∀ va ∈ [0x1038 + j, 8 + j], ∀ e ∈ s.walkTrace (s.pt 0).bind.root.toNat va, w.1 < e.1 ∨ e.1 + 8 ≤ w.1)) ∧
    (let a := active0 0 (packet0 2) .stream .done [] []
     let s := { queuex (wq 1 0) fun q => { q with active := [a] } with heldAccs := [⟨0, false, 0, 0, 0, 0, 0x200040, 1, none⟩] }
     s.settled 0 0 a = false) := by decide +kernel

theorem witness_retirement_pages :
    let s := queuex (wq 1 0) fun q => { q with active := [active0 0 (packet0 1) .stream .done [] []] }
    PagesAt s 0 ((⟨0, 1, 0, 0x1000, 16⟩ : QueueView).slot 0 + 56) 8 0x431038 ∧ PagesAt s 0 (0 + 8) 8 0x430008 := by
  unfold PagesAt
  decide +kernel

/-! ### Witnesses: task queues, dispatch, graphs -/

/-- Partition 0 idle, the stream free, an entry of the task queue in slot 0, and more words of home memory. -/
def entry1 (words : List Nat) (more : List (Nat × Nat)) (f : Partition → Partition) : State :=
  put (words.mapIdx (fun k x => (0x432000 + 8 * k, x)) ++ more)
    (let s := { wq 0 0 with holder := none, stream := Stream.cleared }
     { s with parts := s.parts.set 0 (f { s.parts[0] with disp := .idle }) })

theorem witness_entries : (∀ k ∈ [0, 3, 15], let s := entry1 [k] [] id
      s.entryOf 0 (fun n => n == k) = some (0, [k, 0, 0, 0, 0, 0, 0, 0]) ∧ s.taskView 0 = some ⟨0x800, 0, 0, 0x2000, 16⟩ ∧
        (s.pt 0).tqPosted = [] ∧ (s.pt 0).tqRetired = [] ∧ oneKeyed s = true ∧
        (s.taskView 0).map (·.done) = some 0) ∧
    (let s := put [(0x432040, 2 ^ 4 + 2 * 2 ^ 5), (0x432050, 3)] (entry1 [0] [] fun t => { t with tqRead := 1 })
     s.nextFanout 0 = some (1, [80, 0, 3, 0, 0, 0, 0, 0]) ∧ oneKeyed s = true ∧ min (entryLevel [80]) (popCount 14 3) = 2) := by decide +kernel

/-- The entry after one that has not retired; where DONEID lies. -/
theorem witness_later_entry :
    (let s := put [(0x432040, 3)] (entry1 [1] [] fun t => { t with tqRead := 1 })
     s.entryOf 0 (fun k => decide (3 ≤ k)) = some (1, [3, 0, 0, 0, 0, 0, 0, 0]) ∧ s.taskView 0 = some ⟨0x800, 0, 0, 0x2000, 16⟩ ∧
       0 < 1 ∧ 0 ∉ (s.pt 0).tqRetired) ∧
    PagesAt (entry1 [0] [] id) 0 (0x800 + 8) 8 0x430808 := by
  unfold PagesAt
  decide +kernel

/-- A descriptor at 0x3000: version 1.0, code of 64 bytes at 0x8000, one point, no window. -/
def desc0 : List (Nat × Nat) :=
  [(0x433000, 0x100), (0x433008, 0x8000), (0x433010, 0x8000), (0x433018, 64), (0x433028, 0x4000), (0x433020, 1 + 2 ^ 21 + 2 ^ 42)]
/-- A TASK entry that names it. -/
def launch0 : State := entry1 [1, 0x3000] desc0 id
def dispatching0 : Dispatching := ⟨0, 0x3000, 0, 0, none⟩
def okUnit (x : Except Stop Unit) : Bool :=
  match x with
  | .ok _ => true
  | .error _ => false
/-- What dispatch reads of it passes the checks, and names the code alone. -/
def passes0 (x : Except Stop Task) : Bool :=
  match x with
  | .ok t => okUnit (launch0.checkLaunch t) && okUnit t.checkWindows && !t.flag 16 && t.codeBase == 0x8000 && t.codeLen == 64 &&
      t.windows.all fun w => w.len == 0
  | .error _ => false
/-- The entry passed. -/
def taken0 : State := launch0.passEntry 0 0

theorem witness_entry : launch0.holder ≠ some 0 ∧ (launch0.pt 0).disp = .idle ∧
    launch0.entryOf 0 (· == 1) = some (0, [1, 0x3000, 0, 0, 0, 0, 0, 0]) ∧ (launch0.pt 0).unbinding = false := by decide +kernel

/-- Nothing hides or garbles a byte of home memory from a walk's reader. -/
theorem merged_byte (k : Option Nat) (a : Nat) : taken0.mergedBy k a = taken0.byte a := by
  have st : taken0.staged = [] ∧ taken0.loose = [] ∧ taken0.lineKeys = [] := by decide +kernel
  have lk : taken0.lineSlot (a / 128) = 0 := by unfold State.lineSlot; rw [st.2.2]; rfl
  simp [State.mergedBy, State.stagedByte, State.seenBy, State.writesTo, State.pick, State.readByte, State.wrongSlot, lk, st.1, st.2.1]
theorem word_bytes (a : Nat) : taken0.word64 a = ofBytes ((List.range 8).map fun k => taken0.byte (a + k)) := by
  unfold State.word64 State.mergedBytes State.merged
  simp only [merged_byte]

/-- The first page lies at 0x43_0000. -/
theorem walk_page0 (va : Nat) (h : va < 65536) : taken0.walkPart 0 va true false = .ok (0x430000 + va) 1 false := by
  have e : ∀ n k, 2 ^ 16 ≤ 2 ^ n → bits va n k = 0 := by
    intro n k hn
    unfold bits
    rw [Nat.div_eq_of_lt (by omega)]; exact Nat.zero_mod _
  have e0 : bits va 0 16 = va := by unfold bits; omega
  have r : (taken0.pt 0).bind.root.toNat = 0x400000 := by decide +kernel
  have w0 : taken0.word64 (0x400000 + 8 * 0) = 0x410001 := by rw [word_bytes]; decide +kernel
  have w1 : taken0.word64 (0x410000 + 8 * 0) = 0x420001 := by rw [word_bytes]; decide +kernel
  have w2 : taken0.word64 (0x420000 + 8 * 0) = 0x430017 := by rw [word_bytes]; decide +kernel
  have p : taken0.poison = [] ∧ taken0.poisonTables = [] := by decide +kernel
  have k : taken0.keyOk (taken0.pt 0).bind.tenant (bits 0x430017 4 10) va = true := by
    unfold State.keyOk; rw [if_neg (by decide)]; decide +kernel
  have d1 : bits 0x410001 16 20 * 2 ^ 16 = 0x410000 := by decide
  have d2 : bits 0x420001 5 31 * 2 ^ 5 = 0x420000 := by decide
  have d3 : bits 0x430017 16 20 * 2 ^ 16 = 0x430000 := by decide
  have d4 : bit 0x420001 1 = false := by decide
  unfold State.walkPart State.walk State.tablePoisoned State.poisoned
  rw [r, p.1, p.2, e 36 12 (by decide), e 23 13 (by decide), e 16 7 (by decide), e0, w0]
  rw [if_neg (by decide)]
  dsimp only
  rw [d1, w1, d2, d4, if_neg (by decide), if_neg (by decide), if_neg (by decide)]
  rw [if_neg Bool.false_ne_true, w2, k, d3]
  rw [if_neg (by decide), if_neg (by decide), if_neg (by decide), if_neg (by decide)]
  rfl

theorem fetch_page0 : taken0.fetch 0 = fun va n => if va + n ≤ 65536 then
    .ok ((List.range n).map fun k => taken0.byte (0x430000 + va + k)) else taken0.fetch 0 va n := by
  funext va n
  by_cases h : va + n ≤ 65536
  · rw [if_pos h]
    have v : taken0.vread 0 va n = some ((List.range n).map fun k => taken0.byte (0x430000 + va + k)) := by
      unfold State.vread
      have : ∀ l : List Nat, (∀ k ∈ l, va + k < 65536) → (l.mapM fun k => taken0.vbyte 0 (va + k)) =
          some (l.map fun k => taken0.byte (0x430000 + va + k)) := by
        intro l hl
        induction l with
        | nil => rfl
        | cons k l ih =>
          have hv : taken0.vbyte 0 (va + k) = some (taken0.byte (0x430000 + va + k)) := by
            unfold State.vbyte; rw [walk_page0 _ (hl k (by simp))]; simp [merged_byte, Nat.add_assoc]
          rw [List.mapM_cons, hv, ih fun x hx => hl x (by simp [hx])]
          rfl
      exact this _ fun k hk => by have := List.mem_range.mp hk; omega
    unfold State.fetch
    rw [if_neg (by omega), v]
    by_cases hn : n = 0
    · subst hn; rfl
    · have hp : pageStarts va n = [va] := by
        unfold pageStarts
        rw [if_neg hn, Nat.div_eq_of_lt (a := va + n - 1) (by omega), Nat.div_eq_of_lt (a := va) (by omega)]
        simp
      rw [hp]
      simp [walk_page0 va (by omega)]
  · rw [if_neg h]

theorem witness_dispatch : passes0 (taken0.readTask 0 dispatching0) = true := by
  unfold State.readTask
  rw [fetch_page0]
  decide +kernel

/-- Translation, in the state that the reads have left, finds the extent of the code. -/
def extents0 (x : Except Stop Task) (v : State) : Bool :=
  match x with
  | .ok t => match v.translate 0 { t with tstart := launch0.gtime, seq := 0 } with
    | .ok l => l == [⟨16, 0, 67, 1, 1⟩]
    | .error _ => false
  | .error _ => false

theorem witness_translation : extents0 (taken0.readTask 0 dispatching0) (taken0.visitTask 0 dispatching0) = true := by
  unfold State.readTask State.visitTask
  rw [fetch_page0]
  decide +kernel

/-- The stop of a descriptor that cannot be read; a ready task that may take the stream. -/
def stopOf (x : Except Stop Task) : Option Stop :=
  match x with
  | .ok _ => none
  | .error e => some e
def ready0 : State :=
  let s := entry1 [0] [] fun t => { t with disp := .ready }
  { s with
    shadow := s.shadow.set 0 (some stream0)
    slotTable := s.slotTable.set 0 { part0.bind with part := 0 } }

theorem witness_refusals_and_starts :
    (let s := entry1 [1, 0x100000] [] id
     (s.pt 0).disp = .idle ∧ s.entryOf 0 (· == 1) = some (0, [1, 0x100000, 0, 0, 0, 0, 0, 0]) ∧
       stopOf ((s.passEntry 0 0).readTask 0 ⟨0, 0x100000, 0, 0, none⟩) =
         some (.refuse 0x18 0 0x100000)) ∧
    ((ready0.pt 0).disp = .ready ∧ ready0.shadow[0] = some stream0 ∧ ready0.mayStart 0 = true ∧ ready0.holder ≠ some 0) := by
  decide +kernel

theorem witness_completing :
    let s := wx fun x => { x with status := .completing }
    let u := s.onStream fun x => { x with wait := some .closed }
    (s.holder = some 0 ∧ s.stream.status = .completing ∧ s.stream.preempt = none ∧ s.stream.wait = none ∧
      s.accessesDone 0 = true ∧ (s.pt 0).exchanging = false) ∧
    (u.stream.wait = some .closed ∧ u.allOver 0 = true ∧ (u.pt 0).unbinding = false ∧ u.stream.task ≠ none) := by decide +kernel

/-- A task of entry 0 that is all over, whose record goes to the start of its space. -/
def over0 : State := (wq 1 0).onStream fun x => { x with status := .completing, wait := some .closed }
theorem witness_completion_record :
    over0.holder = some 0 ∧ over0.stream.preempt = none ∧ over0.allOver 0 = true ∧ (over0.pt 0).unbinding = false ∧ over0.stream.task ≠ none ∧
    over0.taskView 0 = some ⟨0x800, 1, 0, 0x2000, 16⟩ ∧ (over0.pt 0).graphs = [] ∧ (over0.pt 0).empties = [] ∧ (over0.pt 0).tqPosted = [] ∧
    over0.stream.theTask.rep = .none ∧ over0.stream.theTask.crec = 0 ∧ over0.stream.theTask.entryId = 0 ∧ (over0.pt 0).tqRetired = [] ∧
    oneKeyed over0 = true ∧ (∀ j, j < 24 → over0.vphys 0 (0x800 + j) true false = some (0x430800 + j)) ∧
    (∀ va ∈ (List.range 64).map (0 + ·) ++ (List.range 24).map (0x800 + ·), ∀ e ∈ over0.walkTrace (over0.pt 0).bind.root.toNat va,
      e.1 + 8 ≤ 0x430000 ∨ 0x430000 + 64 ≤ e.1) := by decide +kernel
theorem witness_completion_pages : PagesAt over0 0 0 64 0x430000 ∧ PagesAt over0 0 (0x800 + 8) 8 (0x430800 + 8) := by
  unfold PagesAt
  decide +kernel

/-- A walk that stands at node 0, whose nodes lie at 0x5000. -/
def walk0 : GraphWalk := ⟨0, 0, 0, 0, 0, [(0, 0)], [], 0, 0, true, none, none⟩
def graph0 (node : List Nat) (nodes : BitVec 16) : State :=
  entry1 [0] (node.mapIdx fun k x => (0x435000 + 8 * k, x)) fun t =>
    { t with graphs := [walk0], bind := { t.bind with graph := 0x5000, nodes := nodes } }
def nodeOf0 (x : GraphNode) : List Nat := [x.type + x.nin * 2 ^ 8 + x.s0 * 2 ^ 16 + x.s1 * 2 ^ 32, x.addr, x.limit, x.state]

theorem witness_graphs :
    (entry1 [2, 1] [] id).entryOf 0 (· == 2) = some (0, [2, 1, 0, 0, 0, 0, 0, 0]) ∧ walk0.over = false ∧
    (let x : GraphNode := ⟨0, 0, 1, 0xFFFF, 0x3000, 0, 0⟩
     let s := graph0 (nodeOf0 x) 2
     s.findVisit 0 (Visit.isType 0) = some (walk0, .node 0 x) ∧ s.taskView 0 = some ⟨0x800, 0, 0, 0x2000, 16⟩) ∧
    (let x : GraphNode := ⟨1, 0, 1, 0xFFFF, 0x6000, 0, 0⟩
     let s := graph0 (nodeOf0 x) 2
     s.findVisit 0 (Visit.isType 1) = some (walk0, .node 0 x) ∧ s.vread64 0 x.addr = some 0 ∧ s.vread64 0 0x10000 = none) ∧
    (∀ l ∈ [0, 1], let x : GraphNode := ⟨2, 0, 1, 0xFFFF, 0x6000, l, l⟩
      let s := put [(0x436000, 1)] (graph0 (nodeOf0 x) 2)
      s.findVisit 0 (Visit.isType 2) = some (walk0, .node 0 x) ∧ s.vread64 0 x.addr = some 1) ∧
    (∀ k ∈ [0, 1], let x : GraphNode := ⟨3, 2, 1, 0xFFFF, 0, 0, k⟩
      (graph0 (nodeOf0 x) 2).findVisit 0 (Visit.isType 3) = some (walk0, .node 0 x)) ∧
    (let x : GraphNode := ⟨4, 0, 0, 0, 0, 0, 0⟩
     (graph0 (nodeOf0 x) 1).findVisit 0 Visit.isLast = some (walk0, .node 0 x)) ∧
    (graph0 [] 0).findVisit 0 Visit.isLast = some (walk0, .bad 0) ∧
    (let s := { (graph0 [] 0).onPart 0 fun t => { t with graphs := [{ walk0 with begun := false }] } with gtime := 7 }
     s.findVisit 0 Visit.isLast = some ({ walk0 with tstart := 7 }, .bad 0)) := by decide +kernel

/-- The STATE words of a graph of two nodes. -/
theorem witness_graph_states :
    let s := graph0 [] 2
    let at' := fun k => (s.pt 0).bind.graph.toNat + 32 * k + 24
    let pa := fun k => 0x435018 + 32 * k
    oneKeyed s = true ∧ (s.pt 0).empties = [] ∧ (s.pt 0).bind.nodes.toNat = 2 ∧ (∀ y ∈ (s.pt 0).graphs, y.over = false) ∧
    (∀ k, k < 2 → ∀ j, j < 8 → s.vphys 0 (at' k + j) false true = some (pa k + j)) ∧
    ∀ k, k < 2 → ∀ l, l < 2 → ∀ j, j < 8 → ∀ e ∈ s.walkTrace (s.pt 0).bind.root.toNat (at' k + j), e.1 + 8 ≤ pa l ∨ pa l + 8 ≤ e.1 := by
  decide +kernel

/-! ### Witnesses: binding, windows, pre-emption, aborts -/

/-- The record of partition 0, of job 7: a window open from 100 on for 50 in every 1,000. -/
def record0 : BindRecord := { part0.bind with start := 100, period := 1000, quantum := 50 }
def off0 : State := { State.reset with stage := 4 }
/-- Memory that holds the nine queue headers of partition 0. -/
def binds0 : State :=
  put (tables0 ++ (List.range 7).map fun c => (0x430050 + 64 * c, 0x0004000000003000 + 0x400 * c)) { off0 with keys := [⟨1, 5, 1⟩] }
def rooted0 : BindRecord := { record0 with root := 0x400000, tqhdr := 0x800 }

theorem witness_binding :
    (rooted0.valid = true ∧ bits rooted0.version.toNat 8 8 = 1 ∧ bits rooted0.hpver.toNat 8 8 = 1 ∧
      binds0.acceptsRecord 15 rooted0 = true ∧ (binds0.pt 0).unbinding = false ∧ (binds0.pt 0).bound = false ∧
      (∀ k : Fin 16, binds0.slotTable[k].valid = false) ∧ ∀ q : PartNo, (binds0.pt q).bound = false) ∧
    (bits (0x0200 : BitVec 16).toNat 8 8 ≠ 1 ∧ off0.mbxEvents.length < 256) ∧
    (let s := { off0 with parts := off0.parts.set 0 { part0 with disp := .idle } }
     (s.pt 0).bound = true ∧ (s.pt 0).unbinding = false ∧ (s.pt 0).disp = .idle ∧ ∀ q : PartNo, q ≠ 0 → (s.pt q).bound = false) ∧
    (w.holder = some 0 ∧ (w.pt 0).bound = true ∧ (w.pt 0).unbinding = false ∧ (w.pt 0).disp = .run ∧
      (∀ q : PartNo, q ≠ 0 → (w.pt q).bound = false) ∧ ∀ k : Fin 16, w.slotTable[k].valid = true → w.slotTable[k].part = 0) ∧
    (let s := { binds0 with parts := binds0.parts.set 0 { part0 with disp := .idle } }
     (s.pt 0).disp = .idle ∧ (s.pt 0).unbinding = false ∧ s.boundAs rooted0 = false ∧ s.acceptsRecord 15 rooted0 = true) := by
  decide +kernel

/-- At GTIME 100 the window opens, at 150 it closes. -/
def timed0 (s : State) (t : Nat) (seen gang : Bool) (p : PartNo) : State :=
  { s with
    gtime := BitVec.ofNat 64 t
    windows := s.windows.set 3 seen
    slotTable := s.slotTable.set 3 { record0 with gang := gang, part := p } }

theorem witness_windows :
    ((timed0 off0 100 false true 0).holder = none ∧ (timed0 off0 100 false true 0).opens 3 = true ∧
      (timed0 off0 149 false false 0).opens 3 = true ∧ (timed0 off0 149 false false 0).slotTable[3].gang = false) ∧
    (timed0 off0 150 true false 0).closes 3 = true ∧
    (let s := timed0 w 99 false true 1
     s.holder = some 0 ∧ s.stream.preempt = none ∧ s.stream.status ≠ .parked ∧ s.stream.status ≠ .aborting ∧ s.gangDue 3 = some 100 ∧ s.gangReady = none) ∧
    (let s := timed0 w 150 true true 0
     s.holder = some 0 ∧ s.closes 3 = true ∧ s.slotTable[3].gang = true ∧ s.slotTable[3].part = 0) ∧
    (let s := timed0 (wx fun x => { x with preempt := some 100 }) 100 false false 0
     s.holder = some 0 ∧ s.stream.status = .running ∧ s.stream.preempt = some 100 ∧ 100 ≤ s.gtime.toNat) := by decide +kernel

/-- A stream held at a wait point with a pre-emption pending. -/
def waits0 (stubs : List StubEntry) : State :=
  wx fun x => { x with preempt := some 9, hold := some .waitPoint, task := some { task0 with stubs := stubs } }

theorem witness_diverts :
    ((waits0 [⟨0, 64, 32⟩]).mayDivert = true ∧ (waits0 [⟨0, 64, 32⟩]).stream.status = .running ∧
      (waits0 [⟨0, 64, 32⟩]).stream.theTask.stubs = [] ++ ⟨0, 64, 32⟩ :: [] ∧ (waits0 []).stream.pc.toNat / 32 * 32 < 64) ∧
    ((waits0 [⟨32, 64, 32⟩]).mayDivert = true ∧ (waits0 [⟨32, 64, 32⟩]).stream.pc.toNat / 32 * 32 < 32) ∧
    (let s := (waits0 []).onStream fun x => { x with status := .completing }
     s.mayDivert = true ∧ s.stream.status = .completing) := by decide +kernel

/-- The partition alone in the slot table, parked. -/
def parked0 : State :=
  let s := timed0 w 100 true false 0
  { s with holder := none, stream := Stream.cleared, shadow := s.shadow.set 0 (some stream0), parts := s.parts.set 0 { part0 with disp := .parked } }

theorem witness_saves_contexts :
    (let s := wx fun x => { x with status := .parked }
     s.holder = some 0 ∧ s.stream.status = .parked ∧ s.matrix = [] ∧ s.onlyHeld 0 = true ∧
       s.siteSwap = false ∧ ({ s with siteSwap := true } : State).siteSwap = true) ∧
    parked0.mayRestore 0 = true ∧ parked0.shadow[0] = some stream0 ∧ (parked0.pt 0).heldBars = [] := by decide +kernel

/-- Trapped by number n. -/
def trapped0 (n : Nat) : State := w.takeTrap { num := n, slot := 3 }
/-- A task that is over but for its end. -/
def ending0 (why : AbortCause) : State :=
  let s := wx fun x => { x with status := .aborting, abort := some why, rqsafe := true }
  { s with parts := s.parts.set 0 { part0 with disp := .ending } }

theorem witness_traps_settle :
    ((trapped0 5).holder = some 0 ∧ (trapped0 5).stream.status = .trapped ∧ (trapped0 5).trapNumber ≠ 0x14 ∧
      (trapped0 5).trapNumber ≠ 0x16) ∧ ((trapped0 0x16).stream.status = .trapped ∧ (trapped0 0x16).trapNumber = 0x16) ∧
    (∀ why ∈ [AbortCause.kill 0x19 5 0, .deadline, .lazyFault 0x10000 0], (ending0 why).abortReady 0 = true ∧
      ((ending0 why).pt 0).unbinding = false ∧ (ending0 why).stream.task ≠ none ∧ (ending0 why).stream.abort = some why ∧
      (ending0 why).stream.requeues = true ∧ (ending0 why).stream.abort ≠ none) ∧
    (let s := (ending0 .deadline).onPart 0 fun t => { t with unbinding := true }
     s.abortReady 0 = true ∧ (s.pt 0).unbinding = true ∧ s.stream.task ≠ none ∧ s.stream.abort ≠ none) ∧
    (let s := queuex { ending0 .deadline with heldAccs := [⟨0, true, 1, 0, 0, 0, 0x200040, 1, none⟩] } fun q =>
      { q with notes := [note0 .stream], active := [active0 0 (packet0 2) .stream .done [] []] }
     s.abortReady 0 = true ∧ (s.pt 0).ownPackets = true) := by decide +kernel

/-- What a debugger may write: a scalar, a matrix descriptor, an accumulator cell, FLAGS. -/
theorem witness_debugger :
    let o : DebugWrites := { scalars := [(1, 7), (0, 9)], ms := [(3, 5)], cells := [(524287, 1)], flags := some 3, qs := [(0, none)], holdsC := [(0, none)], seed := some 5 }
    o.es.all (fun x => x.1 != 63) = true ∧ (trapped0 0x16).holder = some 0 := by decide +kernel

/-- The first page of window 0 is mapped, that of window 1 is not; the same with a leaf that allows no write, with its key slot
empty, with its entry of the leaf table uncorrectable. -/
def lazy0 (win va : Nat) : State :=
  (wq 0 0).onStream fun x => { x with
    hold := some (.lazyPage win va)
    task := some { task0 with windows := [⟨0x1000, 4096, .inout, true, false⟩, ⟨0x20000, 4096, .input, true, false⟩], extents := [] } }
theorem witness_lazy_pages :
    let s := lazy0 0 0x1000
    let u := lazy0 1 0x20000
    (s.stream.hold = some (.lazyPage 0 0x1000) ∧ (s.afterWalk 0 0x1000).walkPart 0 0x1000 true true = .ok 0x431000 1 false ∧
      (WinAttr.inout.needs = (true, true) ∧ addPage [] 0 0x1000 0x431000 1 false = some [⟨0, 0, 67, 1, 1⟩]) ∧ s.stream.task ≠ none) ∧
    ((u.afterWalk 0 0x20000).walkPart 0 0x20000 true false = .notMapped ∧ WinAttr.input.needs = (true, false)) ∧
    (let d := put [(0x420000, 0x430013)] s
     (d.afterWalk 0 0x1000).walkPart 0 0x1000 true true = .denied) ∧
    (let k := { s with keys := [] }
     (k.afterWalk 0 0x1000).walkPart 0 0x1000 true true = .key) ∧
    (let b := { s with poison := [0x420000 / 8] }
     (b.afterWalk 0 0x1000).walkPart 0 0x1000 true true = .poisoned) := by decide +kernel

/-! ### Witnesses: groups, steps, traps, time -/

/-- Bundle 0 holds the given words. -/
def code0 (words : List Nat) : State :=
  { State.reset.placeWord 0 with mem := Cells.setMany [] (words.zipIdx.flatMap fun x => bytesAt (0x10000 + 4 * x.2) 4 x.1) }

/-- sub s4, s3, s1 of slot 1, alone in its bundle. -/
theorem witness_issues : let s := code0 [0, 0x02418401]
    s.Issues ∧ s.atIssue.fetched.bundle (pcBundle s.stream.pc) = some [0, 0x02418401, 0, 0, 0, 0, 0, 0] ∧
      s.atIssue.poisonedCode = false ∧
      s.atIssue.fetched.interlocked (decodedOf (decodeGroup (groupWords [0, 0x02418401, 0, 0, 0, 0, 0, 0] 0))) = false ∧ (1, 0x02418401) ∈ groupWords [0, 0x02418401, 0, 0, 0, 0, 0, 0] 0 ∧
      (∀ x ∈ groupWords [0, 0x02418401, 0, 0, 0, 0, 0, 0] 0, x.1 ≠ 1 → isNop x.2 = true) ∧
      decodeSlot 1 0x02418401 = .ok (.sub ⟨4, 3, 1⟩) := by
  refine ⟨?_, ?_, ?_, ?_, ?_, ?_, rfl⟩
  · unfold State.Issues; decide +kernel
  all_goals decide +kernel

/-- What an instruction makes of a state. -/
def after (i : Instr) (s : State) : State :=
  match exec i s with
  | .next t => t
  | _ => s
theorem after_eq (i : Instr) (s : State) (h : ∃ t, exec i s = .next t) : exec i s = .next (after i s) := by
  obtain ⟨t, ht⟩ := h
  simp [after, ht]

/-- A TRAP stops the group, a SUB goes on, an UNSTUB leaves its stub. -/
theorem witness_issue_outcomes :
    let u := (code0 [0]).atIssue.fetched
    let v := u.onStream fun x => { x with stub := some stub0 }
    (∀ i ∈ [Instr.trap 256, .sub ⟨4, 3, 1⟩], exec i u = .next (after i u)) ∧ ¬Going (after (.trap 256) u) ∧
      Going (after (.sub ⟨4, 3, 1⟩) u) ∧ u.stream.stub = none ∧ exec .unstub v = .next (after .unstub v) ∧
      v.stream.stub ≠ none ∧ (after .unstub v).stream.stub = none ∧ Going (after .unstub v) := by
  refine ⟨?_, ?_, ?_, ?_, after_eq _ _ ⟨_, rfl⟩, ?_, ?_, ?_⟩
  · intro i hi
    simp only [List.mem_cons, List.not_mem_nil, or_false] at hi
    rcases hi with rfl | rfl <;> exact after_eq _ _ ⟨_, rfl⟩
  all_goals first | decide +kernel | (unfold Going; decide +kernel)

/-- loopi i0, 4, 4 and sub s4, s3, s1 with the stop bit: two words that go on. -/
theorem witness_two_words :
    let u := (code0 [0x12001004, 0x82418401]).atIssue.fetched
    let l : List (Nat × Instr) := [(0, .loopi ⟨0, 4, 4⟩), (1, .sub ⟨4, 3, 1⟩)]
    groupWords [0x12001004, 0x82418401, 0, 0, 0, 0, 0, 0] 0 = [(0, 0x12001004), (1, 0x82418401)] ∧
      decodeSlot 0 0x12001004 = .ok (.loopi ⟨0, 4, 4⟩) ∧ decodeSlot 1 0x82418401 = .ok (.sub ⟨4, 3, 1⟩) ∧ conflictSlot l = none ∧
      ∀ x ∈ l, exec x.2 u = .next (after x.2 u) ∧ Going (after x.2 u) := by
  refine ⟨by decide, rfl, rfl, by decide, ?_⟩
  intro x hx
  simp only [List.mem_cons, List.not_mem_nil, or_false] at hx
  rcases hx with rfl | rfl <;> exact ⟨after_eq _ _ ⟨_, rfl⟩, by unfold Going; decide +kernel⟩

/-- A pc past the code; an illegal word; a routine's word in slot 6; two writes of s4; a word that traps, beside one that does not. -/
theorem witness_group_traps :
    (let s := (code0 []).onStream fun x => { x with pc := 64 }
     s.Issues ∧ s.atIssue.fetched.bundle (pcBundle s.stream.pc) = none) ∧
    (decodeSlot 0 0x7FFFFFFF = .error .illegal ∧ decodeSlot 6 0x02219001 = .error .calibre) ∧
    conflictSlot [(0, .mfc ⟨4, 4⟩), (1, .sub ⟨4, 3, 1⟩)] = some 0 ∧
    (let u := (code0 []).atIssue
     (after (.trap 256) u).stream.status = .trapped ∧ (after (.trap 256) u).trapNumber ≠ 1 ∧ (after (.trap 256) u).trapNumber ≠ 3 ∧
       (after (.sub ⟨4, 3, 1⟩) u).stream.status ≠ .trapped) := by
  refine ⟨⟨?_, ?_⟩, ⟨rfl, rfl⟩, ?_, ?_⟩
  · unfold State.Issues; decide +kernel
  all_goals decide +kernel

def refuses0 (d : Decoded) : Option DecodeErr :=
  match d with
  | .ok _ => none
  | .error e => some e

/-- A word of a bad calibre whose operand comes from a latch, which is empty or full; one that names a register for which an atomic is
still to bring the word; a group whose second word waits for its barrier. -/
theorem witness_group_waits :
    (refuses0 (decodeSlot 6 (encode (.mma ⟨0, 5, 3, .f32, .c1, .held false, false, false⟩) ||| 0x1E0)) = some .calibreHeld ∧ w.latchEmpty 6 = true ∧
      (wx fun x => { x with latchC := #v[some 1, none] }).latchEmpty 6 = false) ∧
    (let u := { w with atoms := [⟨0, w.part, .add, .i32, 0x200000, 1, some (.scalar 4)⟩] }
     u.owes (.s 4) = true ∧ u.interlocked [(1, .sub ⟨4, 3, 1⟩)] = true ∧ conflictSlot [(1, .sub ⟨4, 3, 1⟩)] = none ∧
       slotTrap u 0 (1, .ok (.sub ⟨4, 3, 1⟩)) = none ∧ slotTrap u 1 (1, .ok (.sub ⟨4, 3, 1⟩)) = none) ∧
    (let u := wx fun x => { x with bars := x.bars.set 1 ⟨1, 2⟩ }
     decodedOf [(0, .ok (.bwait ⟨1, false⟩)), (1, .ok (.sub ⟨4, 3, 1⟩))] = [] ++ (0, .bwait ⟨1, false⟩) :: [(1, .sub ⟨4, 3, 1⟩)] ∧
       exec (.bwait ⟨1, false⟩) u = .next (after (.bwait ⟨1, false⟩) u) ∧ (after (.bwait ⟨1, false⟩) u).stream.status ≠ .trapped ∧
       (after (.bwait ⟨1, false⟩) u).stream.hold ≠ none) := by
  refine ⟨?_, ?_, ⟨rfl, after_eq _ _ ⟨_, rfl⟩, ?_, ?_⟩⟩ <;> decide +kernel

theorem witness_acts :
    (let s := { w with agenda := [.thermalCap] }
     s.agenda = .thermalCap :: [] ∧ s.powered = true ∧ s.alarm.val < 2) ∧
    (let s := { w with agenda := [.thermalCap], powered := false }
     s.agenda = .thermalCap :: [] ∧ s.powered = false ∧ Instr.thermalCap ≠ .powerGood) ∧
    (∀ i ∈ [Instr.powerLoss, .powerGood], metInHalt i = true) ∧ metInHalt (.matrixComplete) = false ∧
    (2 ≤ ({ w with alarm := 2 } : State).alarm.val ∧ ({ w with alarm := 2 } : State).agenda.head? = none) ∧
    (let s := timed0 off0 100 false false 0
     s.agenda = [] ∧ s.alarm.val < 2 ∧ s.dueNow.head? = some (.windowOpen 3)) ∧
    (let s := slot0 (xop0 .matched)
     s.agenda = [] ∧ s.dueNow = [] ∧ s.enabled ≠ []) ∧
    (State.reset.agenda = [] ∧ State.reset.dueNow = [] ∧ State.reset.enabled = [] ∧ State.reset.canIssue = false) := by decide +kernel

/-- The largest values of the fields; each kind of pending target. -/
theorem witness_trap_record : (255 < 256 ∧ 7 < 8 ∧ 15 < 16 ∧ 4095 < 4096 ∧ 2 ^ 64 - 1 < 2 ^ 64) ∧ w.mbxEvents.length < 256 ∧
    w.stream.loops.length ≤ 6 ∧ w.stream.pend = none ∧ (wx fun x => { x with pend := some (.branch 32) }).stream.pend = some (.branch 32) ∧
    (wx fun x => { x with pend := some (.call 32) }).stream.pend = some (.call 32) ∧
    (wx fun x => { x with pend := some (.skip 32) }).stream.pend = some (.skip 32) ∧
    (wx fun x => { x with pend := some .done }).stream.pend = some .done := by decide +kernel

/-- trap 256 in slot 0. -/
theorem witness_precise : decodeSlot 0 (encode (.trap 256)) = .ok (.trap 256) ∧ w.stream.status ≠ .trapped ∧
    exec (.trap 256) w = .next (after (.trap 256) w) ∧ (after (.trap 256) w).stream.status = .trapped := by
  refine ⟨rfl, ?_, after_eq _ _ ⟨_, rfl⟩, ?_⟩ <;> decide +kernel

theorem witness_gtime :
    (let s := { State.reset with stage := 3, mbxArgs := #v[5, 0, 0, 0] }
     exec (.settime 0) s = .next (after (.settime 0) s) ∧ (after (.settime 0) s).gtime ≠ s.gtime) ∧
    (let s := { w with gtime := 5 }
     exec .powerLoss s = .next (after .powerLoss s) ∧ (after .powerLoss s).gtime ≠ s.gtime) ∧
    (∃ t, step State.reset = .next t) ∧ State.reset.slewCredit < 20000 := by
  refine ⟨⟨after_eq _ _ ⟨_, rfl⟩, ?_⟩, ⟨after_eq _ _ ⟨_, rfl⟩, ?_⟩, ⟨_, rfl⟩, ?_⟩ <;> decide +kernel

theorem witness_isolation : decodeSlot 1 0x02418401 = .ok (.sub ⟨4, 3, 1⟩) ∧ w.holder = some 0 ∧
    exec (.sub ⟨4, 3, 1⟩) w = .next (after (.sub ⟨4, 3, 1⟩) w) := ⟨rfl, by decide +kernel, after_eq _ _ ⟨_, rfl⟩⟩

theorem witness_canonical : w.Canonical ∧ ∃ t, step w = .next t := by
  refine ⟨⟨?_, ?_⟩, ⟨_, rfl⟩⟩ <;> decide +kernel

theorem witness_encodings : Instr.wf (.sub ⟨31, 31, 31⟩) = true ∧ slotOf (.sub ⟨31, 31, 31⟩) = some 1 ∧ 1 < 8 ∧
    0x02418401 < 2 ^ 32 ∧ decodeSlot 1 0x02418401 = .ok (.sub ⟨4, 3, 1⟩) := by
  refine ⟨?_, ?_, ?_, ?_, rfl⟩ <;> decide

/-! ### Witnesses: rules stated whole -/

/-- The opcodes' words at the ends of their fields. -/
theorem witness_stated_words :
    (field 0x08000000 25 6 = 4 ∧ field 0x08000000 0 5 = 0 ∧ field 0x0800001F 0 5 ≠ 0) ∧
    (field 0x10000001 25 6 = 8 ∧ field 0x10000001 22 3 < 6 ∧ field 0x10000001 10 7 = 0 ∧ field 0x10000001 0 10 ≠ 0) ∧
    (field 0x11800001 25 6 = 8 ∧ 6 ≤ field 0x11800001 22 3 ∧ field 0x10000400 10 7 ≠ 0 ∧ field 0x10000000 0 10 = 0) ∧
    (field 0x137FFFFF 25 6 = 9 ∧ field 0x137FFFFF 22 3 = 5 ∧ field 0x13BFFFFF 22 3 = 6) ∧
    (field 0x5C000000 25 6 = 0x2E ∧ field 0x5C000400 10 5 ≠ 0 ∧ field 0x5C000010 4 3 ≠ 0 ∧ field 0x54000000 25 6 = 0x2A ∧
      field 0x58000040 25 6 = 0x2C ∧ field 0x58000040 4 3 = 4 ∧ field 0x58000000 4 3 ≠ 4 ∧ field 0x56000000 25 6 = 0x2B) := by decide

theorem witness_stated_decodes :
    (∃ i, decodeSlot 2 0x5C000000 = .ok i) ∧ (∃ i, decodeSlot 3 0x54000000 = .ok i) ∧ (∃ i, decodeSlot 2 0x58000040 = .ok i) ∧
      (∃ i, decodeSlot 2 0x56000000 = .ok i) ∧ typeAt 0x56000000 ∈ [ElemType.f32, .i32, .n32] := by
  refine ⟨⟨_, rfl⟩, ⟨_, rfl⟩, ⟨_, rfl⟩, ⟨_, rfl⟩, ?_⟩
  decide

theorem witness_stated_states : (∀ e ∈ w.stream.loops, e.idx ≠ 5) ∧ w.stream.loops.length < 6 ∧ ((w.sreg 4).truncate 32 : Word) ≠ 0 ∧
    ReadyV false .off w ∧ Going w ∧ w.matrixFull = false ∧ tileOk .f32 3 = true := by
  refine ⟨?_, ?_, ?_, (fun _ h => nomatch h), ?_, ?_, ?_⟩
  · decide +kernel
  · decide +kernel
  · decide +kernel
  · unfold Going; decide +kernel
  · decide +kernel
  · decide +kernel

/-! ### Witnesses: numbers and matrix operands -/

def finite0 (v : FVal) : Bool :=
  match v with
  | .fin _ _ _ => true
  | _ => false
theorem witness_finite {f : Fmt} {a : Nat} (h : finite0 (f.decode a) = true) : (f.decode a).IsFin := by
  revert h
  cases hx : f.decode a with
  | fin n m e => exact fun _ => ⟨n, m, e, rfl⟩
  | nan q => exact fun h => nomatch h
  | inf n => exact fun h => nomatch h

/-- 1, 1.5 and 0.5 of F32 are finite, 0 and infinity and the NaNs are what the clauses name. -/
theorem witness_values : fmtF32 ∈ floatFormats ∧ (fmtF32.decode 0x3F800000).IsFin ∧ (fmtF32.decode 0x3FC00000).IsFin ∧
    (fmtF32.decode 0x3F000000).IsFin ∧ (fmtF32.decode 0).IsFin ∧ fmtF32.decode 0x7F800000 = .inf false ∧
    fmtF32.decode 0xFF800000 = .inf true ∧ fmtF32.decode 0x7FC00000 = .nan false ∧ fmtF32.decode 0x7F800001 = .nan true ∧
    0x7F800001 < 2 ^ fmtF32.width ∧ 65535 < 65536 :=
  ⟨by decide, witness_finite (by decide), witness_finite (by decide), witness_finite (by decide), witness_finite (by decide),
    by decide, by decide, by decide, by decide, by decide, by decide⟩
theorem witness_signs : (fmtF32.decode 0x3F800000).rat ≠ 0 ∧ (fmtF32.decode 0).rat = 0 ∧ (fmtF32.decode 0xBF800000).rat < 0 ∧
    0 < (fmtF32.decode 0x3F800000).rat := by decide +kernel

/-- The ends of an element's ranges: the format, its scale, its position in a step. -/
theorem witness_elements : mFmt 0 = some fmtBf16 ∧ mFmt 6 = some fmtE2m1 ∧ (∀ g : Geo, g.afmt = 2 → g.bfmt = 2 → g.steps = 1 →
    mStep g.bfmt = mStep g.afmt ∧ 31 < mStep g.afmt * g.steps) := by
  refine ⟨rfl, rfl, ?_⟩
  intro g ha hb hs
  rw [ha, hb, hs]
  decide

/-- Two products of a cell, in order; a term, and a power of two about the largest; finite lists, with a NaN, with both infinities. -/
theorem witness_cells :
    (let col : List (Nat × FVal × Flags) := [(0, .fin false 1 0, 0), (17, .fin false 1 0, 0)]
     (col.map (·.1)).Pairwise (· < ·) ∧ ∀ x ∈ col, x.1 < 32) ∧
    (let l := [FVal.fin false 3 0, .fin true 1 0]
     (∃ x ∈ l, x.IsFin ∧ (2 : Rat) ^ (1 : Int) ≤ if x.rat < 0 then -x.rat else x.rat) ∧
       (∀ x ∈ l, (if x.rat < 0 then -x.rat else x.rat) < (2 : Rat) ^ ((1 : Int) + 1)) ∧ ∀ x ∈ l, x.IsFin ∧ x.isNan = false) ∧
    (∃ x ∈ [FVal.nan true], x.isNan = true) ∧ ((.inf false : FVal) ∈ [FVal.inf false, .inf true] ∧
      (.inf true : FVal) ∈ [FVal.inf false, .inf true] ∧ (.inf true : FVal) ∉ [FVal.inf false]) ∧
    ¬(FVal.inf false).IsFin := by
  refine ⟨by decide, ⟨⟨_, .head _, ⟨_, _, _, rfl⟩, by decide +kernel⟩, by decide +kernel, ?_⟩, ⟨_, .head _, rfl⟩, by decide, ?_⟩
  · intro x hx
    simp only [List.mem_cons, List.not_mem_nil, or_false] at hx
    rcases hx with rfl | rfl <;> exact ⟨⟨_, _, _, rfl⟩, rfl⟩
  · rintro ⟨_, _, _, h⟩
    cases h

theorem witness_blocks : (fmtE4m3, (8 : Int)) ∈ [(fmtE4m3, (8 : Int)), (fmtE5m2, 15), (fmtE3m2, 4), (fmtE2m3, 2), (fmtE2m1, 2)] ∧
    (∀ i : Nat, (fun _ => 65535) i < 65536) ∧ (∃ x ∈ [FVal.nan false], x.isNan = true) ∧ (∀ x ∈ [FVal.fin false 0 0], x.rat = 0) := by
  refine ⟨by decide, fun _ => (by decide : 65535 < 65536), ⟨_, .head _, rfl⟩, by decide +kernel⟩
end Sys2Proof.Tests
end

section
/-!
The refutation of `WordsStayInTheirPartition`: REPC writes the whole of the key that its task carries, and nothing in the
state bounds the length of that key.
-/
namespace Sys2Proof.Machine

/-- Where its offset passes the checks, REPC without a hold writes the running key into slab 0, as long as it is. -/
theorem opRepc_plates (sb : RegNo) (s : State) (h : s.keyTrap (s.sreg sb) = none) :
    (opRepc ⟨sb, .off⟩ s).plates =
      s.plates.blit (s.plateCell s.part 0 (s.sreg sb).toInt.toNat) s.runningKey.length fun k => s.runningKey.getD k 0 := by
  have hb : s.srcC true .off true sb = s.sreg sb := rfl
  simp only [opRepc, State.cword, starved, hb, h, Bool.false_eq_true, if_false]
  split <;> rfl

/-- A PURE task that carries, as the key of its lookup, 33 bytes of ones. -/
def longKeyTask : Task := { Task.empty with rep := .pending (List.replicate 33 1) }

/-- Partition 0 runs that task with one plate of 64 KiB to a slab, s1 naming the last 32 bytes of its share; its tenant has a
row (R352). -/
def longKeyState : State :=
  { State.reset with
    holder := some 0
    stream := { Stream.cleared with s := Stream.cleared.s.set 1 65504, pure := true, task := some longKeyTask }
    tenants := State.reset.tenants.set 0 { TenantRow.cleared with valid := true }
    parts := State.reset.parts.set 0 { Partition.cleared with bind := { BindRecord.cleared with plates := 1 } } }

theorem longKeyState_part : longKeyState.part = 0 := rfl
theorem longKeyState_share : longKeyState.share 0 = 65536 := by decide
theorem longKeyState_s1 : longKeyState.sreg 1 = 65504 := by decide

/-- The share is the first 65,536 cells of each slab. -/
theorem longKeyState_cell (slab off : Nat) : longKeyState.plateCell 0 slab off = slab * 4194304 + off := by
  change slab * 4194304 + 0 * 65536 + off = _
  omega

theorem longKeyState_keyTrap : longKeyState.keyTrap (longKeyState.sreg 1) = none := by decide

theorem longKeyState_runningKey : longKeyState.runningKey = List.replicate 33 1 := by decide

/-- The last byte of the key reaches the cell behind the share. -/
theorem opRepc_longKeyState : (opRepc ⟨1, .off⟩ longKeyState).plates.get 65536 = 1 := by
  rw [opRepc_plates 1 _ longKeyState_keyTrap, Cells.get_blit, longKeyState_runningKey, longKeyState_part, longKeyState_cell,
    longKeyState_s1]
  decide

theorem decodeSlot_repcS1 : decodeSlot 7 0x42008000 = .ok (.repc ⟨1, .off⟩) := rfl

/-- Refutes O58: in `longKeyState` REPC changes a plate cell outside its partition's share, the byte that follows the share in
slab 0: the task's record holds a key of 33 bytes, and R361's word writes it whole. (A key that the Repeater computes has 32, for
which the check of the 32 bytes is enough; the statement asks for every state.) -/
theorem not_wordsStayInTheirPartition : ¬ Obligations.WordsStayInTheirPartition := by
  intro h
  obtain ⟨-, -, hcells, -⟩ :=
    h 7 _ _ longKeyState (opRepc ⟨1, .off⟩ longKeyState) 0 decodeSlot_repcS1 rfl rfl
  have hkept := hcells 65536 fun slab off _ hoff => by
    rw [longKeyState_share] at hoff
    rw [longKeyState_cell]
    omega
  rw [opRepc_longKeyState] at hkept
  exact absurd hkept (by decide)

end Sys2Proof.Machine
end

section
/-!
What the Regulator's registers and the links leave as it was.
-/
namespace Sys2Proof.Machine

/-! ### Only links and what left the die -/

theorem LinksOnly.refl (s : State) : LinksOnly s s := rfl

theorem LinksOnly.trans {s t u : State} (h : LinksOnly s t) (k : LinksOnly t u) : LinksOnly s u := by
  unfold LinksOnly at *
  rw [k, h]

theorem setLink_linksOnly (d : Nat) (l : Link) (s : State) : LinksOnly s (s.setLink d l) := by
  unfold State.setLink; split <;> rfl

theorem onLink_linksOnly (d : Nat) (f : Link → Link) (s : State) : LinksOnly s (s.onLink d f) := setLink_linksOnly d _ s

theorem sendTrain_linksOnly (d : Nat) (s : State) : LinksOnly s (s.sendTrain d) := by
  unfold State.sendTrain; split <;> rfl

theorem retrain_linksOnly (d : Nat) (s : State) : LinksOnly s (s.retrain d) :=
  (onLink_linksOnly d _ s).trans (sendTrain_linksOnly d _)

/-! ### A bucket that takes a value (R375, R376) -/

/-- What a write of the Regulator's registers can change: the configuration and the buckets, the events, and what the Regulator
does about a bucket that crosses its mark. -/
def RegulatorOnly (s t : State) : Prop :=
  t = { s with bucketCfg := t.bucketCfg, buckets := t.buckets, mbxEvents := t.mbxEvents, mbxLost := t.mbxLost,
               rebinds := t.rebinds, lasers := t.lasers, links := t.links, outbox := t.outbox }

theorem RegulatorOnly.refl (s : State) : RegulatorOnly s s := rfl

theorem RegulatorOnly.trans {s t u : State} (h : RegulatorOnly s t) (k : RegulatorOnly t u) : RegulatorOnly s u := by
  unfold RegulatorOnly at *
  rw [k, h]

theorem LinksOnly.regulatorOnly {s t : State} (h : LinksOnly s t) : RegulatorOnly s t := by
  unfold LinksOnly at h
  unfold RegulatorOnly
  rw [h]

theorem onLaser_regulatorOnly (d w : Nat) (f : Laser → Laser) (s : State) : RegulatorOnly s (s.onLaser d w f) := by
  unfold State.onLaser; split <;> rfl

theorem moveToSpare_regulatorOnly (d w : Nat) (s : State) : RegulatorOnly s (s.moveToSpare d w) := by
  unfold State.moveToSpare
  split
  · exact (onLaser_regulatorOnly d w _ s).trans (onLaser_regulatorOnly d 8 _ _)
  · exact RegulatorOnly.refl s

theorem event_regulatorOnly (code detail : Nat) (s : State) : RegulatorOnly s (s.event code detail) := by
  unfold State.event; split <;> rfl

theorem setBucket_regulatorOnly (e : ErrUnit) (w : DWord) (s : State) : RegulatorOnly s (s.setBucket e w) := rfl

/-- A lane's response: its carrying wavelength gives way to the spare, and its link is retrained. -/
theorem respond_regulatorOnly (e : ErrUnit) (s : State) : RegulatorOnly s (s.respond e) := by
  have spare : ∀ d w, RegulatorOnly s (if 6 ≤ d then s.moveToSpare d w else s) := fun d w => by
    split
    · exact moveToSpare_regulatorOnly d w s
    · exact RegulatorOnly.refl s
  have again : ∀ (d : Nat) (t : State), RegulatorOnly t (if (t.link d).up then t.retrain d else t) := fun d t => by
    split
    · exact (retrain_linksOnly d t).regulatorOnly
    · exact RegulatorOnly.refl t
  unfold State.respond
  split
  · exact RegulatorOnly.refl s
  · rfl
  · rfl
  · exact (spare _ _).trans (again _ _)

theorem fillTo_regulatorOnly (e : ErrUnit) (fill total : Nat) (s : State) : RegulatorOnly s (s.fillTo e fill total) := by
  unfold State.fillTo
  simp only
  split
  · exact ((setBucket_regulatorOnly e _ s).trans (event_regulatorOnly _ _ _)).trans (respond_regulatorOnly e _)
  · exact setBucket_regulatorOnly e _ s

/-- A write of a register of the Regulator changes a class's configuration or fills a bucket. -/
theorem writeReg_regulatorOnly (r : RegAddr) (v : DWord) (s : State) : RegulatorOnly s (s.writeReg r v) := by
  cases r with
  | trap w => exact RegulatorOnly.refl s
  | fault p => exact RegulatorOnly.refl s
  | config c => rfl
  | bucket e =>
    refine RegulatorOnly.trans ?_ (fillTo_regulatorOnly e _ _ _)
    split
    · exact setBucket_regulatorOnly e _ s
    · exact RegulatorOnly.refl s

theorem writeReg_trapRecord (r : RegAddr) (v : DWord) (s : State) : (s.writeReg r v).trapRecord = s.trapRecord := by
  have h := writeReg_regulatorOnly r v s
  unfold RegulatorOnly at h
  rw [h]

/-- The configuration keeps its 48 bits (R375). -/
theorem low48_eq_and (v : DWord) : BitVec.ofNat 64 (bits v.toNat 0 48) = v &&& 0x0000_FFFF_FFFF_FFFF#64 := by
  apply BitVec.eq_of_toNat_eq
  have hand := Nat.and_two_pow_sub_one_eq_mod v.toNat 48
  have hlt := v.isLt
  simp only [bits, BitVec.toNat_ofNat, BitVec.toNat_and, Nat.pow_zero, Nat.div_one]
  rw [show 0x0000_FFFF_FFFF_FFFF % 2 ^ 64 = 2 ^ 48 - 1 from rfl, hand]
  omega

theorem writeReg_config (c : Fin 4) (v : DWord) (s : State) :
    s.writeReg (.config c) v = { s with bucketCfg := s.bucketCfg.set c (v &&& 0x0000_FFFF_FFFF_FFFF#64) } := by
  rw [← low48_eq_and]
  rfl

end Sys2Proof.Machine
end

section
/-!
Mailbox commands start (R385, R387).
-/
namespace Sys2Proof.Machine

/-! ### A write of MBXCMD -/

/-- The state in which a command that the mailbox takes begins to act. -/
def State.begun (code : Nat) (tag : BitVec 16) (s : State) : State :=
  { s with mbxBusy := true, mbxCmd := BitVec.ofNat 32 (code % 65536 + tag.toNat * 65536) }

/-- What no command changes as it starts: its arguments, BUSY, MBXCMD, home memory and the stage. -/
def CommandKept (s t : State) : Prop :=
  t.mbxArgs = s.mbxArgs ∧ t.mbxBusy = s.mbxBusy ∧ t.mbxCmd = s.mbxCmd ∧ t.mem = s.mem ∧ t.stage = s.stage

theorem CommandKept.refl (s : State) : CommandKept s s := ⟨rfl, rfl, rfl, rfl, rfl⟩

theorem RegulatorOnly.commandKept {s t : State} (h : RegulatorOnly s t) : CommandKept s t := by
  unfold RegulatorOnly at h
  rw [h]
  exact CommandKept.refl s

theorem startPreempt_commandKept (s : State) : CommandKept s s.startPreempt := by
  unfold State.startPreempt
  split
  · exact CommandKept.refl s
  · split <;> exact CommandKept.refl s

theorem holdAll_commandKept (s : State) : CommandKept s s.holdAll := startPreempt_commandKept { s with chkptHold := true }

theorem holdAll_chkptHold (s : State) : s.holdAll.chkptHold = true := by
  unfold State.holdAll State.startPreempt
  split
  · rfl
  · split <;> rfl

/-- The command answers with a result and arguments of which `res` holds, having changed nothing that `CommandKept` names. -/
def AnswersWith (code : Nat) (tag : BitVec 16) (u : State) (res : State → Nat → List DWord → Prop) (v : State) : Prop :=
  ∃ r l t, v = State.answer code tag r l t ∧ CommandKept u t ∧ res v r l

theorem answersWith_of {code : Nat} {tag : BitVec 16} {u : State} {res : State → Nat → List DWord → Prop} (t : State) (r : Nat)
    (l : List DWord) (hk : CommandKept u t) (h : res (t.answer code tag r l) r l) :
    AnswersWith code tag u res (t.answer code tag r l) := ⟨r, l, t, rfl, hk, h⟩

/-- How a command of a code starts: with OVERRUN alone while one runs; else it is the running one, with BADSTAGE outside its stages and
an outcome of which `res` holds inside them. -/
def Starts (s : State) (tag : BitVec 16) (i : Instr) (code lo hi : Nat) (res : State → Nat → List DWord → Prop) : Prop :=
  (s.mbxBusy = true → exec i s = .next { s with mbxOverrun := true }) ∧
  (s.mbxBusy = false → Runs i s fun t => ∃ r l, t.mbxRun = some ⟨BitVec.ofNat 16 code, tag, s.mbxArgs, r, l⟩ ∧ t.mbxBusy = true ∧
    t.mbxCmd = BitVec.ofNat 32 (code + tag.toNat * 65536) ∧ t.mem = s.mem ∧ t.stage = s.stage ∧
    (s.stage.val < lo ∨ hi < s.stage.val → r = 2 ∧ l = []) ∧ (lo ≤ s.stage.val → s.stage.val ≤ hi → res t r l))

/-- An instruction whose meaning is a write of MBXCMD starts its command as the command's act answers. -/
theorem starts_of_command {s : State} {tag : BitVec 16} {i : Instr} {code lo hi : Nat} {act : State → State}
    {res : State → Nat → List DWord → Prop} (hopen : s.mailboxOpen = true) (hcode : code < 65536)
    (hexec : exec i s = .next (s.command code tag lo hi act))
    (hact : lo ≤ s.stage.val → s.stage.val ≤ hi → AnswersWith code tag (s.begun code tag) res (act (s.begun code tag))) :
    Starts s tag i code lo hi res := by
  constructor
  · intro hbusy
    simp [hexec, State.command, hopen, hbusy]
  · intro hidle
    refine ⟨_, hexec, ?_⟩
    have hcmd : s.command code tag lo hi act =
        if lo ≤ s.stage.val ∧ s.stage.val ≤ hi then act (s.begun code tag)
        else (s.begun code tag).answer code tag rsBADSTAGE [] := by
      simp [State.command, hopen, hidle, State.begun]
    have hbegun : (s.begun code tag).mbxCmd = BitVec.ofNat 32 (code + tag.toNat * 65536) := by
      rw [State.begun, Nat.mod_eq_of_lt hcode]
    rw [hcmd]
    split
    · next hin =>
      obtain ⟨r, l, t, heq, ⟨hargs, hbusy, hword, hmem, hstage⟩, hres⟩ := hact hin.1 hin.2
      refine ⟨r, l, ?_, ?_, ?_, ?_, ?_, fun hout => absurd hout (by omega), fun _ _ => hres⟩ <;> rw [heq]
      · rw [State.answer, hargs]; rfl
      · exact hbusy
      · exact hword.trans hbegun
      · exact hmem
      · exact hstage
    · next hout =>
      exact ⟨rsBADSTAGE, [], rfl, rfl, hbegun, rfl, rfl, fun _ => ⟨rfl, rfl⟩, fun h1 h2 => absurd ⟨h1, h2⟩ hout⟩

theorem mailboxOpen_of {s : State} (hp : s.powered = true) (ha : s.alarm = 0) (hf : s.fail ≠ 1) : s.mailboxOpen = true := by
  simpa [State.mailboxOpen, hp, ha] using hf

/-- The number in MBXARG k. -/
def State.argOf (s : State) (k : Fin 4) : Nat := s.mbxArgs[k].toNat

theorem argOf_eq_arg (s : State) (k : Fin 4) : s.argOf k = s.arg k.val := by
  simp [State.arg, State.argOf]

theorem ofNat_arg (s : State) (k : Fin 4) : BitVec.ofNat 64 (s.arg k.val) = s.mbxArgs[k] := by
  rw [← argOf_eq_arg, State.argOf, BitVec.ofNat_toNat, BitVec.setWidth_eq]

/-! ### The commands of R387 -/

theorem versions_starts {s : State} (tag : BitVec 16) (hopen : s.mailboxOpen = true) :
    Starts s tag (.versions tag) 1 1 4 fun _ r l => r = 0 ∧ l = [0x0100_0100_0100_0100#64, 0x0100_0100#64] :=
  starts_of_command hopen (by decide) rfl fun _ _ =>
    answersWith_of (s.begun 1 tag) rsOK _ (CommandKept.refl _) ⟨rfl, by decide⟩

theorem settime_starts {s : State} (tag : BitVec 16) (hopen : s.mailboxOpen = true) :
    Starts s tag (.settime tag) 2 3 4 fun t r _ => (s.node ≠ s.master → r = 3 ∧ t.gtime = s.gtime ∧ t.slew = s.slew) ∧
      (s.node = s.master → r = 0 ∧ (s.stage = 3 → t.gtime = s.mbxArgs[0]) ∧
        (s.stage = 4 → t.gtime = s.gtime ∧ t.slew = (s.argOf 0 : Int) - s.gtime.toNat)) := by
  refine starts_of_command hopen (by decide) rfl fun _ _ => ?_
  split
  · next hother =>
    exact answersWith_of (s.begun 2 tag) rsBADARG _ (CommandKept.refl _) ⟨fun _ => ⟨rfl, rfl, rfl⟩, fun h => absurd h hother⟩
  · next hmaster =>
    split
    · next h3 =>
      refine answersWith_of _ rsOK _ (CommandKept.refl _) ⟨fun h => absurd h hmaster, fun _ => ⟨rfl, fun _ => ?_, fun h4 => ?_⟩⟩
      · exact ofNat_arg s 0
      · exact absurd (h4.symm.trans h3) (by decide)
    · next h3 =>
      refine answersWith_of _ rsOK _ (CommandKept.refl _)
        ⟨fun h => absurd h hmaster, fun _ => ⟨rfl, fun h => absurd h h3, fun _ => ⟨rfl, ?_⟩⟩⟩
      rw [argOf_eq_arg]
      rfl

/-- READREG, WRITEREG and RETRY are for this die where ARG0 is its number. -/
theorem isThisDie_iff (s : State) : s.isThisDie = true ↔ s.arg 0 = s.dieNo.toNat := by simp [State.isThisDie]

theorem not_refused_of_regAddr {s : State} {x : RegAddr} (hx : regAddr (s.arg 1) = some x) (hnear : ¬16 ≤ s.arg 0) :
    ¬(regAddr (s.arg 1) = none ∨ 16 ≤ s.arg 0) := by
  rintro (h | h)
  · exact nomatch hx.symm.trans h
  · exact hnear h

theorem readreg_starts {s : State} (tag : BitVec 16) (hopen : s.mailboxOpen = true) :
    Starts s tag (.readreg tag) 3 2 4 fun _ r l =>
      (regAddr (s.argOf 1) = none ∨ 16 ≤ s.argOf 0 → r = 3 ∧ l = []) ∧
      ∀ x, regAddr (s.argOf 1) = some x → s.argOf 0 = s.dieNo.toNat → r = 0 ∧ l = [s.readReg x] := by
  refine starts_of_command hopen (by decide) rfl fun _ _ => ?_
  have hdie : s.dieNo.toNat < 16 := s.dieNo.isLt
  rw [argOf_eq_arg s 0, argOf_eq_arg s 1]
  split
  · next hnone =>
    have hnone : regAddr (s.arg 1) = none := hnone
    exact answersWith_of _ rsBADARG _ (CommandKept.refl _) ⟨fun _ => ⟨rfl, rfl⟩, fun x hx => absurd (hnone.symm.trans hx) nofun⟩
  · next x hx =>
    have hx : regAddr (s.arg 1) = some x := hx
    split
    · next hfar =>
      have hfar : 16 ≤ s.arg 0 := hfar
      exact answersWith_of _ rsBADARG _ (CommandKept.refl _) ⟨fun _ => ⟨rfl, rfl⟩, fun y _ h => absurd (h ▸ hfar) (by omega)⟩
    · next hnear =>
      have bad := not_refused_of_regAddr hx hnear
      split
      · refine answersWith_of _ rsOK _ (CommandKept.refl _) ⟨fun h => absurd h bad, fun y hy _ => ⟨rfl, ?_⟩⟩
        obtain rfl : x = y := Option.some.inj (hx.symm.trans hy)
        cases x <;> rfl
      · next hother =>
        have hother : ¬s.isThisDie = true := hother
        exact answersWith_of _ rsOK _ (CommandKept.refl _) ⟨fun h => absurd h bad, fun y _ h => absurd ((isThisDie_iff s).2 h) hother⟩

theorem writereg_starts {s : State} (tag : BitVec 16) (hopen : s.mailboxOpen = true) :
    Starts s tag (.writereg tag) 4 2 4 fun t r _ =>
      (regAddr (s.argOf 1) = none ∨ 16 ≤ s.argOf 0 → r = 3 ∧ t.bucketCfg = s.bucketCfg) ∧
      ∀ x, regAddr (s.argOf 1) = some x → s.argOf 0 = s.dieNo.toNat → r = 0 ∧ t.trapRecord = s.trapRecord ∧
        ∀ c, x = .config c → t.bucketCfg[c] = s.mbxArgs[2] &&& 0x0000_FFFF_FFFF_FFFF#64 := by
  refine starts_of_command hopen (by decide) rfl fun _ _ => ?_
  have hdie : s.dieNo.toNat < 16 := s.dieNo.isLt
  rw [argOf_eq_arg s 0, argOf_eq_arg s 1]
  split
  · next hnone =>
    have hnone : regAddr (s.arg 1) = none := hnone
    exact answersWith_of _ rsBADARG _ (CommandKept.refl _) ⟨fun _ => ⟨rfl, rfl⟩, fun x hx => absurd (hnone.symm.trans hx) nofun⟩
  · next x hx =>
    have hx : regAddr (s.arg 1) = some x := hx
    split
    · next hfar =>
      have hfar : 16 ≤ s.arg 0 := hfar
      exact answersWith_of _ rsBADARG _ (CommandKept.refl _) ⟨fun _ => ⟨rfl, rfl⟩, fun y _ h => absurd (h ▸ hfar) (by omega)⟩
    · next hnear =>
      have bad := not_refused_of_regAddr hx hnear
      split
      · refine answersWith_of _ rsOK _ (writeReg_regulatorOnly x _ _).commandKept
          ⟨fun h => absurd h bad, fun y hy _ => ⟨rfl, writeReg_trapRecord x _ _, fun c hc => ?_⟩⟩
        obtain rfl : x = .config c := (Option.some.inj (hx.symm.trans hy)).trans hc
        change (State.writeReg (.config c) (BitVec.ofNat 64 (s.arg 2)) (s.begun 4 tag)).bucketCfg[c] = _
        rw [show BitVec.ofNat 64 (s.arg 2) = s.mbxArgs[2] from ofNat_arg s 2, writeReg_config]
        exact Vector.getElem_set_self ..
      · next hother =>
        have hother : ¬s.isThisDie = true := hother
        exact answersWith_of _ rsOK _ (CommandKept.refl _) ⟨fun h => absurd h bad, fun y _ h => absurd ((isThisDie_iff s).2 h) hother⟩

theorem chkptSave_starts {s : State} (tag : BitVec 16) (hopen : s.mailboxOpen = true) (hsave : s.argOf 1 ≠ 1) :
    Starts s tag (.chkptSave tag) 5 4 4 fun t r _ =>
      r = (if s.argOf 1 = 0 then 0 else 3) ∧ t.chkptHold = (s.chkptHold || s.argOf 1 == 0) := by
  have harg : s.argOf 1 = s.arg 1 := argOf_eq_arg s 1
  rw [harg] at hsave ⊢
  refine starts_of_command hopen (by decide) (congrArg Host.Outcome.next (if_neg hsave)) fun _ _ => ?_
  change AnswersWith 5 tag _ _ (if s.arg 1 = 0 then _ else _)
  by_cases h0 : s.arg 1 = 0
  · simp only [if_pos h0]
    refine answersWith_of _ rsOK _ (holdAll_commandKept _) ⟨rfl, ?_⟩
    simp [State.answer, holdAll_chkptHold, h0]
  · simp only [if_neg h0]
    refine answersWith_of _ rsBADARG _ (CommandKept.refl _) ⟨rfl, ?_⟩
    simp [State.answer, State.begun, h0]

/-- The image that `find?` takes is the first of which the predicate holds. -/
theorem find?_append_cons {α : Type} {q : α → Bool} {b l : List α} {i : α} (hi : q i = true) (hb : ∀ j ∈ b, q j = false) :
    (b ++ i :: l).find? q = some i := by
  rw [List.find?_append, List.find?_eq_none.2 fun j hj => by simp [hb j hj]]
  simp [hi]

theorem chkptRestore_starts {s : State} (tag : BitVec 16) (hopen : s.mailboxOpen = true) (hrestore : s.argOf 1 = 1) :
    Starts s tag (.chkptRestore tag) 5 4 4 fun t r _ => ((∀ i ∈ s.images, i.base ≠ s.mbxArgs[0]) → r = 3) ∧
      ∀ (b l : List CheckpointImage) (i : CheckpointImage), s.images = b ++ i :: l → i.base = s.mbxArgs[0] →
        (∀ j ∈ b, j.base ≠ s.mbxArgs[0]) → (i.headerOk = true → r = 0 ∧ t.chkptHold = true) ∧
        (i.headerOk = false → r = 3 ∧ t.chkptHold = s.chkptHold) := by
  rw [argOf_eq_arg s 1] at hrestore
  refine starts_of_command hopen (by decide) (congrArg Host.Outcome.next (if_neg fun h => h hrestore)) fun _ _ => ?_
  have hbase : ∀ i : CheckpointImage, (i.base.toNat == s.arg 0) = true ↔ i.base = s.mbxArgs[0] := fun i => by
    rw [beq_iff_eq, show s.arg 0 = s.argOf 0 from (argOf_eq_arg s 0).symm, State.argOf, BitVec.toNat_inj]; rfl
  have hfind : ∀ {b l : List CheckpointImage} {i : CheckpointImage}, s.images = b ++ i :: l → i.base = s.mbxArgs[0] →
      (∀ j ∈ b, j.base ≠ s.mbxArgs[0]) → s.images.find? (fun i => i.base.toNat == s.arg 0) = some i := fun him hi hb => by
    rw [him]
    exact find?_append_cons ((hbase _).2 hi) fun j hj => Bool.eq_false_iff.2 fun h => hb j hj ((hbase j).1 h)
  split
  · next hnone =>
    have hnone : s.images.find? (fun i => i.base.toNat == s.arg 0) = none := hnone
    exact answersWith_of _ rsBADARG _ (CommandKept.refl _)
      ⟨fun _ => rfl, fun b l i him hi hb => nomatch hnone.symm.trans (hfind him hi hb)⟩
  · next i hsome =>
    have hsome : s.images.find? (fun i => i.base.toNat == s.arg 0) = some i := hsome
    have hkept : ¬∀ i ∈ s.images, i.base ≠ s.mbxArgs[0] := fun hno =>
      hno i (List.mem_of_find?_eq_some hsome) ((hbase i).1 (List.find?_some (p := fun i : CheckpointImage => i.base.toNat == s.arg 0) hsome))
    have hsame : ∀ {b l : List CheckpointImage} {j : CheckpointImage}, s.images = b ++ j :: l → j.base = s.mbxArgs[0] →
        (∀ k ∈ b, k.base ≠ s.mbxArgs[0]) → i = j := fun him hj hb => Option.some.inj (hsome.symm.trans (hfind him hj hb))
    split
    · next hok =>
      refine answersWith_of _ rsOK _ (holdAll_commandKept _) ⟨fun h => absurd h hkept, fun b l j him hj hb => ?_⟩
      obtain rfl := hsame him hj hb
      exact ⟨fun _ => ⟨rfl, holdAll_chkptHold _⟩, fun h => absurd (hok.symm.trans h) (by decide)⟩
    · next hbad =>
      refine answersWith_of _ rsBADARG _ (CommandKept.refl _) ⟨fun h => absurd h hkept, fun b l j him hj hb => ?_⟩
      obtain rfl := hsame him hj hb
      exact ⟨fun h => absurd h hbad, fun _ => ⟨rfl, rfl⟩⟩

theorem resume_starts {s : State} (tag : BitVec 16) (hopen : s.mailboxOpen = true) :
    Starts s tag (.resume tag) 6 4 4 fun t r _ => r = 0 ∧ t.chkptHold = false :=
  starts_of_command hopen (by decide) rfl fun _ _ => answersWith_of _ rsOK _ ⟨rfl, rfl, rfl, rfl, rfl⟩ ⟨rfl, rfl⟩

theorem pt_onPart_self (p : PartNo) (f : Partition → Partition) (s : State) : (s.onPart p f).pt p = f (s.pt p) := by
  simp [State.pt]

theorem retry_starts {s : State} (tag : BitVec 16) (hopen : s.mailboxOpen = true) :
    Starts s tag (.retry tag) 7 4 4 fun t r _ => (4 ≤ s.argOf 1 ∨ 16 ≤ s.argOf 0 → r = 3) ∧
      ∀ p : Fin 4, s.argOf 1 = p.val → s.argOf 0 = s.dieNo.toNat →
        ((s.pt p).disp = .held → r = 0 ∧ (t.pt p).disp = .translate) ∧ ((s.pt p).disp ≠ .held → r = 3 ∧ t.parts = s.parts) := by
  have harg0 : s.argOf 0 = s.arg 0 := argOf_eq_arg s 0
  have harg1 : s.argOf 1 = s.arg 1 := argOf_eq_arg s 1
  have hdie : s.dieNo.toNat < 16 := s.dieNo.isLt
  rw [harg0, harg1]
  refine starts_of_command hopen (by decide) rfl fun _ _ => ?_
  split
  · next hin =>
    have hin : s.arg 1 < 4 ∧ s.arg 0 < 16 := hin
    have bad : ¬(4 ≤ s.arg 1 ∨ 16 ≤ s.arg 0) := by omega
    have hpart : ∀ p : Fin 4, s.arg 1 = p.val → (⟨s.arg 1, hin.1⟩ : Fin 4) = p := fun p hp => Fin.ext hp
    dsimp only
    split
    · next hother =>
      have hother : s.isThisDie = false := hother
      refine answersWith_of _ _ _ ⟨rfl, rfl, rfl, rfl, rfl⟩ ⟨fun h => absurd h bad, fun p _ hd => ?_⟩
      exact absurd (hother.symm.trans ((isThisDie_iff s).2 hd)) (by decide)
    · split
      · next hheld =>
        refine answersWith_of _ rsOK _ ⟨rfl, rfl, rfl, rfl, rfl⟩ ⟨fun h => absurd h bad, fun p hp _ => ?_⟩
        obtain rfl := hpart p hp
        exact ⟨fun _ => ⟨rfl, congrArg Partition.disp (pt_onPart_self _ (fun t => { t with disp := .translate }) s)⟩,
          fun h => absurd hheld h⟩
      · next hheld =>
        refine answersWith_of _ rsBADARG _ (CommandKept.refl _) ⟨fun _ => rfl, fun p hp _ => ?_⟩
        obtain rfl := hpart p hp
        exact ⟨fun h => absurd h hheld, fun _ => ⟨rfl, rfl⟩⟩
  · next hout =>
    have hout : ¬(s.arg 1 < 4 ∧ s.arg 0 < 16) := hout
    exact answersWith_of _ rsBADARG _ (CommandKept.refl _)
      ⟨fun _ => rfl, fun p hp hd => absurd ⟨hp ▸ p.isLt, hd ▸ hdie⟩ hout⟩

theorem undefinedCommand_starts {s : State} (tag : BitVec 16) (c : BitVec 16) (hopen : s.mailboxOpen = true)
    (hc : c = 0 ∨ 8 ≤ c.toNat) (hsmall : c.toNat < 256) :
    Starts s tag (.undefinedCommand ⟨tag, c⟩) c.toNat 1 4 fun _ r l => r = 1 ∧ l = [] := by
  have hlisted : ¬((1 ≤ c.toNat ∧ c.toNat ≤ 7) ∨ 0x100 ≤ c.toNat) := by
    rcases hc with rfl | hc
    · decide
    · omega
  exact starts_of_command hopen c.isLt (congrArg Host.Outcome.next (if_neg hlisted)) fun _ _ =>
    answersWith_of _ rsBADCMD _ (CommandKept.refl _) ⟨rfl, rfl⟩

theorem firmwareCommand_starts {s : State} (tag : BitVec 16) (c : BitVec 16) (hopen : s.mailboxOpen = true) (hc : 256 ≤ c.toNat) :
    Starts s tag (.firmwareCommand ⟨tag, c⟩) c.toNat 1 4 fun _ r l => r < 256 ∧ l.length = 4 :=
  starts_of_command hopen c.isLt (congrArg Host.Outcome.next (if_neg (Nat.not_lt.2 hc))) fun _ _ =>
    answersWith_of _ _ _ ⟨rfl, rfl, rfl, rfl, rfl⟩ ⟨Nat.mod_lt _ (by decide), by simp⟩

/-- Every command of R387 starts as its row says. -/
theorem mailboxCommandsStart : Claims.MailboxCommandsStart := by
  intro s tag hp ha hf arg starts
  have hopen := mailboxOpen_of hp ha hf
  exact ⟨versions_starts tag hopen, settime_starts tag hopen, readreg_starts tag hopen, writereg_starts tag hopen,
    chkptSave_starts tag hopen, chkptRestore_starts tag hopen, resume_starts tag hopen, retry_starts tag hopen,
    fun c => undefinedCommand_starts tag c hopen, fun c => firmwareCommand_starts tag c hopen⟩

end Sys2Proof.Machine
end

section
/-!
Mailbox commands complete (R385, R395, R396).
-/
namespace Sys2Proof.Machine

/-! ### A line that comes back from an image -/

theorem flatten_length_of_words (l : List (List Nat)) (h : ∀ w ∈ l, w.length = 4) : l.flatten.length = 4 * l.length := by
  induction l with
  | nil => rfl
  | cons w t ih =>
    rw [List.flatten_cons, List.length_append, h w List.mem_cons_self, ih fun x hx => h x (List.mem_cons_of_mem _ hx),
      List.length_cons]
    omega

theorem firstRoundKey_length (key : List Nat) (h : key.length = 32) : ((roundKeys key).getD 0 []).length = 16 := by
  have hk := keyWords_length 52 8 1 ((List.range 8).map fun k => (key.drop (4 * (7 - k))).take 4) (by simp) (by
    intro w hm
    obtain ⟨k, hk, rfl⟩ := List.mem_map.1 hm
    have := List.mem_range.1 hk
    simp [h]; omega)
  rw [roundKeys, List.getD_eq_getElem?_getD, List.getElem?_eq_getElem (by simp), Option.getD_some, List.getElem_map,
    flatten_length_of_words]
  · simp [hk.1]
  · intro w hw
    exact hk.2 w (List.mem_reverse.1 (List.mem_of_mem_drop (List.mem_of_mem_take hw)))

theorem aesBlockBack_length (ks : List (List Nat)) (b : List Nat) (h : (ks.getD 0 []).length = 16) :
    (aesBlockBack ks b).length = 16 := by
  rw [aesBlockBack, xorBytes_length, h]; simp [shiftRowsBack]

theorem xtsBlocks_length (f : List Nat → List Nat) (hf : ∀ b, (f b).length = 16) (k t : Nat) (b : List Nat) :
    (xtsBlocks f k t b).length = 16 * k := by
  induction k generalizing t b with
  | zero => rfl
  | succ k ih => simp [xtsBlocks, xorBytes_length, hf, octets, ih]; omega

@[simp] theorem openBytes_length (key : BitVec 512) (line : Nat) (l : List Byte) : (openBytes key line l).length = 128 := by
  rw [openBytes, List.length_map,
    xtsBlocks_length _ fun b => aesBlockBack_length _ b (firstRoundKey_length _ (by simp [octets]))]

theorem listAt_cons (a : Nat) (b : Byte) (l : List Byte) : listAt a (b :: l) = (a, b) :: listAt (a + 1) l := by
  simp [listAt, Nat.add_assoc, Nat.add_comm 1]

/-- Bytes written from an address on are found there. -/
theorem setMany_listAt_get (c : Cells 8) (a : Nat) (l : List Byte) (k : Nat) (h : k < l.length) :
    (c.setMany (listAt a l)).get (a + k) = l[k] := by
  induction l generalizing c a k with
  | nil => exact absurd h (Nat.not_lt_zero k)
  | cons b l ih =>
    have hcons : c.setMany (listAt a (b :: l)) = (c.set a b).setMany (listAt (a + 1) l) := by rw [listAt_cons]; rfl
    rw [hcons]
    cases k with
    | zero =>
      rw [Cells.get_setMany_other _ _ _ fun x hx => ?_]
      · simp
      · obtain ⟨j, hj, rfl⟩ := List.mem_mapIdx.1 hx
        exact (show a + 1 + j ≠ a + 0 by omega)
    | succ k =>
      rw [show a + (k + 1) = a + 1 + k by omega, ih _ _ _ (Nat.lt_of_succ_lt_succ h)]
      rfl

/-! ### What an image's return leaves -/

theorem foldl_of_step {α σ : Type} (R : σ → σ → Prop) (hrefl : ∀ s, R s s) (htrans : ∀ {s t u}, R s t → R t u → R s u)
    (f : σ → α → σ) (hf : ∀ s a, R s (f s a)) (l : List α) (s : σ) : R s (l.foldl f s) := by
  induction l generalizing s with
  | nil => exact hrefl s
  | cons a l ih => exact htrans (hf s a) (ih _)

/-- The slots as they are owned after an image has come back. -/
def State.restoredKeys (i : CheckpointImage) (s : State) : List KeySlot :=
  ⟨0, 0, i.key0⟩ :: (s.keys.filter fun (k : KeySlot) => k.slot.val != 0).map (KeySlot.ownedBy i.owners)

theorem mem_restoredKeys (i : CheckpointImage) (s : State) (k : KeySlot) : k ∈ s.restoredKeys i ↔
    k = ⟨0, 0, i.key0⟩ ∨ ∃ x ∈ s.keys, x.slot.val ≠ 0 ∧
      k = { x with tenant := ((i.owners.find? fun o => o.1 == x.slot).map (·.2)).getD x.tenant } := by
  simp only [State.restoredKeys, List.mem_cons, List.mem_map, List.mem_filter, bne_iff_ne, KeySlot.ownedBy, and_assoc,
    eq_comm (a := k)]

/-- Home memory as an image brings it back, each line deciphered with the key of its slot. -/
def restoredMem (key : Nat → BitVec 512) (home : List (Nat × List Byte)) : Cells 8 :=
  home.foldl (fun m l => Cells.setMany m (listAt (l.1 * 128) (openBytes (key l.1) l.1 l.2))) []

theorem restoredMem_unlisted (key : Nat → BitVec 512) (home : List (Nat × List Byte)) (n j : Nat) (hj : j < 128)
    (hn : ∀ x ∈ home, x.1 ≠ n) : (restoredMem key home).get (n * 128 + j) = 0 := by
  have hline : (n * 128 + j) / 128 = n := by omega
  have hfold : ∀ m : Cells 8, (home.foldl (fun m l => Cells.setMany m (listAt (l.1 * 128) (openBytes (key l.1) l.1 l.2))) m).get
      (n * 128 + j) = m.get (n * 128 + j) := by
    induction home with
    | nil => exact fun _ => rfl
    | cons x l ih =>
      intro m
      rw [List.foldl_cons, ih (fun y hy => hn y (List.mem_cons_of_mem _ hy))]
      exact setMany_line m x.1 _ _ (fun h => hn x List.mem_cons_self (h.symm.trans hline)) (Nat.le_of_eq (openBytes_length ..))
  exact hfold []

theorem restoredMem_single (key : Nat → BitVec 512) (n : Nat) (c : List Byte) :
    ((List.range 128).map fun k => (restoredMem key [(n, c)]).get (n * 128 + k)) = openBytes (key n) n c := by
  refine List.ext_getElem (by simp) fun k h1 h2 => ?_
  simp only [List.getElem_map, List.getElem_range]
  rw [restoredMem, List.foldl_cons, List.foldl_nil, setMany_listAt_get [] (n * 128) _ k h2]

/-- Only the saved contexts and the partitions may differ. -/
def PartitionsAlone (s t : State) : Prop := t = { s with shadow := t.shadow, parts := t.parts }

theorem PartitionsAlone.trans {s t u : State} (h : PartitionsAlone s t) (k : PartitionsAlone t u) : PartitionsAlone s u := by
  unfold PartitionsAlone at *
  rw [k, h]

/-- Where a restore has put an image: the partitions, which come back last, leave everything else as it was written. -/
theorem putImage_fields (i : CheckpointImage) (s : State) : (s.putImage i).stash = [] ∧ (s.putImage i).plates = i.plates ∧
    (s.putImage i).lineKeys = i.under ∧ (s.putImage i).keys = s.restoredKeys i ∧
    (s.putImage i).mem = restoredMem (fun n => (s.putImage i).slotKey ((s.putImage i).lineSlot n)) i.home := by
  obtain ⟨u, halone, hu⟩ : ∃ u, PartitionsAlone u (s.putImage i) ∧ u.stash = [] ∧ u.plates = i.plates ∧ u.lineKeys = i.under ∧
      u.keys = s.restoredKeys i ∧ u.mem = restoredMem (fun n => u.slotKey (u.lineSlot n)) i.home :=
    ⟨_, foldl_of_step PartitionsAlone (fun _ => rfl) PartitionsAlone.trans _ (fun _ _ => by rfl) _ _, rfl, rfl, rfl, rfl, rfl⟩
  unfold PartitionsAlone at halone
  rw [halone]
  exact hu

/-! ### What a save leaves -/

/-- Only the slots under which HBM4E holds its lines may differ. -/
def LineKeysAlone (s t : State) : Prop := t = { s with lineKeys := t.lineKeys }

theorem LineKeysAlone.trans {s t u : State} (h : LineKeysAlone s t) (k : LineKeysAlone t u) : LineKeysAlone s u := by
  unfold LineKeysAlone at *
  rw [k, h]

theorem sealLine_lineKeysAlone (l : StashLine) (s : State) : LineKeysAlone s (s.sealLine l) := by
  unfold State.sealLine
  split <;> rfl

theorem writeBackAll_kept (s : State) :
    s.writeBackAll = { s with stash := s.stash.map StashLine.cleaned, lineKeys := s.writeBackAll.lineKeys } := by
  have hfold := foldl_of_step LineKeysAlone (fun _ => rfl) LineKeysAlone.trans (fun (s : State) (l : StashLine) => s.sealLine l)
    (fun s l => sealLine_lineKeysAlone l s) s.stash s
  unfold LineKeysAlone at hfold
  unfold State.writeBackAll
  rw [hfold]

theorem allParked_of {s : State} (hh : s.holder = none) (hp : ∀ p, (s.pt p).disp ≠ .ending) : s.allParked = true := by
  simp [State.allParked, hh, hp]

/-! ### COMMAND_COMPLETE -/

theorem opCommandComplete_plain {s : State} {r : MbxRun} (hr : s.mbxRun = some r) (hc : ¬(r.code = 5 ∧ r.result = 0)) :
    opCommandComplete s = s.publish r := by
  rw [opCommandComplete, hr]
  exact if_neg hc

theorem opCommandComplete_chkpt {s : State} {r : MbxRun} (hr : s.mbxRun = some r) (hc : r.code = 5) (h0 : r.result = 0)
    (hh : s.holder = none) (hp : ∀ p, (s.pt p).disp ≠ .ending) : opCommandComplete s = (s.doChkpt r).publish r := by
  rw [opCommandComplete, hr]
  exact (if_pos ⟨hc, h0⟩).trans (if_pos (allParked_of hh hp))

theorem doChkpt_save {s : State} {r : MbxRun} (hg : r.given[1] = 0) : s.doChkpt r = s.takeImage r.given[0] := if_pos hg

theorem doChkpt_restore {s : State} {r : MbxRun} {b l : List CheckpointImage} {i : CheckpointImage} (hg : r.given[1] = 1)
    (him : s.images = b ++ i :: l) (hi : i.base = r.given[0]) (hok : i.headerOk = true) (hb : ∀ j ∈ b, j.base ≠ r.given[0]) :
    s.doChkpt r = s.putImage i := by
  have hfind : s.images.find? (fun i => i.base == r.given[0] && i.headerOk) = some i := by
    rw [him]
    exact find?_append_cons (by simp [hi, hok]) fun j hj => by simp [hb j hj]
  rw [State.doChkpt, if_neg (by rw [hg]; decide), hfind]

theorem command_completes {s : State} {r : MbxRun} (hr : s.mbxRun = some r) (hc : ¬(r.code = 5 ∧ r.result = 0)) :
    Runs .commandComplete s fun t =>
      t.mbxBusy = false ∧ t.mbxRun = none ∧ t.mbxResult = BitVec.ofNat 8 r.result ∧ t.mbxTag = r.tag ∧
      (∀ k : Fin 4, t.mbxArgs[k] = r.args.getD k.val s.mbxArgs[k]) ∧
      t = { s with mbxBusy := false, mbxRun := none, mbxResult := t.mbxResult, mbxTag := t.mbxTag, mbxArgs := t.mbxArgs } := by
  refine ⟨_, congrArg Host.Outcome.next (opCommandComplete_plain hr hc), rfl, rfl, rfl, rfl, fun k => ?_, rfl⟩
  exact Vector.getElem_ofFn ..

theorem save_completes {s : State} {r : MbxRun} (hr : s.mbxRun = some r) (hc : r.code = 5) (h0 : r.result = 0) (hg : r.given[1] = 0)
    (hh : s.holder = none) (hp : ∀ p, (s.pt p).disp ≠ .ending) :
    Runs .commandComplete s fun t => t.mbxBusy = false ∧ t.mbxResult = 0 ∧ t.mem = s.mem ∧ t.plates = s.plates ∧
      (∀ l ∈ t.stash, l.dirty = false) ∧ t.staged = s.staged ∧ ∃ i ∈ t.images, i.base = r.given[0] ∧ i.headerOk = true ∧
        i.owners = (s.keys.filter fun k => k.slot.val != 0).map (fun k => (k.slot, k.tenant)) ∧
        i.home = t.listedLines.map (fun k => (k, t.cipherLine k)) ∧ i.under = t.lineKeys ∧ i.plates = s.plates ∧
        i.staged = s.staged.map t.stagedImage := by
  refine ⟨_, congrArg Host.Outcome.next (opCommandComplete_chkpt hr hc h0 hh hp), ?_⟩
  rw [doChkpt_save hg, State.takeImage, writeBackAll_kept s]
  refine ⟨rfl, ?_, rfl, rfl, ?_, rfl, _, List.mem_cons_self, rfl, imageHeader_ok _ _ rfl, rfl, rfl, rfl, rfl, rfl⟩
  · exact congrArg (BitVec.ofNat 8) h0
  · intro l hl
    obtain ⟨x, -, rfl⟩ := List.mem_map.1 hl
    rfl

theorem restore_completes {s : State} {r : MbxRun} {b l : List CheckpointImage} {i : CheckpointImage} (hr : s.mbxRun = some r)
    (hc : r.code = 5) (h0 : r.result = 0) (hg : r.given[1] = 1) (hh : s.holder = none) (hp : ∀ p, (s.pt p).disp ≠ .ending)
    (him : s.images = b ++ i :: l) (hi : i.base = r.given[0]) (hok : i.headerOk = true) (hb : ∀ j ∈ b, j.base ≠ r.given[0]) :
    Runs .commandComplete s fun t => t.mbxBusy = false ∧ t.mbxResult = 0 ∧ t.stash = [] ∧
      t.plates = i.plates ∧ t.lineKeys = i.under ∧
      (∀ k, k ∈ t.keys ↔ k = ⟨0, 0, i.key0⟩ ∨ ∃ x ∈ s.keys, x.slot.val ≠ 0 ∧
        k = { x with tenant := ((i.owners.find? fun o => o.1 == x.slot).map (·.2)).getD x.tenant }) ∧
      (∀ n, (∀ x ∈ i.home, x.1 ≠ n) → ∀ j, j < 128 → t.byte (n * 128 + j) = 0) ∧
      (∀ n c, i.home = [(n, c)] → c.length = 128 → t.lineBytes n = openBytes (t.slotKey (t.lineSlot n)) n c) := by
  refine ⟨_, congrArg Host.Outcome.next (opCommandComplete_chkpt hr hc h0 hh hp), ?_⟩
  rw [doChkpt_restore hg him hi hok hb]
  obtain ⟨hstash, hplates, hunder, hkeys, hmem⟩ := putImage_fields i s
  refine ⟨rfl, ?_, hstash, hplates, hunder, fun k => ?_, fun n hn j hj => ?_, fun n c hhome _ => ?_⟩
  · exact congrArg (BitVec.ofNat 8) h0
  · exact hkeys ▸ mem_restoredKeys i s k
  · exact (congrArg (Cells.get · _) hmem).trans (restoredMem_unlisted _ _ n j hj hn)
  · rw [hhome] at hmem
    have hbytes : ((s.putImage i).publish r).lineBytes n =
        (List.range 128).map fun k => Cells.get (s.putImage i).mem (n * 128 + k) := rfl
    rw [hbytes, hmem]
    exact restoredMem_single _ n c

/-! ### MBXEVT -/

theorem toNat_append_add {m n : Nat} (x : BitVec m) (y : BitVec n) : (x ++ y).toNat = x.toNat * 2 ^ n + y.toNat := by
  rw [BitVec.toNat_append, ← Nat.shiftLeft_add_eq_or_of_lt y.isLt, Nat.shiftLeft_eq]

theorem mbxevt_of_event (s : State) (e : MbxEvent) (l : List MbxEvent) (h : s.mbxEvents = e :: l) :
    s.mbxevt = e.detail ++ s.mbxLost ++ e.die ++ e.event := by
  apply BitVec.eq_of_toNat_eq
  simp only [State.mbxevt, h, List.headD_cons, BitVec.toNat_ofNat, toNat_append_add]
  omega

theorem mbxevt_of_none (s : State) (h : s.mbxEvents = []) : bits s.mbxevt.toNat 0 16 = 0 := by
  simp only [State.mbxevt, h, List.headD_nil, BitVec.ofNat_eq_ofNat, BitVec.toNat_ofNat, bits]
  omega

theorem mbxevtRead_answers {s : State} (hopen : s.mailboxOpen = true) : Runs .mbxevtRead s fun t => ∃ v : DWord,
    (∀ e l, s.mbxEvents = e :: l → v = e.detail ++ s.mbxLost ++ e.die ++ e.event) ∧ (s.mbxEvents = [] → bits v.toNat 0 16 = 0) ∧
    t = { s with mbxEvents := s.mbxEvents.drop 1, mbxLost := 0, outbox := .mbxEvent v :: s.outbox } :=
  ⟨_, congrArg Host.Outcome.next (if_pos hopen), s.mbxevt, mbxevt_of_event s, mbxevt_of_none s, rfl⟩

theorem mailboxCommandsComplete : Claims.MailboxCommandsComplete := fun _ =>
  ⟨fun _ hr hc => command_completes hr hc, fun _ hr hc h0 hg hh hp => save_completes hr hc h0 hg hh hp,
    fun _ _ _ _ hr hc h0 hg hh hp him hi hok hb => restore_completes hr hc h0 hg hh hp him hi hok hb,
    fun hp ha hf => mbxevtRead_answers (mailboxOpen_of hp ha hf)⟩

end Sys2Proof.Machine
end

section
/-!
Reads of BAR0 (R6, R7, R274, R276, R382, R385).
-/
namespace Sys2Proof.Machine

/-! ### Where the registers of BAR0 stand -/

theorem bar0_unaligned (s : State) (a : Nat) (h : a % 8 ≠ 0) : s.bar0 a = 0 := if_pos h

theorem bar0_hole (s : State) (a : Nat)
    (h : a = 0 ∨ (0x38 ≤ a ∧ a < 0x8000) ∨ (0x8400 ≤ a ∧ a < 0x10000) ∨ (0x12000 ≤ a ∧ a ≠ 0x14000)) : s.bar0 a = 0 := by
  by_cases h8 : a % 8 = 0
  · rw [State.bar0, if_neg fun h => h h8, if_neg (by omega), if_neg (by omega), if_neg (by omega), if_neg (by omega),
      if_neg (by omega), if_neg (by omega)]
  · exact bar0_unaligned s a h8

theorem bar0_arg (s : State) (k : Fin 4) : s.bar0 (8 + 8 * k.val) = s.mbxArgs[k] := by
  have hk := k.isLt
  rw [State.bar0, if_neg (by omega), if_pos (by omega), show (8 + 8 * k.val) / 8 - 1 = k.val by omega]
  simp

/-- A word of this die's link blocks. -/
theorem bar0_link (s : State) (o : Nat) (ho : o < 0x100) (h8 : o % 8 = 0) :
    s.bar0 (0x8000 + 0x100 * (s.dieNo.toNat % 4) + o) = s.linkWord o := by
  have hdie := Nat.mod_lt s.dieNo.toNat (show 4 > 0 by decide)
  generalize hn : s.dieNo.toNat % 4 = n at hdie
  rw [State.bar0, if_neg (by omega), if_neg (by omega), if_neg (by omega), if_neg (by omega), if_neg (by omega),
    if_pos (by omega), if_pos (by omega), show (0x8000 + 0x100 * n + o - 0x8000) % 0x100 = o by omega]

/-- A word of this die's laser blocks. -/
theorem bar0_laser (s : State) (o : Nat) (ho : o < 0x800) (h8 : o % 8 = 0) :
    s.bar0 (0x10000 + 0x800 * (s.dieNo.toNat % 4) + o) = s.laserWord o := by
  have hdie := Nat.mod_lt s.dieNo.toNat (show 4 > 0 by decide)
  generalize hn : s.dieNo.toNat % 4 = n at hdie
  rw [State.bar0, if_neg (by omega), if_neg (by omega), if_neg (by omega), if_neg (by omega), if_neg (by omega),
    if_neg (by omega), if_pos (by omega), if_pos (by omega), show (0x10000 + 0x800 * n + o - 0x10000) % 0x800 = o by omega]

theorem bar0_pastLinks (s : State) (o : Nat) (h1 : 0xE0 ≤ o) (h2 : o < 0x100) :
    s.bar0 (0x8000 + 0x100 * (s.dieNo.toNat % 4) + o) = 0 := by
  by_cases h8 : o % 8 = 0
  · rw [bar0_link s o h2 h8]
    exact if_pos (by omega)
  · exact bar0_unaligned s _ (by omega)

theorem bar0_pastLasers (s : State) (o : Nat) (h1 : o < 0x800) (h2 : 0x90 ≤ o % 0x100) :
    s.bar0 (0x10000 + 0x800 * (s.dieNo.toNat % 4) + o) = 0 := by
  by_cases h8 : o % 8 = 0
  · rw [bar0_laser s o h1 h8]
    exact if_pos (by omega)
  · exact bar0_unaligned s _ (by omega)

theorem bar0_link_word0 (s : State) (d : Fin 14) :
    s.bar0 (0x8000 + 0x100 * (s.dieNo.toNat % 4) + 0x10 * d.val) = (s.link d.val).word0 := by
  have hd := d.isLt
  rw [bar0_link s _ (by omega) (by omega), State.linkWord, if_neg (by omega), if_pos (by omega),
    show 0x10 * d.val / 16 = d.val by omega]

theorem bar0_link_word1 (s : State) (d : Fin 14) :
    s.bar0 (0x8000 + 0x100 * (s.dieNo.toNat % 4) + 0x10 * d.val + 8) = (s.link d.val).word1 := by
  have hd := d.isLt
  rw [Nat.add_assoc, bar0_link s _ (by omega) (by omega), State.linkWord, if_neg (by omega), if_neg (by omega),
    show (0x10 * d.val + 8) / 16 = d.val by omega]

theorem bar0_laser_word0 (s : State) (d : Fin 8) (w : Fin 9) :
    s.bar0 (0x10000 + 0x800 * (s.dieNo.toNat % 4) + 0x100 * d.val + 0x10 * w.val) = (s.laser (6 + d.val) w.val).word0 := by
  have hd := d.isLt
  have hw := w.isLt
  rw [Nat.add_assoc, bar0_laser s _ (by omega) (by omega), State.laserWord]
  rw [if_neg (by omega), if_pos (by omega), show (0x100 * d.val + 0x10 * w.val) / 256 = d.val by omega,
    show (0x100 * d.val + 0x10 * w.val) % 256 / 16 = w.val by omega]

theorem bar0_laser_word1 (s : State) (d : Fin 8) (w : Fin 9) :
    s.bar0 (0x10000 + 0x800 * (s.dieNo.toNat % 4) + 0x100 * d.val + 0x10 * w.val + 8) = (s.laser (6 + d.val) w.val).word1 := by
  have hd := d.isLt
  have hw := w.isLt
  rw [Nat.add_assoc, Nat.add_assoc, bar0_laser s _ (by omega) (by omega), State.laserWord]
  rw [if_neg (by omega), if_neg (by omega), show (0x100 * d.val + (0x10 * w.val + 8)) / 256 = d.val by omega,
    show (0x100 * d.val + (0x10 * w.val + 8)) % 256 / 16 = w.val by omega]

/-! ### The fields of the words -/

theorem b2n_eq (b : Bool) (k : Nat) : b2n b k = b.toNat * 2 ^ k := by cases b <;> simp [b2n]

theorem mbxstat_fields (s : State) : let f := bits s.mbxstat.toNat
    f 0 1 = s.mbxBusy.toNat ∧ f 1 1 = s.mbxOverrun.toNat ∧ f 2 6 = 0 ∧ f 8 8 = s.mbxResult.toNat ∧ f 16 16 = s.mbxTag.toNat ∧
    f 32 3 = s.stage.val ∧ f 35 8 = s.fail.toNat ∧ f 43 21 = 0 := by
  have h1 := s.mbxBusy.toNat_lt
  have h2 := s.mbxOverrun.toNat_lt
  have h3 := s.mbxResult.isLt
  have h4 := s.mbxTag.isLt
  have h5 := s.stage.isLt
  have h6 := s.fail.isLt
  simp only [State.mbxstat, b2n_eq, BitVec.toNat_ofNat, bits]
  omega

theorem link_word0_fields (l : Link) : let f := bits l.word0.toNat
    f 0 3 = l.state.val ∧ f 3 1 = l.detv.toNat ∧ f 4 4 = l.dete.toNat ∧ f 8 1 = l.deton.toNat ∧ f 9 7 = 0 ∧
    f 16 16 = l.ver.toNat ∧ f 32 16 = l.retrain.toNat ∧ f 48 16 = l.proto.toNat := by
  have h1 := l.state.isLt
  have h2 := l.detv.toNat_lt
  have h3 := l.dete.isLt
  have h4 := l.deton.toNat_lt
  have h5 := l.ver.isLt
  have h6 := l.retrain.isLt
  have h7 := l.proto.isLt
  simp only [Link.word0, b2n_eq, BitVec.toNat_ofNat, bits]
  omega

theorem link_word1_fields (l : Link) : bits l.word1.toNat 0 32 = l.replays.toNat ∧ bits l.word1.toNat 32 32 = l.fecfix.toNat := by
  have h1 := l.replays.isLt
  have h2 := l.fecfix.isLt
  simp only [Link.word1, BitVec.toNat_ofNat, bits]
  omega

theorem laser_word0_fields (x : Laser) : let f := bits x.word0.toNat
    f 0 16 = x.bias.toNat ∧ f 16 16 = x.power.toNat ∧ f 32 16 = x.trend.toNat ∧ f 48 3 = x.state.val ∧ f 51 13 = 0 := by
  have h1 := x.bias.isLt
  have h2 := x.power.isLt
  have h3 := x.trend.isLt
  have h4 := x.state.isLt
  simp only [Laser.word0, BitVec.toNat_ofNat, bits]
  omega

theorem laser_word1_fields (x : Laser) : bits x.word1.toNat 0 32 = x.hours.toNat ∧ bits x.word1.toNat 32 32 = x.eol.toNat := by
  have h1 := x.hours.isLt
  have h2 := x.eol.isLt
  simp only [Laser.word1, BitVec.toNat_ofNat, bits]
  omega

theorem eolthr_fields (x : BitVec 16) : bits (x.zeroExtend 64).toNat 0 16 = x.toNat ∧ bits (x.zeroExtend 64).toNat 16 48 = 0 := by
  have h := x.isLt
  simp only [BitVec.toNat_setWidth, bits]
  omega

/-- Every register of BAR0 reads as its fields. -/
theorem registerReadsGiveTheirFields : Claims.RegisterReadsGiveTheirFields := by
  intro s at'
  obtain ⟨m1, m2, m3, m4, m5, m6, m7, m8⟩ := mbxstat_fields s
  obtain ⟨e1, e2⟩ := eolthr_fields s.eolthr
  refine ⟨fun a ha => ?_, bar0_arg s, m1, m2, m3, m4, m5, m6, m7, m8, e1, e2, fun d => ?_, fun d w => ?_⟩
  · rcases ha with h | h | h | h | h | ⟨o, rfl, h1, h2⟩ | ⟨o, rfl, h1, h2⟩
    · exact bar0_unaligned s a h
    · exact bar0_hole s a (.inl h)
    · exact bar0_hole s a (.inr (.inl h))
    · exact bar0_hole s a (.inr (.inr (.inl h)))
    · exact bar0_hole s a (.inr (.inr (.inr h)))
    · exact bar0_pastLinks s o h1 h2
    · exact bar0_pastLasers s o h1 h2
  · obtain ⟨f1, f2, f3, f4, f5, f6, f7, f8⟩ := link_word0_fields (s.link d.val)
    dsimp only [at']
    rw [bar0_link_word0, bar0_link_word1]
    exact ⟨f1, f2, f3, f4, f5, f6, f7, f8, link_word1_fields _⟩
  · obtain ⟨f1, f2, f3, f4, f5⟩ := laser_word0_fields (s.laser (6 + d.val) w.val)
    dsimp only [at']
    rw [bar0_laser_word0, bar0_laser_word1]
    exact ⟨f1, f2, f3, f4, f5, laser_word1_fields _⟩

end Sys2Proof.Machine
end

section
/-!
Writes of registers (R6, R7, R276, R375, R385), the detour entry of a link among them (R277, R280).
-/
namespace Sys2Proof.Machine

/-! ### The links of the die, one by one -/

theorem link_of_large (s : State) (k : Nat) (h : 14 ≤ k) : s.link k = Link.cleared := by
  rw [State.link, Array.getD_eq_getD_getElem?, Array.getElem?_eq_none (by simpa using h), Option.getD_none]

theorem link_setLink (d : Nat) (l : Link) (s : State) (k : Nat) : (s.setLink d l).link k = if k = d ∧ d < 14 then l else s.link k := by
  unfold State.setLink
  split
  · next hd =>
    by_cases hk : k = d
    · subst hk
      simp [State.link, hd]
    · simp [State.link, hk, Array.getD_eq_getD_getElem?, Ne.symm hk]
  · next hd => simp [hd]

theorem link_setLink_self {d : Nat} (hd : d < 14) (l : Link) (s : State) : (s.setLink d l).link d = l := by
  simp [link_setLink, hd]

theorem link_onLink_self {d : Nat} (hd : d < 14) (f : Link → Link) (s : State) : (s.onLink d f).link d = f (s.link d) :=
  link_setLink_self hd _ s

theorem link_onLink_ne {d k : Nat} (h : k ≠ d) (f : Link → Link) (s : State) : (s.onLink d f).link k = s.link k := by
  simp [State.onLink, link_setLink, h]

/-! ### What sending leaves of a link -/

/-- What the Regulator, the changeover and the fences keep of a link: its state, its detour entry and the number of its last FENCE. -/
def Link.entry (l : Link) : Fin 8 × Bool × BitVec 4 × Bool × Nat := (l.state, l.detv, l.dete, l.deton, l.fenceNo)

/-- Every link keeps its entry. -/
def KeepsEntries (s t : State) : Prop := ∀ k, (t.link k).entry = (s.link k).entry

theorem KeepsEntries.refl (s : State) : KeepsEntries s s := fun _ => rfl

theorem KeepsEntries.trans {s t u : State} (h : KeepsEntries s t) (k : KeepsEntries t u) : KeepsEntries s u :=
  fun n => (k n).trans (h n)

theorem keepsEntries_of_links {s t : State} (h : t.links = s.links) : KeepsEntries s t := fun k => by
  simp [State.link, h]

theorem setLink_keepsEntries (d : Nat) (l : Link) (s : State) (h : l.entry = (s.link d).entry) : KeepsEntries s (s.setLink d l) := by
  intro k
  rw [link_setLink]
  split
  · next hk => rw [h, hk.1]
  · rfl

theorem onLink_keepsEntries (d : Nat) (f : Link → Link) (s : State) (h : ∀ l, (f l).entry = l.entry) :
    KeepsEntries s (s.onLink d f) := setLink_keepsEntries d _ s (h _)

theorem wireOut_keepsEntries (port : Nat) (x : Nat × Fin 4 × OutFlit) (s : State) : KeepsEntries s (s.wireOut port x) :=
  fun _ => rfl

theorem sendBare_keepsEntries (port : Nat) (c : OutCargo) (s : State) : KeepsEntries s (s.sendBare port c) := by
  unfold State.sendBare
  split
  · exact wireOut_keepsEntries port _ s
  · exact KeepsEntries.refl s

theorem putNext_keepsEntries (port : Nat) (s : State) : KeepsEntries s (s.putNext port) := by
  unfold State.putNext
  extract_lets l
  split
  · split
    · exact (onLink_keepsEntries port _ s fun _ => by rfl).trans (sendBare_keepsEntries port _ _)
    · exact KeepsEntries.refl s
  · exact (setLink_keepsEntries port _ s (by rfl)).trans (wireOut_keepsEntries port _ _)

theorem foldl_keepsEntries {α : Type} (f : State → α → State) (hf : ∀ s a, KeepsEntries s (f s a)) (l : List α) (s : State) :
    KeepsEntries s (l.foldl f s) :=
  foldl_of_step KeepsEntries KeepsEntries.refl KeepsEntries.trans f hf l s

theorem pump_keepsEntries (port : Nat) (s : State) : KeepsEntries s (s.pump port) :=
  foldl_keepsEntries _ (fun s _ => putNext_keepsEntries port s) _ s

theorem putFlit_keepsEntries (port : Nat) (lane : Fin 4) (f : OutFlit) (s : State) : KeepsEntries s (s.putFlit port lane f) :=
  (onLink_keepsEntries port _ s fun _ => by rfl).trans (pump_keepsEntries port _)

theorem forwardFlit_keepsEntries (f : OutFlit) (s : State) : KeepsEntries s (s.forwardFlit f) := by
  unfold State.forwardFlit
  split
  · exact KeepsEntries.refl s
  · exact (onLink_keepsEntries f.dim _ s fun _ => by rfl).trans (putFlit_keepsEntries _ _ f _)

theorem flushPair_keepsEntries (d : Nat) (s : State) : KeepsEntries s (s.flushPair d) :=
  foldl_keepsEntries _ (fun s f => forwardFlit_keepsEntries f s) _ s

theorem sendMark_keepsEntries (d pseq : Nat) (c : OutCargo) (s : State) : KeepsEntries s (s.sendMark d pseq c) := by
  unfold State.sendMark
  split
  · exact KeepsEntries.refl s
  · exact putFlit_keepsEntries _ _ _ s

theorem soundPairs_keepsEntries (l : List OutFlit) (s : State) : KeepsEntries s (s.soundPairs l) := by
  intro k
  by_cases hk : k < 14
  · simp [State.link, State.soundPairs, hk, Link.entry]
  · rw [link_of_large _ k (by omega), link_of_large _ k (by omega)]

theorem beginAbort_links (p : PartNo) (why : AbortCause) (s : State) : (s.beginAbort p why).links = s.links := by
  unfold State.beginAbort State.onCtx
  split <;> rfl

theorem linkUncorr_links (s : State) : s.linkUncorr.links = s.links := by
  unfold State.linkUncorr
  split
  · rw [State.abortUncorr, beginAbort_links, takeTrap_frame]
  · rfl

theorem hurt_keepsEntries (l : List OutFlit) (s : State) : KeepsEntries s (s.hurt l) := by
  unfold State.hurt
  split
  · exact keepsEntries_of_links (linkUncorr_links s)
  · exact KeepsEntries.refl s

theorem resendPair_keepsEntries (d : Nat) (s : State) : KeepsEntries s (s.resendPair d) :=
  ((soundPairs_keepsEntries _ s).trans (flushPair_keepsEntries d _)).trans (hurt_keepsEntries _ _)

theorem clockPath_keepsEntries (d : Nat) (s : State) : KeepsEntries s (s.clockPath d) :=
  onLink_keepsEntries d _ s fun _ => rfl

theorem clockPaths_keepsEntries (s : State) : KeepsEntries s s.clockPaths :=
  foldl_keepsEntries _ (fun s d => clockPath_keepsEntries d s) _ s

/-! ### What the clocks of R282 leave -/

/-- Only the links themselves may differ. -/
def LinksAlone (s t : State) : Prop := t = { s with links := t.links }

theorem onLink_linksAlone (d : Nat) (f : Link → Link) (s : State) : LinksAlone s (s.onLink d f) := by
  unfold LinksAlone State.onLink State.setLink
  split <;> rfl

theorem LinksAlone.trans {s t u : State} (h : LinksAlone s t) (k : LinksAlone t u) : LinksAlone s u := by
  unfold LinksAlone at *
  rw [k, h]

theorem clockPath_linksAlone (d : Nat) (s : State) : LinksAlone s (s.clockPath d) := by
  unfold State.clockPath
  exact onLink_linksAlone d _ s

theorem clockPaths_linksAlone (s : State) : LinksAlone s s.clockPaths :=
  foldl_of_step LinksAlone (fun _ => rfl) LinksAlone.trans _ (fun s d => clockPath_linksAlone d s) _ s

/-- A link but for the clock of R282. -/
def Link.unclocked (l : Link) : Link := { l with noPathSince := none }

theorem clockPaths_unclocked (s : State) (k : Nat) : (s.clockPaths.link k).unclocked = (s.link k).unclocked := by
  refine foldl_of_step (fun s t : State => (t.link k).unclocked = (s.link k).unclocked) (fun _ => rfl) (fun h h' => h'.trans h) _
    (fun s d => ?_) _ s
  rw [State.clockPath, State.onLink, link_setLink]
  split
  · next hk => rw [hk.1]; rfl
  · rfl

/-! ### The detour entry -/

/-- A link with the fields that a write of its detour entry gives it. -/
def Link.withEntry (v : BitVec 64) (l : Link) : Link := { l with detv := v.getLsbD 3, dete := BitVec.ofNat 4 (bits v.toNat 4 4) }

theorem dete_written (v : BitVec 64) : BitVec.ofNat 4 (bits v.toNat 4 4) = v.extractLsb' 4 4 := by
  apply BitVec.eq_of_toNat_eq
  simp only [bits, BitVec.toNat_ofNat, BitVec.extractLsb'_toNat, Nat.shiftRight_eq_div_pow]
  omega

/-- A link that is not up and has a path begins on its detour behind a new FENCE. -/
theorem changeover_entry {d : Nat} {s : State} (hd : d < 14) (hup : (s.link d).up = false) (hpath : s.hasPath d = true) :
    ((s.changeover d).link d).entry = ((s.link d).state, (s.link d).detv, (s.link d).dete, true, (s.link d).fenceNo + 1) := by
  unfold State.changeover
  extract_lets l
  rw [if_pos (by simp [l, hup, hpath])]
  rw [resendPair_keepsEntries d _ d, State.sendFence, sendMark_keepsEntries d _ _ _ d, link_onLink_self hd, link_onLink_self hd]
  rfl

theorem writeDetour_on {d : Nat} {v : BitVec 64} {s : State} (hd : d < 14) (hdead : (s.link d).state = 4)
    (hlost : (s.link d).lost = false) (hv : v.getLsbD 3 = true) (he : (v.extractLsb' 4 4).toNat ≠ d)
    (hup : (s.link (v.extractLsb' 4 4).toNat).up = true) : ((s.writeDetour d v).link d).entry =
      ((s.link d).state, v.getLsbD 3, v.extractLsb' 4 4, true, (s.link d).fenceNo + 1) := by
  have hl := link_onLink_self hd (Link.withEntry v) s
  have hdown : ((s.onLink d (Link.withEntry v)).link d).up = false := by
    rw [hl]; simp [Link.up, Link.withEntry, hdead]
  have hpath : (s.onLink d (Link.withEntry v)).hasPath d = true := by
    simp only [State.hasPath, hl, Link.withEntry, hdead, hlost, hv, dete_written, link_onLink_ne he, hup]
    simp
  have hwrite : s.writeDetour d v = ((s.onLink d (Link.withEntry v)).changeover d).clockPaths := by
    have h4 : ((s.onLink d (Link.withEntry v)).link d).state = 4 := by rw [hl]; exact hdead
    have hre : (s.onLink d (Link.withEntry v)).redetour d = (s.onLink d (Link.withEntry v)).changeover d := if_pos hdown
    rw [← hre]
    exact congrArg State.clockPaths (if_pos (.inl h4))
  rw [hwrite, clockPaths_keepsEntries _ d, changeover_entry hd hdown hpath, hl, ← dete_written]
  rfl

theorem writeDetour_off {d : Nat} {v : BitVec 64} {s : State} (hd : d < 14) (hstate : (s.link d).state ≠ 4)
    (hoff : (s.link d).deton = false) : s.writeDetour d v = (s.onLink d (Link.withEntry v)).clockPaths := by
  have hl := link_onLink_self hd (Link.withEntry v) s
  have hnot : ¬(((s.onLink d (Link.withEntry v)).link d).state = 4 ∨ ((s.onLink d (Link.withEntry v)).link d).deton = true) := by
    rw [hl]
    rintro (h | h)
    · exact hstate h
    · exact absurd (hoff.symm.trans h) (by decide)
  exact congrArg State.clockPaths (if_neg hnot)

/-! ### REGISTER_WRITE -/

theorem registerWrite_detour (s : State) (v : BitVec 64) (d : Fin 14) :
    exec (.registerWrite ⟨.regulator, 0x8000 + 0x100 * (s.dieNo.toNat % 4) + 0x10 * d.val, v⟩) s = .next (s.writeDetour d v) := by
  have hd := d.isLt
  have hdie := Nat.mod_lt s.dieNo.toNat (show 4 > 0 by decide)
  refine congrArg Host.Outcome.next ?_
  unfold opRegisterWrite
  simp only
  rw [if_neg (by omega), if_pos (by omega),
    show (0x8000 + 0x100 * (s.dieNo.toNat % 4) + 0x10 * d.val - (0x8000 + 0x100 * (s.dieNo.toNat % 4))) / 16 = d.val by omega]

theorem regAddr_config (c : Fin 4) : regAddr (0x20000 + 8 * c.val) = some (.config c) := by
  revert c; decide

theorem registerWrite_config (s : State) (v : BitVec 64) (c : Fin 4) :
    exec (.registerWrite ⟨.regulator, 0x20000 + 8 * c.val, v⟩) s =
      .next { s with bucketCfg := s.bucketCfg.set c (v &&& 0x0000_FFFF_FFFF_FFFF#64) } := by
  have hc := c.isLt
  have hdie := Nat.mod_lt s.dieNo.toNat (show 4 > 0 by decide)
  refine congrArg Host.Outcome.next ?_
  unfold opRegisterWrite
  simp only
  rw [if_neg (by omega), if_neg (by omega), regAddr_config]
  exact writeReg_config c v s

theorem registerWrite_eolthr {s : State} (v : BitVec 64) (hopen : s.mailboxOpen = true) (sp : RegSpace) :
    exec (.registerWrite ⟨sp, 0x14000, v⟩) s = .next { s with eolthr := v.truncate 16 } := by
  refine congrArg Host.Outcome.next ?_
  cases sp with
  | bar0 =>
    unfold opRegisterWrite
    simp only
    rw [if_neg (by simp [hopen]), dif_neg (by omega), if_neg (by decide), if_pos trivial]
  | regulator =>
    unfold opRegisterWrite
    exact if_pos rfl

theorem registerWrite_overrun {s : State} (v : BitVec 64) (hopen : s.mailboxOpen = true) :
    exec (.registerWrite ⟨.bar0, 0x28, v⟩) s = .next { s with mbxOverrun := s.mbxOverrun && !v.getLsbD 1 } := by
  refine congrArg Host.Outcome.next ?_
  unfold opRegisterWrite
  simp only
  rw [if_neg (by simp [hopen]), dif_neg (by omega), if_pos trivial]

theorem registerWrite_arg {s : State} (v : BitVec 64) (hopen : s.mailboxOpen = true) (k : Fin 4) :
    exec (.registerWrite ⟨.bar0, 8 + 8 * k.val, v⟩) s = .next { s with mbxArgs := s.mbxArgs.set k v } := by
  have hk := k.isLt
  refine congrArg Host.Outcome.next ?_
  unfold opRegisterWrite
  simp only
  rw [if_neg (by simp [hopen]), dif_pos (by omega)]
  simp only [show (8 + 8 * k.val) / 8 - 1 = k.val by omega]

/-- A write of a register reaches its writable fields alone. -/
theorem registerWritesReachTheirFields : Claims.RegisterWritesReachTheirFields := by
  intro s v hp ha hf
  have hopen := mailboxOpen_of hp ha hf
  refine ⟨registerWrite_arg v hopen, registerWrite_overrun v hopen, registerWrite_eolthr v hopen, registerWrite_config s v, fun d => ?_⟩
  intro e writes entry
  refine ⟨fun hstate hoff => ⟨_, registerWrite_detour s v d, ?_⟩, fun hdead hlost hv he hup => ⟨_, registerWrite_detour s v d, ?_⟩⟩
  · rw [writeDetour_off d.isLt hstate hoff]
    have hentry := clockPaths_keepsEntries (s.onLink d (Link.withEntry v)) d
    rw [link_onLink_self d.isLt] at hentry
    simp only [Link.entry, Link.withEntry, dete_written, Prod.mk.injEq] at hentry
    obtain ⟨hst, hdetv, hdete, -, -⟩ := hentry
    refine ⟨⟨hdetv, hdete, hst⟩, fun k hk => ?_, (onLink_linksAlone d _ s).trans (clockPaths_linksAlone _)⟩
    exact (clockPaths_unclocked _ k).trans (congrArg Link.unclocked (link_onLink_ne hk _ s))
  · have hentry := writeDetour_on d.isLt hdead hlost hv he hup
    simp only [Link.entry, Prod.mk.injEq] at hentry
    obtain ⟨hst, hdetv, hdete, hon, hfence⟩ := hentry
    exact ⟨⟨hdetv, hdete, hst⟩, hon, hfence⟩

/-- Settles O33: commands start and complete as their rows of R387 say, and registers are written and read field by field. -/
theorem mailboxCommandsRun : Obligations.MailboxCommandsRun :=
  ⟨mailboxCommandsStart, mailboxCommandsComplete, registerWritesReachTheirFields, registerReadsGiveTheirFields⟩

end Sys2Proof.Machine
end
